-- ==== Sys2Proof/Word.lean ====
section
/-! DEFINITION. The plainest words of the model: a byte is 8 bits (Host.Cell uses the same), every address and
count that the spec adds, compares or indexes is a natural number, and every value that the spec gives a width
and fields is a bit vector of that width (R5, R6). -/
namespace Sys2Proof

/-- One byte (R6: multi-byte values are little-endian wherever they are stored). -/
abbrev Byte := BitVec 8
/-- A 64-bit word: a register, a dictionary scalar, a stamp. -/
abbrev Word := BitVec 64
/-- A 16-bit reason code, R9 and R426. -/
abbrev Reason := BitVec 16
/-- FP32 bits, R46. -/
abbrev F32 := BitVec 32
/-- A 16-bit master identifier, R18. -/
abbrev Master := BitVec 16

end Sys2Proof
end

