-- ==== Sys2Proof/Syntax.lean ====
section
/-! DEFINITION. The commands the block takes: one constructor of `Instr` per row of spec/opcode_table.json, in
the table's order, with the row's operands. The table gives no operand fields, so the operands are those the
row's rule names: a writer's path and value for a register write, the ring for a queued command (its 128 bytes
are read from the ring), what the surroundings decide (a host's answer, a measured value) for an event. -/
namespace Sys2Proof

/-- A path by which the dictionary and the queue registers are reached, R411. -/
inductive Path where
  | fieldNet
  | mctp
  | pf (port : Fin 2)
  | vf (husk : Fin 16) (port : Fin 2)
  deriving DecidableEq, Repr

/-- A command or descriptor ring: a slice queue with the register image of one husk (R80, R81, R334), a filler
queue (R342: `unit` 8 is the vector engine's queue, any other number the matrix-engine queue as taken by that
engine), or a collective engine's ring for one husk (R373). -/
inductive RingRef where
  | slice (s : Fin 16) (q : Fin 16) (image : Fin 16)
  | filler (s : Fin 16) (unit : Fin 9)
  | coll (e : Fin 2) (h : Fin 16)
  deriving DecidableEq, Repr

/-- What a unit's access does, R449 codes 0x01 to 0x04. -/
inductive AccessKind where
  | read | write | atomic | fetch
  deriving DecidableEq, Repr

/-- How the host ends a Tier 3 access, R146. -/
inductive HostOutcome where
  | clean | poison | unreachable
  deriving DecidableEq, Repr

/-- Which prefetch entry a queue-11 step acts on: the command at the head of the queue (R152), or the entry in
flight with this number of the running schedule (R153). -/
inductive EntryRef where
  | queue
  | run (entry : Nat)
  deriving DecidableEq, Repr

/-- A coherence request that reaches the home in the same core cycle as another, R101. -/
structure CohReq where
  cluster : Fin 128
  own : Bool
  deriving DecidableEq, Repr

/-- A fabric message as its destination receives it: the header of R360 and its payload. -/
structure Msg where
  dest : BitVec 16
  vc : BitVec 3
  seq : BitVec 32
  addr : BitVec 48
  dstEpoch : BitVec 16
  srcEpoch : BitVec 16
  srcNode : BitVec 16
  srcHusk : BitVec 4
  dstHusk : BitVec 4
  kind : BitVec 8
  reason : Reason
  poisoned : Bool
  payload : List Byte
  deriving DecidableEq, Repr

/-- What the parity of R348 makes of an arriving frame. -/
inductive Parity where
  | clean | corrected | failed
  deriving DecidableEq, Repr

/-- A link frame as the receiving end sees it: header (R349), flit and what the parity found. -/
structure Frame where
  header : BitVec 64
  flit : List Byte
  parity : Parity
  deriving DecidableEq, Repr

/-- What the identification memory of an inserted cable says, R347. -/
inductive Cable where
  | passiveCopper | activeOptical | other
  deriving DecidableEq, Repr

/-- A detected error as its detector reports it, R450. Classes as CLASS of R448. -/
structure FaultReport where
  source : BitVec 16
  cls : Nat
  reason : Reason
  master : Master
  address : Word
  access : BitVec 8
  husk : BitVec 5
  condition : Bool
  deriving DecidableEq, Repr

/-- A dictionary request, R414: object, segment and length. -/
structure OdReq where
  index : BitVec 16
  sub : BitVec 8
  segment : BitVec 28
  length : BitVec 12
  deriving DecidableEq, Repr

/-- Where a field-network request came from, for the repeat rule of R435: source address and TRANSACTION. -/
structure NetOrigin where
  address : BitVec 128
  transaction : BitVec 16
  deriving DecidableEq, Repr

/-- A READ or INFO: the request, and for one from the field network where it came from (R435). -/
structure OdAsk where
  req : OdReq
  origin : Option NetOrigin
  deriving DecidableEq, Repr

/-- One constructor per row of spec/opcode_table.json. `p` is the writer's path and `v` the value written. -/
inductive Instr where
  | clockNominalRootWrite (p : Path) (v : Word)
  | rootStep
  | timeSync (dir : Fin 6) (prio : BitVec 8) (node : BitVec 16) (theirs ours : Word) (delayNs : BitVec 32)
  | timeSyncSend
  | timeHoldover
  | timeStepCommand (p : Path) (v : Word)
  | memoryAccess (m : Master) (k : AccessKind) (addr : Word) (len : Nat) (data : List Byte)
  | gets (c : Fin 128) (line : BitVec 48) (others : List CohReq)
  | getm (c : Fin 128) (line : BitVec 48) (others : List CohReq)
  | putm (c : Fin 128) (line : BitVec 48)
  | pute (c : Fin 128) (line : BitVec 48)
  | writebackLands (line : BitVec 48)
  | hostSnoop (line : BitVec 48) (invalidate : Bool)
  | nextOwnerForward (line : BitVec 48)
  | queueEnable (p : Path) (r : RingRef) (v : Word)
  | queueDisable (p : Path) (r : RingRef) (v : Word)
  | cqheadWrite (p : Path) (r : RingRef) (v : Word)
  | tailWrite (p : Path) (r : RingRef) (v : Word)
  | commandComplete (r : RingRef)
  | meNop (r : RingRef)
  | gemm (r : RingRef)
  | gemmBstream (r : RingRef)
  | drain (r : RingRef)
  | clear (r : RingRef)
  | chainSetArrival (peer sender : Master) (m n : Nat) (values : List F32) (bad : List Nat)
  | gfPiecePresent (r : RingRef) (piece : Nat)
  | feedTimeout (r : RingRef)
  | add (r : RingRef)
  | sub (r : RingRef)
  | mul (r : RingRef)
  | fma (r : RingRef)
  | div (r : RingRef)
  | sqrt (r : RingRef)
  | rsqrt (r : RingRef)
  | max (r : RingRef)
  | min (r : RingRef)
  | scaleAdd (r : RingRef)
  | exp (r : RingRef)
  | ln (r : RingRef)
  | sigmoid (r : RingRef)
  | silu (r : RingRef)
  | rope (r : RingRef)
  | rowSum (r : RingRef)
  | rowSumsq (r : RingRef)
  | rowMax (r : RingRef)
  | rowArgmax (r : RingRef)
  | rmsnorm (r : RingRef)
  | softmax (r : RingRef)
  | logsoftmax (r : RingRef)
  | convert (r : RingRef)
  | g8eQuant (r : RingRef)
  | transpose (r : RingRef)
  | gather (r : RingRef)
  | scatterAdd (r : RingRef)
  | rngUniform (r : RingRef)
  | rngNormal (r : RingRef)
  | rngBernoulli (r : RingRef)
  | dropout (r : RingRef)
  | xqPush (pip : Fin 4096) (rd rs1 rs2 : Fin 32)
  | xqPoll (pip : Fin 4096) (rd rs1 : Fin 32)
  | xqWait (pip : Fin 4096) (rd rs1 rs2 : Fin 32)
  | xbInit (pip : Fin 4096) (rd rs1 rs2 : Fin 32)
  | xbArrive (pip : Fin 4096) (rd rs1 : Fin 32)
  | xbWait (pip : Fin 4096) (rd rs1 rs2 : Fin 32)
  | xeAdd (pip : Fin 4096) (rd rs1 rs2 : Fin 32)
  | xeWait (pip : Fin 4096) (rd rs1 rs2 : Fin 32)
  | xpPoint (pip : Fin 4096) (rs1 rs2 : Fin 32)
  | waitWake (pip : Fin 4096)
  | xqWaitTimeout (pip : Fin 4096)
  | nmuNop (s : Fin 16)
  | nmuFwd (s : Fin 16)
  | nmuTrn (s : Fin 16)
  | nmuBoth (s : Fin 16)
  | huskOverlayCommit (p : Path) (h : Fin 16) (v : Word)
  | overlayTableEffect (h : Fin 16)
  | acornRepairCommit (p : Path) (v : Word)
  | repairTableEffect
  | scrubRead (slot : BitVec 48)
  | acornRefreshStart (p : Path) (v : Word)
  | acornRefreshCancel (p : Path) (v : Word)
  | huskActiveImageWrite (p : Path) (h : Fin 16) (v : Word)
  | slotReturnResident (slot : Fin 16)
  | acornImageRelease (p : Path) (v : Word)
  | acornInstallStart (p : Path) (v : Word)
  | installManifestVerified (manifest signature : List Byte)
  | installChunk (chunk : Nat) (data : List Byte)
  | writePulseEnd (a : Fin 8) (verified : Bool)
  | acornInstallCancel (p : Path) (v : Word)
  | installUpstreamTimeout
  | tier3ReadCompletion (port : Fin 2) (id : Nat) (o : HostOutcome)
  | tier3CompletionTimeout (port : Fin 2) (id : Nat)
  | tier3WriteAck (port : Fin 2) (id : Nat) (acked : Bool)
  | copy (s : Fin 16) (e : EntryRef)
  | shardFetch (s : Fin 16) (e : EntryRef)
  | shardPoll (s : Fin 16) (e : EntryRef)
  | shardPublish (s : Fin 16) (e : EntryRef)
  | poolEnsure (s : Fin 16) (e : EntryRef)
  | poolPin (s : Fin 16) (e : EntryRef)
  | stepEnd (s : Fin 16) (e : EntryRef)
  | scheduleRun (s : Fin 16)
  | scheduleEntryIssue (s : Fin 16)
  | prefetchEntryComplete (s : Fin 16) (e : EntryRef)
  | prefetchTimeout (s : Fin 16) (e : EntryRef)
  | poolWaitServed (h : Fin 16)
  | huskPoolFlush (p : Path) (h : Fin 16) (v : Word)
  | attnNop (s : Fin 16)
  | attnFwd (s : Fin 16)
  | attnBwd (s : Fin 16)
  | ringShardPresent (s : Fin 16)
  | attnRingTimeout (s : Fin 16)
  | podAlloc (s : Fin 16)
  | podShare (s : Fin 16)
  | podRelease (s : Fin 16)
  | podAppend (s : Fin 16)
  | podCommit (s : Fin 16)
  | podRetract (s : Fin 16)
  | podSwapOut (s : Fin 16)
  | podSwapIn (s : Fin 16)
  | podForward (s : Fin 16)
  | podAllocGrant
  | podRetireFree (pod : Nat)
  | podSpan (m : Msg)
  | podEnd (m : Msg)
  | swapWriteAck (id : Nat)
  | swapWriteFailed (id : Nat)
  | swapInReadDone (id : Nat) (o : HostOutcome)
  | samplerNop (s : Fin 16)
  | sample (s : Fin 16)
  | seqAdmit (s : Fin 16)
  | seqPlan (s : Fin 16)
  | seqCommit (s : Fin 16)
  | seqFinish (s : Fin 16)
  | seqPause (s : Fin 16)
  | seqResume (s : Fin 16)
  | seqRelease (s : Fin 16)
  | tenantSet (s : Fin 16)
  | seqHoldExpiry (h : Fin 16) (seq : BitVec 16)
  | tenantWindowBoundary
  | tenantWindowWrite (p : Path) (v : Word)
  | seqCancel (p : Path) (h : Fin 16) (v : Word)
  | seqCancelGroup (p : Path) (h : Fin 16) (v : Word)
  | seqCancelEffect (h : Fin 16)
  | huskReplaceStart (p : Path) (h : Fin 16) (v : Word)
  | replaceDrained (h : Fin 16)
  | huskReplaceLayerDone (p : Path) (h : Fin 16) (v : Word)
  | ckptTableWrite (p : Path) (h : Fin 16) (v : Word)
  | reductionDeadline (e : Fin 2) (h : Fin 16) (collId : BitVec 32)
  | contribFold (e : Fin 2) (h : Fin 16) (collId : BitVec 32)
  | updateNop (s : Fin 16)
  | update (s : Fin 16)
  | updateGradReady (s : Fin 16)
  | updateGradTimeout (s : Fin 16)
  | paramCommit (s : Fin 16)
  | huskTurnStart (p : Path) (h : Fin 16) (v : Word)
  | turnValidated (h : Fin 16)
  | turnDrainEnd (h : Fin 16)
  | turnDrainTimeout (h : Fin 16)
  | turnArrive (m : Msg)
  | turnBarrierTimeout (h : Fin 16)
  | turnCopy (m : Msg)
  | turnAck (m : Msg)
  | turnDone (m : Msg)
  | turnAbort (m : Msg)
  | turnCommitTimeout (h : Fin 16)
  | turnSwitchDone (h : Fin 16)
  | huskTurnCancel (p : Path) (h : Fin 16) (v : Word)
  | turnResolveCommit (p : Path) (h : Fin 16)
  | turnResolveAbort (p : Path) (h : Fin 16)
  | huskEnable (p : Path) (h : Fin 16)
  | huskEnableDone (h : Fin 16)
  | huskDisable (p : Path) (h : Fin 16)
  | hbmFrameOwnerWrite (p : Path) (req : OdReq) (data : List Byte)
  | cycleCommit (p : Path) (v : Word)
  | cycleTableEffect
  | cycleEnableWrite (p : Path) (v : Word)
  | cycleSlotRequest
  | preemptSaveDone (s : Fin 16)
  | restoreDone (s : Fin 16)
  | slotRelease (s : Fin 16)
  | preemptForcedStop (s : Fin 16)
  | fillerTake (s : Fin 16) (unit : Fin 9)
  | fillerEvict (s : Fin 16) (unit : Fin 9)
  | linkFrameReceive (k : Fin 24) (f : Frame)
  | retryReq (k : Fin 24) (seq : BitVec 12)
  | goingDown (k : Fin 24)
  | linkRetryExhausted (k : Fin 24)
  | lossOfSignal (k : Fin 24)
  | linkCreditTimeout (k : Fin 24)
  | cableInserted (dir : Fin 6) (c : Cable)
  | linkUp (k : Fin 24) (farNode : BitVec 16) (farDims : BitVec 32)
  | portSupplyOverload (dir : Fin 6)
  | linkStatus (m : Msg)
  | linkStatusSend
  | epochNotice (m : Msg)
  | nack (m : Msg)
  | msgContTimeout (id : Nat)
  | fabricDirPowerReq (p : Path) (dir : Fin 6) (v : Word)
  | dirPowerTransitionDone (dir : Fin 6)
  | portDrainEnd
  | allReduce (e : Fin 2) (h : Fin 16)
  | reduceScatter (e : Fin 2) (h : Fin 16)
  | allGather (e : Fin 2) (h : Fin 16)
  | allToAll (e : Fin 2) (h : Fin 16)
  | broadcast (e : Fin 2) (h : Fin 16)
  | reduce (e : Fin 2) (h : Fin 16)
  | chainBcast (e : Fin 2) (h : Fin 16)
  | send (e : Fin 2) (h : Fin 16)
  | recv (e : Fin 2) (h : Fin 16)
  | chainLink (e : Fin 2) (h : Fin 16)
  | collSourceReady (e : Fin 2) (h : Fin 16) (collId : BitVec 32)
  | data (m : Msg)
  | running (m : Msg)
  | decision (m : Msg)
  | receipt (m : Msg)
  | ringSlotFree (e : Fin 2) (h : Fin 16) (collId : BitVec 32)
  | collNotPostedResend (e : Fin 2) (id : Nat)
  | collTimeout (e : Fin 2) (h : Fin 16) (collId : BitVec 32)
  | ledgerCheck
  | energyWindowEnd (microjoules : Nat)
  | ledgerSnapshot (p : Path) (v : Word)
  | ledgerSnapshotTaken
  | ledgerFirstBrokenClear (p : Path) (v : Word)
  | odRead (p : Path) (ask : OdAsk)
  | odWrite (p : Path) (req : OdReq) (v : Word) (data : List Byte) (origin : Option NetOrigin) (saved : Bool)
  | odInfo (p : Path) (ask : OdAsk)
  | configRestoreDefaults (p : Path) (v : Word)
  | hdmWrite (port : Fin 2) (offset : BitVec 30) (data : List Byte)
  | perstAssert (port : Fin 2)
  | perstRelease (port : Fin 2)
  | mctpControl (binding : Fin 3) (setEid : Option (BitVec 8))
  | mctpVendorRequest (binding : Fin 3) (header : BitVec 192) (data : List Byte)
  | pldmRequest (binding : Fin 3) (type command : BitVec 8) (item : Nat)
  | i3cEntdaa (address : BitVec 7)
  | i3cSetdasa (static dynamic : BitVec 7)
  | bypass
  | idcode
  | samplePreload (contacts preload : BitVec 24)
  | extest
  | firmwareStart (p : Path) (v : Word)
  | firmwareManifestVerified
  | firmwareWriteDone (programmed : Bool)
  | firmwareReadbackDone
  | firmwareCancel (p : Path) (v : Word)
  | firmwareActivate (p : Path) (v : Word)
  | firmwareBootResult (good : Bool)
  | firmwareKeyRevoke (p : Path) (v : Word)
  | faultEvent (f : FaultReport)
  | faultConditionEnd (source : BitVec 16)
  | faultAck (p : Path) (v : Word)
  | escalationExpiry (h : Fin 16)
  | hangMonitor (m : Master)
  | reinitDone (m : Master) (ok : Bool)
  | faultRecoverUnit (p : Path) (v : Word)
  | recoveryStepOverrun (source : BitVec 16)
  | faultQuietEnd (source : BitVec 16)
  | faultInject (p : Path) (v : Word)
  | faultUnfence (p : Path) (v : Word)
  | resetNAssert
  | resetNRelease
  | resetCommandHusk (p : Path) (v : Word)
  | resetCommandWarm (p : Path) (v : Word)
  | resetCommandCold (p : Path) (v : Word)
  | huskResetDone (h : Fin 16)
  | warmResetDone
  | coldResetDone
  | powerCommandDown (p : Path)
  | powerCommandCycle (p : Path)
  | controllerWatchdog
  | railPowerGood (r : Fin 15)
  | railDischarged (r : Fin 15)
  | railWindowExpiry (r : Fin 15)
  | railFault (r : Fin 15)
  | powerOffHoldExpiry
  | pwrfailAssert
  | pwrfailRelease
  | pwrfailCommit
  | pwrfailPowerDown
  | inputApplied (ga : BitVec 4)
  | domainPowerMaskWrite (p : Path) (v : Word)
  | capperStep (watts : Nat)
  | powerExcursion (watts : Nat)
  | droopDetect (s : Fin 16)
  | droopRecover (s : Fin 16) (cycles : Nat)
  | thermalSample (readings : List Nat)
  | thermalThrottleStep
  | thermalRecoveryStep
  | thermalTrip (point : Fin 36)
  | thermalTripHoldExpiry
  | huskPhaseSet (p : Path) (h : Fin 16) (v : Word)
  | huskOpPointWrite (p : Path) (h : Fin 16) (point : Fin 64) (v : Word)
  | powerSustainedLimitWrite (p : Path) (v : Word)
  | translationInvalidation (h : Fin 16)
  | illegalInstruction (pip : Fin 4096) (insn : BitVec 32)
  | hostLinkUp (port : Fin 2) (rate width : BitVec 8)
  | hostLinkDown (port : Fin 2)
  | controllerRestartDone
  | vaonStoreExpiry
  deriving DecidableEq, Repr

end Sys2Proof
end

