-- ==== Sys2Proof/Config.lean ====
section
/-! DEFINITION. What the spec leaves to the implementation or to chance: opaque constants with no body, so that no
proof can see a value of them. Each is named in the assumption log. -/
namespace Sys2Proof

/-- A band entry of a matrix record, R108. -/
structure Band where
  offset : Nat
  trCount : Nat
  tr0 : Nat
  stack : Nat
  deriving DecidableEq, Repr

/-- A matrix record, R108. -/
structure MatrixRec where
  id : Nat
  rows : Nat
  cols : Nat
  fmt : Nat
  nmu0 : Nat
  bands : List Band
  deriving DecidableEq, Repr

/-- A chunk-table entry of an image manifest, R128. -/
structure ChunkEnt where
  stack : Nat
  offset : Nat
  length : Nat
  digest : Nat
  deriving DecidableEq, Repr

/-- What an image manifest holds, R128: its matrix records stand as the 128-byte records of R108. -/
structure Manifest where
  image : Nat
  key : List Byte
  extent : Nat
  records : List (BitVec 1024)
  chunks : List ChunkEnt
  deriving DecidableEq, Repr, Inhabited

end Sys2Proof

namespace Sys2Proof.Config

/-- Which FP32 number within 1 ulp RSQRT gives, R88 (log entry 2). -/
opaque rsqrtPick : F32 → Fin 3
/-- What RSQRT gives of a zero or of a value below zero, where R88 states no result (log entry 2). -/
opaque rsqrtOutside : F32 → F32
/-- The code written for a finite element of an MXFP8 block that holds a NaN or an infinity (R47, R523 give only the
block's scale; log entry 3). -/
opaque nanBlockElement : Nat → Nat
/-- A byte of a Tier 3 slot whose swap a husk reset abandoned: R211 leaves its contents undefined (log entry 158). -/
opaque abandonedByte : Nat → Nat → Byte
/-- A byte of poisoned data at an address: R40, R79 and R143 say that it is poisoned, not what it holds (log entry 6). -/
opaque poisonByte : Nat → Byte
/-- The two 256-bit keys of a pair that the root of trust drew, by the serial of the draw: `false` the first, `true` the
second (R330; log entry 7). -/
opaque keyPair : Nat → Bool → BitVec 256
/-- Whether an access uses a cached translation that differs from the table in memory, R45 (log entry 8). -/
opaque cacheHit : Nat → Bool
/-- Whether a request for pods meets the grants of its tick in one control cycle, R197 (log entry 61). -/
opaque sameCycle : Nat → Bool
/-- What a counter or a field holds when the number to be held in it does not fit its width, which the spec does not state
(log entry 84). -/
opaque outOfField : Nat → Word
/-- Which FP32 number within 1 ulp cos2pi_d gives, R228 (log entry 9). -/
opaque cos2piPick : F32 → Fin 3
/-- What ROPE writes for an element with no partner, an odd COLS (R88 states pairs only; log entry 12). -/
opaque ropeUnpaired : F32 → F32
/-- A value that the spec does not state, one for each number of the free counter (log entry 15). -/
opaque freeWord : Nat → Word

/-- The sum of two partial sums of attention, each with its maximum (m₁, x₁, m₂, x₂), merged with canonical mode off: R68
says that partial triples are merged in arrival order, not by which operations (log entry 26). -/
opaque mergeSum : F32 → F32 → F32 → F32 → F32
/-- The pod geometry that a plan gives a sequence whose list holds no pod yet (R241 names none), by husk, packed as
LOG2_TOKENS, HEADS × 2⁴, HEAD_DIM × 2¹², FMT × 2¹⁴ (log entry 27). -/
opaque planGeometry : Nat → Nat

/-- SHA-384 of some bytes (the spec names the standard; its value is not needed here, log entry 17). -/
opaque sha384 : List Byte → Nat
/-- Does an ECDSA P-384 signature over a digest verify under a public key (log entry 17)? -/
opaque p384Verify : List Byte → Nat → List Byte → Bool
/-- The SHA-384 digests of firmware signing keys that the module's fuses hold, R440 (log entry 17). -/
opaque fuseDigests : List Nat
/-- Byte i of an entry of AcornPoisonList: R122 names the fields of its 16 bytes (slot, IMAGE_ID, MATRIX_ID, TR, TC) and not
their places (log entry 41). -/
opaque poisonListByte : Nat → Nat → Nat → Nat → Nat → Nat → Byte
/-- The ten digits of SerialNumber, R417: per module (log entry 42). -/
opaque serialDigits : Fin 10 → Fin 10
/-- FieldNetMac, R434: derived from SerialNumber (log entry 42). -/
opaque fieldNetMac : BitVec 48
/-- EnergyCoefficients, R502: a table that the spec does not print (log entry 37). -/
opaque energyTable : List Byte
/-- What the bytes of an image manifest hold: R128 gives its contents and not their places (log entry 18). -/
opaque manifestOf : List Byte → Manifest
/-- The IMAGE_ID that the first 4,096 bytes of an image file hold: R128 does not give its place (log entry 18). -/
opaque fileImage : List Byte → Nat

end Sys2Proof.Config
end

