-- ==== Sys2Proof/Machine/Aes.lean ====
section
/-! DEFINITION. AES-256 and its XTS mode over a line of 64 bytes (R330 to R332), as the standards that the spec names give
them: bytes are numbers below 256, a block is 16 of them in the standard's column order. -/
namespace Sys2Proof.Machine

/-- The S-box, byte x at bits 8x. -/
def aesSbox : Nat :=
  0x16BB54B00F2D99416842E6BF0D89A18CDF2855CEE9871E9B948ED9691198F8E19E1DC186B95735610EF6034866B53E708A8BBD4B1F74DDE8C6B4A61C2E2578BA08AE7A65EAF4566CA94ED58D6D37C8E779E4959162ACD3C25C2406490A3A32E0DB0B5EDE14B8EE4688902A22DC4F816073195D643D7EA7C41744975FEC130CCDD2F3FF1021DAB6BCF5389D928F40A351A89F3C507F02F94585334D43FBAAEFD0CF584C4A39BECB6A5BB1FC20ED00D153842FE329B3D63B52A05A6E1B1A2C830975B227EBE28012079A059618C323C7041531D871F1E5A534CCF73F362693FDB7C072A49CAFA2D4ADF04759FA7DC982CA76ABD7FE2B670130C56F6BF27B777C63
/-- The inverse S-box, likewise. -/
def aesInvSbox : Nat :=
  0x7D0C2155631469E126D677BA7E042B17619953833CBBEBC8B0F52AAE4D3BE0A0EF9CC9939F7AE52D0D4AB519A97F51605FEC8027591012B131C7078833A8DD1FF45ACD78FEC0DB9A2079D2C64B3E56FC1BBE18AA0E62B76F89C5291D711AF1476EDF751CE837F9E28535ADE72274AC9673E6B4F0CECFF297EADC674F4111913A6B8A130103BDAFC1020F3FCA8F1E2CD00645B3B80558E4F70AD3BC8C00ABD890849D8DA75746155EDAB9EDFD5048706C92B6655DCC5CA4D41698688664F6F87225D18B6D49A25B76B224D92866A12E084EC3FA420B954CEE3D23C2A632947B54CBE9DEC444438E3487FF2F9B8239E37CFBD7F3819EA340BF38A53630D56A0952

/-- Substitution of a byte. -/
def aesSub (x : Nat) : Nat := (aesSbox >>> (8 * x)) % 256
/-- Inverse substitution of a byte. -/
def aesInvSub (x : Nat) : Nat := (aesInvSbox >>> (8 * x)) % 256
/-- Multiplication by x in GF(2^8). -/
def aesXtime (x : Nat) : Nat := if x < 128 then 2 * x else (2 * x - 256) ^^^ 0x1B
/-- Multiplication by a constant below 16 in GF(2^8). -/
def aesMul (c x : Nat) : Nat :=
  let x2 := aesXtime x
  let x4 := aesXtime x2
  (if c % 2 = 1 then x else 0) ^^^ (if c / 2 % 2 = 1 then x2 else 0) ^^^ (if c / 4 % 2 = 1 then x4 else 0)
    ^^^ (if c / 8 % 2 = 1 then aesXtime x4 else 0)
/-- Bytewise exclusive or. -/
def aesXor (a b : List Nat) : List Nat := List.zipWith (fun x y => x ^^^ y) a b

/-- The key schedule: words newest first, `i` the number of the next. -/
def aesExpand : Nat → Nat → List (List Nat) → List (List Nat)
  | 0, _, ws => ws.reverse
  | n + 1, i, ws =>
    let t := ws.headD []
    let u := if i % 8 = 0 then aesXor ((t.drop 1 ++ t.take 1).map aesSub) [(List.range (i / 8 - 1)).foldl (fun r _ => aesXtime r) 1, 0, 0, 0]
      else if i % 8 = 4 then t.map aesSub else t
    aesExpand n (i + 1) (aesXor (ws.getD 7 []) u :: ws)

/-- The 15 round keys of a 256-bit key given as 32 bytes. -/
def aesRoundKeys (key : List Nat) : List (List Nat) :=
  let w := aesExpand 52 8 ((List.range 8).map (fun i => (key.drop (4 * i)).take 4)).reverse
  (List.range 15).map (fun r => ((w.drop (4 * r)).take 4).flatten)

/-- The rows of a block rotated: row r by `k r` columns to the left. -/
def aesRows (k : Nat → Nat) (b : List Nat) : List Nat :=
  (List.range 16).map (fun i => b.getD (i % 4 + 4 * ((i / 4 + k (i % 4)) % 4)) 0)

/-- Every column of a block multiplied by the circulant of four constants. -/
def aesColumns (c0 c1 c2 c3 : Nat) (b : List Nat) : List Nat :=
  (List.range 16).map (fun i =>
    let x (j : Nat) : Nat := b.getD (i / 4 * 4 + (i + j) % 4) 0
    aesMul c0 (x 0) ^^^ aesMul c1 (x 1) ^^^ aesMul c2 (x 2) ^^^ aesMul c3 (x 3))

/-- AES-256 encryption of a block under round keys. -/
def aesEncryptBlock (ks : List (List Nat)) (b : List Nat) : List Nat :=
  let last (x : List Nat) : List Nat := aesRows id (x.map aesSub)
  let mid := ((ks.drop 1).take 13).foldl (fun x k => aesXor (aesColumns 2 3 1 1 (last x)) k) (aesXor b (ks.getD 0 []))
  aesXor (last mid) (ks.getD 14 [])

/-- AES-256 decryption of a block under round keys. -/
def aesDecryptBlock (ks : List (List Nat)) (b : List Nat) : List Nat :=
  let first (x : List Nat) : List Nat := (aesRows (fun r => 4 - r) x).map aesInvSub
  let mid := ((ks.drop 1).take 13).reverse.foldl (fun x k => aesColumns 14 11 13 9 (aesXor (first x) k)) (aesXor b (ks.getD 14 []))
  aesXor (first mid) (ks.getD 0 [])

/-- A number's 16 bytes, little-endian. -/
def aesBytes (n : Nat) : List Nat := (List.range 16).map (fun i => n >>> (8 * i) % 256)
/-- The number that bytes make, little-endian. -/
def aesNat (l : List Nat) : Nat := l.foldr (fun b n => b + 256 * n) 0

/-- The next block's tweak: multiplication by x in GF(2^128). -/
def xtsNext (t : Nat) : Nat := if t < 2 ^ 127 then 2 * t else (2 * t - 2 ^ 128) ^^^ 0x87

/-- XTS over the four blocks of a line whose data unit has the number `unit` (physical address bits [47:6], R331). -/
def xtsLine (crypt : List (List Nat) → List Nat → List Nat) (key1 key2 : List Nat) (unit : Nat) (line : List Nat) : List Nat :=
  let k1 := aesRoundKeys key1
  let t0 := aesNat (aesEncryptBlock (aesRoundKeys key2) (aesBytes unit))
  ((List.range 4).map (fun j =>
    let t := aesBytes ((List.range j).foldl (fun t _ => xtsNext t) t0)
    aesXor (crypt k1 (aesXor ((line.drop (16 * j)).take 16) t)) t)).flatten

/-- The bytes of one of the two keys of a pair, by the serial of the draw (R330; log entry 7). -/
def pairKey (serial : Nat) (second : Bool) : List Nat :=
  (List.range 32).map (fun i => ((Config.keyPair serial second).toNat >>> (8 * i)) % 256)

/-- A line's bytes as they stand in HBM, from the bytes that were written under the key pair `serial` (0: no encryption). -/
def sealLine (serial unit : Nat) (line : List Byte) : List Byte :=
  if serial = 0 then line
  else (xtsLine aesEncryptBlock (pairKey serial false) (pairKey serial true) unit (line.map BitVec.toNat)).map (BitVec.ofNat 8)

/-- A line's stored bytes as an access under the key pair `serial` sees them (0: no decryption). -/
def openLine (serial unit : Nat) (line : List Byte) : List Byte :=
  if serial = 0 then line
  else (xtsLine aesDecryptBlock (pairKey serial false) (pairKey serial true) unit (line.map BitVec.toNat)).map (BitVec.ofNat 8)

/-- HuskKeyCheck of a key pair: bits [31:0] of the encryption of a block of zeros under the first key (R330). -/
def keyCheck (serial : Nat) : Nat :=
  aesNat ((aesEncryptBlock (aesRoundKeys (pairKey serial false)) (List.replicate 16 0)).take 4)

end Sys2Proof.Machine
end

