-- ==== Sys2Proof/Machine/Num.lean ====
section
/-! DEFINITION. Number formats and canonical arithmetic (spec/02): exact values, the scalar formats of R46, the
conversions of R47 and R53, the FP32 operations, the canonical dot product of R55 to R57 and the functions of R63.
Every value is computed exactly and narrowed once. -/
namespace Sys2Proof.Machine

/-- An exact number: NaN, an infinity, or (−1)^neg × m × 2^e. -/
inductive Val where
  | nan
  | inf (neg : Bool)
  | fin (neg : Bool) (m : Nat) (e : Int)
  deriving DecidableEq, Repr

/-- A binary floating-point format of R46. `maxFin` is the code of the largest finite value. -/
structure FloatFmt where
  man : Nat
  exp : Nat
  bias : Nat
  maxFin : Nat
  hasInf : Bool
  nanCode : Option Nat
  deriving DecidableEq, Repr

/-- R46, row FP32. -/
def fmtF32 : FloatFmt := ⟨23, 8, 127, 0x7F7FFFFF, true, some 0x7FC00000⟩
/-- R46, row BF16. -/
def fmtBf16 : FloatFmt := ⟨7, 8, 127, 0x7F7F, true, some 0x7FC0⟩
/-- R46, row FP16. -/
def fmtF16 : FloatFmt := ⟨10, 5, 15, 0x7BFF, true, some 0x7E00⟩
/-- R46, row FP8 E4M3: S.1111.111 is NaN, no infinity. -/
def fmtE4m3 : FloatFmt := ⟨3, 4, 7, 0x7E, false, some 0x7F⟩
/-- R46, row FP8 E5M2. -/
def fmtE5m2 : FloatFmt := ⟨2, 5, 15, 0x7B, true, some 0x7E⟩
/-- R46, row FP6 E3M2. -/
def fmtE3m2 : FloatFmt := ⟨2, 3, 3, 0x1F, false, none⟩
/-- R46, row FP6 E2M3. -/
def fmtE2m3 : FloatFmt := ⟨3, 2, 1, 0x1F, false, none⟩
/-- R46, row FP4 E2M1. -/
def fmtE2m1 : FloatFmt := ⟨1, 2, 1, 0x7, false, none⟩

/-- The value a code stands for (R46; subnormals in full, R47). -/
def FloatFmt.decode (f : FloatFmt) (c : Nat) : Val :=
  let neg := (c >>> (f.exp + f.man)) % 2 == 1
  let ex := (c >>> f.man) % 2 ^ f.exp
  let fr := c % 2 ^ f.man
  if f.hasInf && ex == 2 ^ f.exp - 1 then (if fr = 0 then .inf neg else .nan)
  else if !f.hasInf && f.nanCode == some (c % 2 ^ (f.exp + f.man)) then .nan
  else if ex = 0 then .fin neg fr (1 - (f.bias : Int) - f.man)
  else .fin neg (2 ^ f.man + fr) ((ex : Int) - f.bias - f.man)

/-- Rounding modes of R52; stochastic carries the 16 generator bits u of R53. -/
inductive Rounding where
  | rne
  | rtz
  | stochastic (u : Nat)
  deriving DecidableEq, Repr

/-- Round `m / 2^sh` to an integer (R52, R53): `sh` bits are dropped. -/
def roundShift (r : Rounding) (m sh : Nat) : Nat :=
  let q := m >>> sh
  let rem := m % 2 ^ sh
  match r with
  | .rne => if 2 * rem < 2 ^ sh then q else if 2 * rem > 2 ^ sh then q + 1 else q + q % 2
  | .rtz => q
  | .stochastic u => if u < rem * 65536 / 2 ^ sh then q + 1 else q

/-- The magnitude code of `m × 2^e` rounded to the format, with no bound on the exponent above. -/
def FloatFmt.roundMag (f : FloatFmt) (r : Rounding) (m : Nat) (e : Int) : Nat :=
  if m = 0 then 0 else
  let emin : Int := 1 - f.bias
  let top : Int := max ((Nat.log2 m : Int) + e) emin
  let q : Int := top - f.man
  let n : Nat := if q ≤ e then m <<< (e - q).toNat else roundShift r m (q - e).toNat
  (top - emin).toNat <<< f.man |>.add n

/-- Conversion of a value into a format: R47 for special values and overflow, R53 for stochastic rounding. -/
def FloatFmt.encode (f : FloatFmt) (r : Rounding) (v : Val) : Nat :=
  let sgn (neg : Bool) : Nat := if neg then 2 ^ (f.exp + f.man) else 0
  match v with
  | .nan => f.nanCode.getD 0
  | .inf neg => if f.hasInf then sgn neg + (f.maxFin + 1) else match f.nanCode with
    | some c => c
    | none => sgn neg + f.maxFin
  | .fin neg m e =>
    let c := f.roundMag r m e
    if c ≤ f.maxFin then sgn neg + c
    else if f.hasInf && r != Rounding.rtz then sgn neg + (f.maxFin + 1)
    else sgn neg + f.maxFin

/-- Saturating conversion: as `encode`, a finite value never becomes an infinity (R51, R523). -/
def FloatFmt.encodeSat (f : FloatFmt) (r : Rounding) (v : Val) : Nat :=
  match v with
  | .fin neg m e => (if neg then 2 ^ (f.exp + f.man) else 0) + Nat.min (f.roundMag r m e) f.maxFin
  | _ => f.encode r v

/-- Conversion into INT8, R47: rounded to an integer, saturated; two's complement byte. -/
def encodeInt8 (r : Rounding) (v : Val) : Nat :=
  match v with
  | .nan => 0
  | .inf neg => if neg then 128 else 127
  | .fin neg m e =>
    let n : Nat := if 0 ≤ e then m <<< e.toNat else roundShift r m (-e).toNat
    if neg then (256 - Nat.min n 128) % 256 else Nat.min n 127

/-- The value of an INT8 byte. -/
def decodeInt8 (c : Nat) : Val := if c < 128 then .fin false c 0 else .fin true (256 - c) 0

/-- FP32 bits of a value, round-to-nearest-even. -/
def Val.f32 (v : Val) : F32 := BitVec.ofNat 32 (fmtF32.encode .rne v)

/-- The value of FP32 bits. -/
def valF32 (b : F32) : Val := fmtF32.decode b.toNat

/-- The canonical NaN of FP32, R46. -/
def f32NaN : F32 := 0x7FC00000#32
/-- +0 in FP32. -/
def f32Zero : F32 := 0#32
/-- 1 in FP32. -/
def f32One : F32 := 0x3F800000#32
/-- +infinity and −infinity in FP32. -/
def f32Inf (neg : Bool) : F32 := if neg then 0xFF800000#32 else 0x7F800000#32

/-- A signed integer times 2^e as a value; an exact zero is +0. -/
def Val.ofInt (i : Int) (e : Int) : Val := .fin (i < 0) i.natAbs e

/-- The signed mantissa of a finite value at a lower exponent `q`. -/
def scaledInt (neg : Bool) (m : Nat) (e q : Int) : Int :=
  let n : Nat := m <<< (e - q).toNat
  if neg then -(n : Int) else n

/-- x with its sign changed. -/
def Val.neg : Val → Val
  | .nan => .nan
  | .inf s => .inf (!s)
  | .fin s m e => .fin (!s) m e

/-- |x|. -/
def Val.abs : Val → Val
  | .nan => .nan
  | .inf _ => .inf false
  | .fin _ m e => .fin false m e

/-- Is the value zero? -/
def Val.isZero : Val → Bool
  | .fin _ m _ => m == 0
  | _ => false

/-- Is the value a number other than an infinity? -/
def Val.finite : Val → Bool
  | .fin _ _ _ => true
  | _ => false

/-- Is the value a NaN? -/
def Val.isNan : Val → Bool
  | .nan => true
  | _ => false

/-- Exact sum; IEEE signs of zero under round-to-nearest. -/
def Val.add : Val → Val → Val
  | .nan, _ => .nan
  | _, .nan => .nan
  | .inf a, .inf b => if a = b then .inf a else .nan
  | .inf a, _ => .inf a
  | _, .inf b => .inf b
  | .fin s m e, .fin t n f =>
    if m = 0 ∧ n = 0 then .fin (s && t) 0 0
    else
      let q := min e f
      Val.ofInt (scaledInt s m e q + scaledInt t n f q) q

/-- Exact product. -/
def Val.mul : Val → Val → Val
  | .nan, _ => .nan
  | _, .nan => .nan
  | .inf a, .inf b => .inf (a != b)
  | .inf a, .fin t n _ => if n = 0 then .nan else .inf (a != t)
  | .fin s m _, .inf b => if m = 0 then .nan else .inf (s != b)
  | .fin s m e, .fin t n f => .fin (s != t) (m * n) (e + f)

/-- Quotient, exact up to a sticky last bit far below any format's precision. -/
def Val.div : Val → Val → Val
  | .nan, _ => .nan
  | _, .nan => .nan
  | .inf _, .inf _ => .nan
  | .inf a, .fin t _ _ => .inf (a != t)
  | .fin s _ _, .inf b => .fin (s != b) 0 0
  | .fin s m e, .fin t n f =>
    if n = 0 then (if m = 0 then .nan else .inf (s != t))
    else
      let k := 80 + Nat.log2 n
      let q := (m <<< k) / n
      let st := if (m <<< k) % n = 0 then 0 else 1
      .fin (s != t) (2 * q + st) (e - f - k - 1)

/-- The integer square root of `m` (which is below 2^fuel), bit by bit from the top. -/
def isqrt (m : Nat) : Nat → Nat → Nat
  | 0, r => r
  | b + 1, r => let c := r + 2 ^ b; isqrt m b (if c * c ≤ m then c else r)

/-- Square root with a sticky last bit; NaN below zero (IEEE 754). -/
def Val.sqrt : Val → Val
  | .nan => .nan
  | .inf neg => if neg then .nan else .inf false
  | .fin neg m e =>
    if m = 0 then .fin neg 0 0
    else if neg then .nan
    else
      let s : Nat := if (e % 2 = 0) then 120 else 121
      let n := m <<< s
      let r := isqrt n (Nat.log2 n / 2 + 1) 0
      .fin false (2 * r + if r * r = n then 0 else 1) ((e - s) / 2 - 1)

/-- x < y on numbers, −0 below +0 (R62). NaN is below nothing. -/
def Val.lt : Val → Val → Bool
  | .nan, _ => false
  | _, .nan => false
  | .inf a, .inf b => a && !b
  | .inf a, .fin _ _ _ => a
  | .fin _ _ _, .inf b => !b
  | .fin s m e, .fin t n f =>
    if m = 0 ∧ n = 0 then s && !t
    else
      let q := min e f
      decide (scaledInt s m e q < scaledInt t n f q)

/-- FP32 addition ⊕. -/
def f32Add (a b : F32) : F32 := ((valF32 a).add (valF32 b)).f32
/-- FP32 subtraction ⊖. -/
def f32Sub (a b : F32) : F32 := ((valF32 a).add (valF32 b).neg).f32
/-- FP32 multiplication ⊗. -/
def f32Mul (a b : F32) : F32 := ((valF32 a).mul (valF32 b)).f32
/-- FP32 division ⊘. -/
def f32Div (a b : F32) : F32 := ((valF32 a).div (valF32 b)).f32
/-- x × y + z rounded once, R88. -/
def f32Fma (a b c : F32) : F32 := (((valF32 a).mul (valF32 b)).add (valF32 c)).f32
/-- Correctly rounded square root. -/
def f32Sqrt (a : F32) : F32 := (valF32 a).sqrt.f32
/-- The larger, −0 below +0, canonical NaN when either is NaN (R62, R88). -/
def f32Max (a b : F32) : F32 :=
  let x := valF32 a
  let y := valF32 b
  if x.isNan || y.isNan then f32NaN else if x.lt y then b else a
/-- The smaller, as `f32Max`. -/
def f32Min (a b : F32) : F32 :=
  let x := valF32 a
  let y := valF32 b
  if x.isNan || y.isNan then f32NaN else if y.lt x then b else a
/-- FP32 comparison: a ≥ b, false with a NaN. -/
def f32Ge (a b : F32) : Bool :=
  let x := valF32 a
  let y := valF32 b
  !x.isNan && !y.isNan && (!(x.lt y) || (x.isZero && y.isZero))
/-- An unsigned integer as FP32. -/
def f32OfNat (n : Nat) : F32 := (Val.fin false n 0).f32

/-- The reciprocal square root of R88, within 1 ulp of the true value: `Config.rsqrtPick` chooses among the FP32
numbers within that bound (a free value, log entry 2), and gives the value where the operand has no root. -/
def f32Rsqrt (a : F32) : F32 :=
  match valF32 a with
  | .nan => f32NaN
  | .inf false => f32Zero
  | .inf true => Config.rsqrtOutside a
  | .fin neg m e =>
    if m = 0 ∨ neg then Config.rsqrtOutside a
    else
      let v := (Val.div (.fin false 1 0) (.fin false m e)).sqrt
      let t := fmtF32.encode .rtz v
      let exact := (valF32 (BitVec.ofNat 32 t)).mul (valF32 (BitVec.ofNat 32 t)) |>.mul (.fin false m e)
      let isExact := !((exact).lt (.fin false 1 0)) && !(Val.lt (.fin false 1 0) exact)
      match Config.rsqrtPick a with
      | 0 => BitVec.ofNat 32 t
      | 1 => BitVec.ofNat 32 (t + 1)
      | 2 => if isExact then BitVec.ofNat 32 (t - 1) else BitVec.ofNat 32 t

/-- Fixed-point fraction bits of the exponential and logarithm. -/
def fxBits : Nat := 220
/-- ln 2 in units of 2^−220, rounded down. -/
def fxLn2 : Int := 1167950688773872517954935089893261764285717328480531383045641523573

/-- Taylor terms of e^r: `t` is the current term, `k` its number, all in units of 2^−220. -/
def expSeries (r : Int) : Nat → Nat → Int → Int → Int
  | 0, _, _, s => s
  | n + 1, k, t, s => let u := (t * r / (2 ^ fxBits : Int)) / (k : Int); expSeries r n (k + 1) u (s + u)

/-- e^x with a sticky last bit, R63. -/
def Val.exp : Val → Val
  | .nan => .nan
  | .inf neg => if neg then .fin false 0 0 else .inf false
  | .fin neg m e =>
    if m = 0 then .fin false 1 0
    else if (7 : Int) ≤ (Nat.log2 m : Int) + e then .fin false 1 (if neg then -400 else 400)
    else
      let x : Int := scaledInt neg m (e + fxBits) 0
      let n : Int := Int.fdiv x fxLn2
      let r := x - n * fxLn2
      let s := expSeries r 60 1 (2 ^ fxBits : Int) (2 ^ fxBits : Int)
      .fin false (2 * s.toNat + 1) (n - fxBits - 1)

/-- The odd terms z^(2k+1)/(2k+1) of atanh z. -/
def atanhSeries (z2 : Int) : Nat → Nat → Int → Int → Int
  | 0, _, _, s => s
  | n + 1, k, p, s => atanhSeries z2 n (k + 2) (p * z2 / (2 ^ fxBits : Int)) (s + p / (k : Int))

/-- ln x with a sticky last bit, R63. -/
def Val.ln : Val → Val
  | .nan => .nan
  | .inf neg => if neg then .nan else .inf false
  | .fin neg m e =>
    if m = 0 then .inf true
    else if neg then .nan
    else
      let l := Nat.log2 m
      let f0 : Int := scaledInt false m ((fxBits : Int) - l) 0
      let big := decide (f0 * f0 > 2 * (2 ^ fxBits : Int) * (2 ^ fxBits : Int))
      let one : Int := if big then 2 ^ (fxBits + 1) else 2 ^ fxBits
      let k : Int := (l : Int) + e + (if big then 1 else 0)
      let z := (f0 - one) * (2 ^ fxBits : Int) / (f0 + one)
      let s := atanhSeries (z * z / (2 ^ fxBits : Int)) 50 1 z 0
      let r := 2 * s + k * fxLn2
      if f0 = one ∧ k = 0 then .fin false 0 0
      else .fin (r < 0) (2 * r.natAbs + 1) (-(fxBits : Int) - 1)

/-- exp_d of R63. -/
def f32Exp (a : F32) : F32 := (valF32 a).exp.f32
/-- ln_d of R63. -/
def f32Ln (a : F32) : F32 := (valF32 a).ln.f32

/-- The exact sum of products of one chunk in units of 2^−300 (R56), finite operands only. -/
def chunkSum : List (Val × Val) → Int
  | [] => 0
  | (a, b) :: t => (match a.mul b with
    | .fin s m e => scaledInt s m e (-300)
    | _ => 0) + chunkSum t

/-- The block sum b_j of R55 with the special values of R57. -/
def blockSum (c : List (Val × Val)) : F32 :=
  let ps := c.map (fun p => p.1.mul p.2)
  if c.any (fun p => p.1.isNan || p.2.isNan) || ps.any Val.isNan then f32NaN
  else
    let pos := ps.elem (.inf false)
    let neg := ps.elem (.inf true)
    if pos && neg then f32NaN
    else if pos then f32Inf false
    else if neg then f32Inf true
    else
      let s := chunkSum c
      if s = 0 then f32Zero else (Val.ofInt s (-300)).f32

/-- The block sums of operand pairs whose first logical index is `first`: chunks are counted from logical index 0
(R55, R68), so the first chunk may be short. -/
def blockSums : Nat → Nat → List (Val × Val) → List F32
  | 0, _, _ => []
  | _, _, [] => []
  | n + 1, first, l =>
    let k := 32 - first % 32
    blockSum (l.take k) :: blockSums n (first + k) (l.drop k)

/-- The canonical dot product of R55 over the pairs, starting from `cInit`, first logical index `first`. -/
def canonicalDot (cInit : F32) (first : Nat) (l : List (Val × Val)) : F32 :=
  (blockSums (l.length + 1) first l).foldl f32Add cInit

/-- The canonical sum of R62: the dot product with 1. -/
def canonicalSum (cInit : F32) (l : List F32) : F32 :=
  canonicalDot cInit 0 (l.map (fun x => (valF32 x, Val.fin false 1 0)))

/-- The largest of a list (R62): canonical NaN when any is NaN; −infinity of an empty list. -/
def f32MaxOf (l : List F32) : F32 := l.foldl f32Max (f32Inf true)

/-- The lowest index of the largest value, or of a NaN when there is one (R62). -/
def argmaxOf (l : List F32) : Nat :=
  let m := f32MaxOf l
  let hit (x : F32) : Bool := if m = f32NaN then (valF32 x).isNan else x == m
  (l.findIdx? hit).getD 0

/-- m, s and the log-probabilities' common parts over logits, R62. -/
def logSumParts (z : List F32) : F32 × F32 :=
  let m := f32MaxOf z
  (m, canonicalSum f32Zero (z.map (fun x => f32Exp (f32Sub x m))))

/-- Operand formats of R74. -/
inductive Fmt where
  | f32 | bf16 | f16 | e4m3 | e5m2 | mx8e4m3 | mx8e5m2 | mx6e3m2 | mx6e2m3 | mx4 | fp4 | int8 | g8e
  deriving DecidableEq, Repr

/-- The format codes of R74; other codes are reserved. -/
def Fmt.ofCode : Nat → Option Fmt
  | 0 => some .f32
  | 1 => some .bf16
  | 2 => some .f16
  | 3 => some .e4m3
  | 4 => some .e5m2
  | 5 => some .mx8e4m3
  | 6 => some .mx8e5m2
  | 7 => some .mx6e3m2
  | 8 => some .mx6e2m3
  | 9 => some .mx4
  | 10 => some .fp4
  | 11 => some .int8
  | 12 => some .g8e
  | _ => none

/-- The element format of a code; INT8 has none. -/
def Fmt.elem : Fmt → Option FloatFmt
  | .f32 => some fmtF32
  | .bf16 => some fmtBf16
  | .f16 => some fmtF16
  | .e4m3 => some fmtE4m3
  | .e5m2 => some fmtE5m2
  | .mx8e4m3 => some fmtE4m3
  | .mx8e5m2 => some fmtE5m2
  | .mx6e3m2 => some fmtE3m2
  | .mx6e2m3 => some fmtE2m3
  | .mx4 => some fmtE2m1
  | .fp4 => some fmtE2m1
  | .int8 => none
  | .g8e => some fmtE5m2

/-- Bits of one stored element, R46 and R49. -/
def Fmt.bits : Fmt → Nat
  | .f32 => 32
  | .bf16 => 16
  | .f16 => 16
  | .mx6e3m2 => 6
  | .mx6e2m3 => 6
  | .mx4 => 4
  | .fp4 => 4
  | _ => 8

/-- Elements per block of a block-scaled format (R48, R51); 0 for a plain format. -/
def Fmt.block : Fmt → Nat
  | .mx8e4m3 => 32
  | .mx8e5m2 => 32
  | .mx6e3m2 => 32
  | .mx6e2m3 => 32
  | .mx4 => 32
  | .g8e => 16
  | _ => 0

/-- Exponent of the largest normal value of the element format, R523 and R51. -/
def Fmt.emax : Fmt → Int
  | .mx8e4m3 => 8
  | .mx8e5m2 => 15
  | .mx6e3m2 => 4
  | .mx6e2m3 => 2
  | .mx4 => 2
  | .g8e => 15
  | _ => 0

/-- The operand classes of R58. -/
def Fmt.cls : Fmt → Nat
  | .f32 => 3
  | .bf16 => 1
  | .f16 => 2
  | .int8 => 4
  | .g8e => 5
  | _ => 0

/-- May the two formats be the operands of one product (R58)? G8E is output only (R74). -/
def pairAllowed (a b : Fmt) : Bool := a.cls == b.cls && a.cls != 5

/-- Bytes per group of a block-scaled format: 32 scales and the elements of 32 blocks, R49. -/
def Fmt.groupBytes (f : Fmt) : Nat := 32 + 32 * (f.block * f.bits / 8)
/-- Elements per group, R49. -/
def Fmt.groupElems (f : Fmt) : Nat := 32 * f.block

/-- Bytes that a row of `n` elements takes, R49 (a block-scaled row is padded to whole groups). -/
def Fmt.rowBytes (f : Fmt) (n : Nat) : Nat :=
  if f.block = 0 then (n * f.bits + 7) / 8 else ((n + f.groupElems - 1) / f.groupElems) * f.groupBytes

/-- Byte offset and bit offset of element `i` of a row. -/
def Fmt.elemAt (f : Fmt) (i : Nat) : Nat × Nat :=
  if f.block = 0 then (i * f.bits / 8, i * f.bits % 8)
  else
    let g := i / f.groupElems
    let b := i % f.groupElems / f.block
    let j := i % f.block
    (g * f.groupBytes + 32 + b * (f.block * f.bits / 8) + j * f.bits / 8, j * f.bits % 8)

/-- Byte offset of the scale of element `i`'s block, R49. -/
def Fmt.scaleAt (f : Fmt) (i : Nat) : Nat := i / f.groupElems * f.groupBytes + i % f.groupElems / f.block

/-- Little-endian bytes as a number, R6. -/
def leNat : List Byte → Nat
  | [] => 0
  | b :: t => b.toNat + 256 * leNat t

/-- The low `n` bytes of a number, little-endian, R6. -/
def leBytes : Nat → Nat → List Byte
  | 0, _ => []
  | n + 1, v => BitVec.ofNat 8 v :: leBytes n (v / 256)

/-- The raw code of element `i` of a row's bytes. -/
def Fmt.codeAt (f : Fmt) (row : List Byte) (i : Nat) : Nat :=
  let (o, b) := f.elemAt i
  (leNat ((row.drop o).take 5) >>> b) % 2 ^ f.bits

/-- Scale a value by 2^(s − 127); scale 0xFF reads as NaN (R47, R48). -/
def scaleBy (s : Nat) (v : Val) : Val :=
  if s = 255 then .nan
  else match v with
    | .fin n m e => .fin n m (e + s - 127)
    | w => w

/-- The value of element `i` of a row's bytes, its block scale included (R48, R49). -/
def Fmt.valAt (f : Fmt) (row : List Byte) (i : Nat) : Val :=
  let c := f.codeAt row i
  let v := match f.elem with
    | some g => g.decode c
    | none => decodeInt8 c
  if f.block = 0 then v else scaleBy ((row[f.scaleAt i]?).getD 0).toNat v

/-- Do the bytes of element `i`, or of its scale, lie in a byte that `bad` marks? -/
def Fmt.elemBad (f : Fmt) (bad : List Bool) (i : Nat) : Bool :=
  let (o, b) := f.elemAt i
  let n := (b + f.bits + 7) / 8
  ((bad.drop o).take n).any id || (f.block != 0 && (bad[f.scaleAt i]?).getD false)

/-- The scale of a block of real values, R523; `none` when the block holds a NaN or an infinity. -/
def blockScale (emax : Int) (vs : List Val) : Option Int :=
  if vs.any (fun v => !v.finite) then none
  else
    let amax := vs.foldl (fun a v => if a.lt v.abs then v.abs else a) (Val.fin false 0 0)
    match amax with
    | .fin _ m e => if m = 0 then some (-127)
      else some (max (-127) (min 127 ((Nat.log2 m : Int) + e - emax)))
    | _ => none

/-- Pack element codes of `w` bits into one little-endian bit string, R49. -/
def packBits (w : Nat) (cs : List Nat) : Nat := cs.foldr (fun c acc => c % 2 ^ w + acc * 2 ^ w) 0

/-- What an element of a block whose scale is NaN is written as: +0 in MXFP6 and MXFP4 (R47), 0x7E in G8E (R51); in
MXFP8 a NaN or an infinity converts under R47, and of a finite element the spec says nothing (log entry 3). -/
def nanBlockElem (f : Fmt) (v : Val) : Nat :=
  match f with
  | .g8e => 0x7E
  | .mx8e4m3 => if v.finite then Config.nanBlockElement (fmtE4m3.encode .rne v) else fmtE4m3.encode .rne v
  | .mx8e5m2 => if v.finite then Config.nanBlockElement (fmtE5m2.encode .rne v) else fmtE5m2.encode .rne v
  | _ => 0

/-- One block of a block-scaled format: its scale byte and its element bytes (R51, whose residuals here are +0,
and R523; every element of a block that is all zero is +0). `rs` is the rounding of each element. A block with no element is padding.
For G8E the value quantised is the result itself taken to FP32 and ⊕ +0: it is not rounded to BF16 first (log entry 143). -/
def encodeBlock (f : Fmt) (xs : List Val) (rs : List Rounding) : Byte × List Byte :=
  let nb := f.block * f.bits / 8
  let vs := if f = .g8e then xs.map (fun v => valF32 (f32Add v.f32 f32Zero)) else xs
  match vs with
  | [] => (0x7F#8, List.replicate nb 0#8)
  | _ =>
    match blockScale f.emax vs with
    | none =>
      (0xFF#8, leBytes nb (packBits f.bits (vs.map (nanBlockElem f))))
    | some e =>
      let g := f.elem.getD fmtE4m3
      let cs := if vs.all Val.isZero then vs.map (fun _ => 0)
        else (vs.zip rs).map (fun p => g.encodeSat p.2 (scaleBy (127 - e).toNat p.1))
      (BitVec.ofNat 8 (e + 127).toNat, leBytes nb (packBits f.bits cs))

/-- `n` blocks of up to `b` elements each. -/
def chunksOf {α : Type} (b : Nat) : Nat → List α → List (List α)
  | 0, _ => []
  | n + 1, l => l.take b :: chunksOf b n (l.drop b)

/-- The bytes of a row of values in a format, R46 to R49 and R523. -/
def Fmt.encodeRow (f : Fmt) (vs : List Val) (rs : List Rounding) : List Byte :=
  match f.elem with
  | none => (vs.zip rs).map (fun p => BitVec.ofNat 8 (encodeInt8 p.2 p.1))
  | some g =>
    if f.block = 0 then
      leBytes ((vs.length * f.bits + 7) / 8) (packBits f.bits ((vs.zip rs).map (fun p => g.encode p.2 p.1)))
    else
      let ng := (vs.length + f.groupElems - 1) / f.groupElems
      (((chunksOf f.groupElems ng vs).zip (chunksOf f.groupElems ng rs)).map (fun p =>
        let bs := ((chunksOf f.block 32 p.1).zip (chunksOf f.block 32 p.2)).map (fun q => encodeBlock f q.1 q.2)
        bs.map (fun b => b.1) ++ (bs.map (fun b => b.2)).flatten)).flatten

end Sys2Proof.Machine
end

