-- ==== Sys2Proof/Machine/Catalogue.lean ====
section
/-! DEFINITION. The object catalogue of R416 to R418 and of the chapters R418 names: every object with its indexes,
subindexes, type, access right, default, stated range, writers and persistence, and one name for each scalar. -/
namespace Sys2Proof.Machine

/-- Object types, R407. -/
inductive OdType where
  | bool | u8 | u16 | u32 | u64 | i32 | i64 | f32 | str | dom
  deriving DecidableEq, Repr

/-- Access rights, R408; `w1c` is LedgerFirstBroken, cleared by writing its own value (R403, R408). -/
inductive OdAcc where
  | const | ro | rw | wo | rws | w1c
  deriving DecidableEq, Repr

/-- Which paths may write (R411, R412): every path that may write at all, the physical function only, the field network
only, or every path but a virtual function. -/
inductive OdWriters where
  | any | pf | net | hold
  deriving DecidableEq, Repr

/-- One row of the catalogue: indexes `base + stride * i` for `i < count`, subindexes `lo` to `hi`. `max = 0` stands
for no stated upper bound. `keep` marks a value that a cold reset keeps. -/
structure OdRow where
  name : String
  base : Nat
  count : Nat
  stride : Nat
  lo : Nat
  hi : Nat
  ty : OdType
  acc : OdAcc
  dflt : Nat
  min : Nat
  max : Nat
  align : Nat
  writers : OdWriters
  keep : Bool
  deriving DecidableEq, Repr

/-- A scalar object: its key (index × 256 + subindex) and its default. -/
structure OKey where
  key : Nat
  dflt : Nat
  deriving DecidableEq, Repr

/-- Rows of the catalogue, part 0. -/
def odRows0 : List OdRow := [
  ⟨"VendorName", 0x1000, 1, 1, 0x1, 0x1, .str, .const, 0, 0, 0, 1, .any, false⟩,
  ⟨"ProductName", 0x1000, 1, 1, 0x2, 0x2, .str, .const, 0, 0, 0, 1, .any, false⟩,
  ⟨"PartNumber", 0x1000, 1, 1, 0x3, 0x3, .str, .const, 0, 0, 0, 1, .any, false⟩,
  ⟨"Stepping", 0x1000, 1, 1, 0x4, 0x4, .str, .const, 0, 0, 0, 1, .any, false⟩,
  ⟨"SerialNumber", 0x1000, 1, 1, 0x5, 0x5, .str, .const, 0, 0, 0, 1, .any, false⟩,
  ⟨"DictionaryVersion", 0x1000, 1, 1, 0x6, 0x6, .u16, .const, 256, 0, 0, 1, .any, false⟩,
  ⟨"ConfigRestoreDefaults", 0x1010, 1, 1, 0x1, 0x1, .bool, .wo, 0, 0, 0, 1, .any, false⟩,
  ⟨"NvConfigWrites", 0x1010, 1, 1, 0x2, 0x2, .u32, .ro, 0, 0, 0, 1, .any, true⟩,
  ⟨"HostLinkRate", 0x1020, 1, 1, 0x1, 0x2, .u8, .ro, 0, 0, 0, 1, .any, false⟩,
  ⟨"HostLinkWidth", 0x1021, 1, 1, 0x1, 0x2, .u8, .ro, 0, 0, 0, 1, .any, false⟩,
  ⟨"HostCxlActive", 0x1022, 1, 1, 0x1, 0x2, .bool, .ro, 0, 0, 0, 1, .any, false⟩,
  ⟨"HostHdmWritesDiscarded", 0x1023, 1, 1, 0x1, 0x2, .u64, .ro, 0, 0, 0, 1, .any, false⟩,
  ⟨"FieldNetMac", 0x1024, 1, 1, 0x1, 0x1, .u64, .const, 0, 0, 0, 1, .any, false⟩,
  ⟨"FieldNetPlcaNodes", 0x1024, 1, 1, 0x2, 0x2, .u8, .rws, 8, 1, 8, 1, .any, false⟩,
  ⟨"FieldNetState", 0x1024, 1, 1, 0x3, 0x3, .u8, .ro, 0, 0, 0, 1, .any, true⟩,
  ⟨"FieldNetDropped", 0x1024, 1, 1, 0x4, 0x4, .u64, .ro, 0, 0, 0, 1, .any, true⟩,
  ⟨"MctpEid", 0x1026, 1, 1, 0x1, 0x3, .u8, .ro, 0, 0, 0, 1, .any, true⟩,
  ⟨"JtagIdcode", 0x1028, 1, 1, 0x1, 0x1, .u32, .const, 0x158a856b, 0, 0, 1, .any, false⟩,
  ⟨"FirmwareSource", 0x1030, 1, 1, 0x1, 0x1, .u64, .rw, 0, 0, 0, 1, .any, false⟩,
  ⟨"FirmwareLength", 0x1030, 1, 1, 0x2, 0x2, .u32, .rw, 0, 0, 0, 1, .any, false⟩,
  ⟨"FirmwareStart", 0x1030, 1, 1, 0x3, 0x3, .bool, .wo, 0, 0, 0, 1, .any, false⟩,
  ⟨"FirmwareCancel", 0x1030, 1, 1, 0x4, 0x4, .bool, .wo, 0, 0, 0, 1, .any, false⟩,
  ⟨"FirmwareActivate", 0x1030, 1, 1, 0x5, 0x5, .bool, .wo, 0, 0, 0, 1, .any, false⟩,
  ⟨"FirmwareActiveBank", 0x1030, 1, 1, 0x6, 0x6, .u8, .ro, 0, 0, 0, 1, .any, true⟩,
  ⟨"FirmwareActiveVersion", 0x1030, 1, 1, 0x7, 0x7, .u32, .ro, 0, 0, 0, 1, .any, true⟩,
  ⟨"FirmwareSecurityCounter", 0x1030, 1, 1, 0x8, 0x8, .u8, .ro, 0, 0, 0, 1, .any, true⟩,
  ⟨"FirmwarePendingBank", 0x1030, 1, 1, 0x9, 0x9, .u8, .ro, 255, 0, 0, 1, .any, true⟩,
  ⟨"FirmwareBootFailures", 0x1030, 1, 1, 0xA, 0xA, .u8, .ro, 0, 0, 0, 1, .any, true⟩,
  ⟨"FirmwareKeyRevoke", 0x1030, 1, 1, 0xB, 0xB, .u8, .wo, 0, 0, 3, 1, .net, false⟩,
  ⟨"FirmwareStage", 0x1031, 1, 1, 0x0, 0x0, .dom, .rw, 0, 0, 0, 1, .any, false⟩,
  ⟨"ModuleGa", 0x1040, 1, 1, 0x1, 0x1, .u8, .ro, 0, 0, 0, 1, .any, true⟩,
  ⟨"ClockNominalRoot", 0x2000, 1, 1, 0x1, 0x1, .u16, .rws, 0x1900, 0xc80, 0x1900, 100, .any, false⟩,
  ⟨"ClockBoostEnable", 0x2000, 1, 1, 0x2, 0x2, .bool, .rws, 1, 0, 0, 1, .any, false⟩,
  ⟨"ClockFixedFrequency", 0x2000, 1, 1, 0x3, 0x3, .bool, .rws, 0, 0, 0, 1, .any, false⟩,
  ⟨"ClockRootNow", 0x2000, 1, 1, 0x4, 0x4, .u16, .ro, 0x1900, 0, 0, 1, .any, false⟩,
  ⟨"TimeNow", 0x2010, 1, 1, 0x1, 0x1, .u64, .ro, 0, 0, 0, 1, .any, true⟩,
  ⟨"TimeState", 0x2010, 1, 1, 0x2, 0x2, .u8, .ro, 0, 0, 0, 1, .any, true⟩,
  ⟨"TimeOffset", 0x2010, 1, 1, 0x3, 0x3, .i32, .ro, 0, 0, 0, 1, .any, true⟩,
  ⟨"TimeMasterPriority", 0x2010, 1, 1, 0x4, 0x4, .u8, .rws, 128, 0, 0, 1, .any, false⟩,
  ⟨"TimeStepCommand", 0x2010, 1, 1, 0x5, 0x5, .bool, .wo, 0, 0, 0, 1, .any, false⟩]

/-- Rows of the catalogue, part 1. -/
def odRows1 : List OdRow := [
  ⟨"TimeLastStep", 0x2010, 1, 1, 0x6, 0x6, .i64, .ro, 0, 0, 0, 1, .any, true⟩,
  ⟨"NumericsCanonicalDefault", 0x2020, 1, 1, 0x1, 0x1, .bool, .rws, 1, 0, 0, 1, .any, false⟩,
  ⟨"ComputeFeedTimeout", 0x2030, 1, 1, 0x1, 0x1, .u32, .rws, 0x186a0, 0, 0, 1, .any, false⟩,
  ⟨"PrefetchTimeout", 0x2040, 1, 1, 0x1, 0x1, .u32, .rws, 0xc350, 0, 0, 1, .any, false⟩,
  ⟨"ShardPollInterval", 0x2040, 1, 1, 0x2, 0x2, .u32, .rws, 100, 0, 0, 1, .any, false⟩,
  ⟨"Tier3Offered", 0x2041, 1, 1, 0x1, 0x2, .u64, .rw, 0, 0, 0x100000000000, 0x10000, .pf, false⟩,
  ⟨"Tier3HostBase", 0x2041, 1, 1, 0x3, 0x4, .u64, .rw, 0, 0, 0, 0x10000, .pf, false⟩,
  ⟨"Tier3Poisoned", 0x2041, 1, 1, 0x5, 0x6, .u64, .ro, 0, 0, 0, 1, .any, false⟩,
  ⟨"HbmCorrected", 0x2042, 1, 1, 0x1, 0x8, .u64, .ro, 0, 0, 0, 1, .any, false⟩,
  ⟨"HbmFrameOwner", 0x2043, 1, 1, 0x0, 0x0, .dom, .rw, 0, 0, 0, 1, .any, false⟩,
  ⟨"PodRegionBase", 0x2050, 1, 1, 0x1, 0x1, .u64, .rw, 0, 0, 0, 0x10000, .any, false⟩,
  ⟨"PodRegionPods", 0x2050, 1, 1, 0x2, 0x2, .u32, .rw, 0, 0, 0x400000, 1, .any, false⟩,
  ⟨"PodTableBase", 0x2050, 1, 1, 0x3, 0x3, .u64, .ro, 0x12f00000000, 0, 0, 1, .any, false⟩,
  ⟨"PodsFree", 0x2050, 1, 1, 0x4, 0x4, .u32, .ro, 0, 0, 0, 1, .any, false⟩,
  ⟨"PodShortfall", 0x2050, 1, 1, 0x5, 0x5, .u32, .ro, 0, 0, 0, 1, .any, false⟩,
  ⟨"ZigguratTable", 0x2060, 1, 1, 0x2, 0x2, .dom, .const, 0, 0, 0, 1, .any, false⟩,
  ⟨"TenantWindow", 0x2070, 1, 1, 0x1, 0x1, .u32, .rws, 0x5f5e100, 0, 0, 1, .any, false⟩,
  ⟨"TenantTableBase", 0x2070, 1, 1, 0x2, 0x2, .u64, .ro, 0x15f00000000, 0, 0, 1, .any, false⟩,
  ⟨"TenantWindowStart", 0x2070, 1, 1, 0x3, 0x3, .u64, .ro, 0, 0, 0, 1, .any, false⟩,
  ⟨"CycleEnable", 0x2080, 1, 1, 0x1, 0x1, .bool, .rw, 0, 0, 0, 1, .any, false⟩,
  ⟨"CycleEntries", 0x2080, 1, 1, 0x2, 0x2, .u16, .rw, 0, 0, 0, 1, .any, false⟩,
  ⟨"CycleStartTick", 0x2080, 1, 1, 0x3, 0x3, .u64, .rw, 0, 0, 0, 1, .any, false⟩,
  ⟨"CycleCommit", 0x2080, 1, 1, 0x4, 0x4, .bool, .wo, 0, 0, 0, 1, .any, false⟩,
  ⟨"CycleCurrentSlot", 0x2080, 1, 1, 0x5, 0x5, .u16, .ro, 0, 0, 0, 1, .any, false⟩,
  ⟨"CycleSlotsLate", 0x2080, 1, 1, 0x6, 0x6, .u64, .ro, 0, 0, 0, 1, .any, false⟩,
  ⟨"CyclePeriod", 0x2080, 1, 1, 0x7, 0x7, .u32, .ro, 0, 0, 0, 1, .any, false⟩,
  ⟨"CycleGeneration", 0x2080, 1, 1, 0x8, 0x8, .u32, .ro, 0, 0, 0, 1, .any, false⟩,
  ⟨"CycleTable", 0x2081, 1, 1, 0x0, 0x0, .dom, .rw, 0, 0, 0, 1, .any, false⟩,
  ⟨"FillerIdleTicks", 0x2082, 1, 1, 0x1, 0x1, .u32, .rws, 100, 0, 0, 1, .any, false⟩,
  ⟨"ResetCommand", 0x2090, 1, 1, 0x1, 0x1, .u16, .wo, 0, 0, 0, 1, .any, false⟩,
  ⟨"PowerCommand", 0x2091, 1, 1, 0x1, 0x1, .u8, .wo, 0, 0, 0, 1, .any, false⟩,
  ⟨"PowerState", 0x2092, 1, 1, 0x1, 0x1, .u8, .ro, 0, 0, 0, 1, .any, true⟩,
  ⟨"PowerStage", 0x2092, 1, 1, 0x2, 0x2, .u8, .ro, 0, 0, 0, 1, .any, true⟩,
  ⟨"PowerOnAuto", 0x2092, 1, 1, 0x3, 0x3, .bool, .rws, 1, 0, 0, 1, .any, false⟩,
  ⟨"PowerOffHold", 0x2092, 1, 1, 0x4, 0x4, .u32, .rws, 0x989680, 0x186a0, 0x3b9aca00, 1, .any, false⟩,
  ⟨"PwrfailEvents", 0x2092, 1, 1, 0x5, 0x5, .u32, .ro, 0, 0, 0, 1, .any, true⟩,
  ⟨"RailVoltage", 0x2093, 1, 1, 0x1, 0xF, .u16, .ro, 0, 0, 0, 1, .any, true⟩,
  ⟨"RailState", 0x2094, 1, 1, 0x1, 0xF, .u8, .ro, 0, 0, 0, 1, .any, true⟩,
  ⟨"RailFaults", 0x2095, 1, 1, 0x1, 0xF, .u32, .ro, 0, 0, 0, 1, .any, true⟩,
  ⟨"ResetRecordModule", 0x2096, 1, 1, 0x1, 0x3, .u64, .ro, 0, 0, 0, 1, .any, true⟩]

/-- Rows of the catalogue, part 2. -/
def odRows2 : List OdRow := [
  ⟨"ResetRecordPort", 0x2097, 1, 1, 0x1, 0x6, .u64, .ro, 0, 0, 0, 1, .any, true⟩,
  ⟨"ResetRecordHusk", 0x2098, 1, 1, 0x1, 0x30, .u64, .ro, 0, 0, 0, 1, .any, true⟩,
  ⟨"ResetCount", 0x2099, 1, 1, 0x1, 0x7, .u32, .ro, 0, 0, 0, 1, .any, true⟩,
  ⟨"ResetInputGlitches", 0x2099, 1, 1, 0x8, 0x8, .u32, .ro, 0, 0, 0, 1, .any, true⟩,
  ⟨"DomainPowerMask", 0x209A, 1, 1, 0x1, 0x1, .u32, .rw, 0xffffffff, 0, 0, 1, .any, false⟩,
  ⟨"DomainPowered", 0x209A, 1, 1, 0x2, 0x2, .u32, .ro, 0xc0ffffff, 0, 0, 1, .any, true⟩,
  ⟨"ControllerWatchdog", 0x209B, 1, 1, 0x1, 0x1, .u32, .rws, 0x2710, 0x3e8, 0xf4240, 1, .any, false⟩,
  ⟨"ControllerRestarts", 0x209B, 1, 1, 0x2, 0x2, .u32, .ro, 0, 0, 0, 1, .any, true⟩,
  ⟨"PowerSustainedLimit", 0x20A0, 1, 1, 0x1, 0x1, .u16, .rws, 0xaf0, 0x708, 0xaf0, 1, .any, false⟩,
  ⟨"PowerPeakLimit", 0x20A0, 1, 1, 0x2, 0x2, .u16, .const, 0xe10, 0, 0, 1, .any, false⟩,
  ⟨"PowerExcursionLimit", 0x20A0, 1, 1, 0x3, 0x3, .u16, .const, 0x1068, 0, 0, 1, .any, false⟩,
  ⟨"PowerStaticAllowance", 0x20A0, 1, 1, 0x4, 0x4, .u16, .rws, 400, 0, 0x3e8, 1, .any, false⟩,
  ⟨"PowerPeakUsed", 0x20A0, 1, 1, 0x5, 0x5, .u32, .ro, 0, 0, 0, 1, .any, false⟩,
  ⟨"PowerCapReason", 0x20A0, 1, 1, 0x6, 0x6, .u16, .ro, 0, 0, 0, 1, .any, false⟩,
  ⟨"PowerIssueGated", 0x20A0, 1, 1, 0x7, 0x7, .u16, .ro, 0, 0, 0, 1, .any, false⟩,
  ⟨"PeakBudgetSpentCount", 0x20A0, 1, 1, 0x8, 0x8, .u32, .ro, 0, 0, 0, 1, .any, false⟩,
  ⟨"CapConflictCount", 0x20A0, 1, 1, 0x9, 0x9, .u32, .ro, 0, 0, 0, 1, .any, false⟩,
  ⟨"PowerExcursionEvents", 0x20A0, 1, 1, 0xA, 0xA, .u32, .ro, 0, 0, 0, 1, .any, false⟩,
  ⟨"DroopThreshold", 0x20A0, 1, 1, 0xB, 0xB, .u8, .rws, 25, 10, 60, 1, .any, false⟩,
  ⟨"ThermalTripHold", 0x20B0, 1, 1, 0x1, 0x1, .u32, .rws, 0xea60, 0x2710, 0x927c0, 1, .any, false⟩,
  ⟨"ThermalThrottleEvents", 0x20B0, 1, 1, 0x2, 0x2, .u32, .ro, 0, 0, 0, 1, .any, false⟩,
  ⟨"ThermalLimitEvents", 0x20B0, 1, 1, 0x3, 0x3, .u32, .ro, 0, 0, 0, 1, .any, false⟩,
  ⟨"HuskState", 0x3000, 16, 256, 0x1, 0x1, .u8, .ro, 0, 0, 0, 1, .any, false⟩,
  ⟨"HuskControl", 0x3000, 16, 256, 0x2, 0x2, .u8, .wo, 0, 0, 0, 1, .hold, false⟩,
  ⟨"HuskSlices", 0x3000, 16, 256, 0x3, 0x3, .u16, .rw, 0, 0, 0, 1, .hold, false⟩,
  ⟨"HuskGuestSlices", 0x3000, 16, 256, 0x4, 0x4, .u16, .rw, 0, 0, 0, 1, .hold, false⟩,
  ⟨"HuskHbmQuota", 0x3000, 16, 256, 0x5, 0x5, .u64, .ro, 0, 0, 0, 1, .any, false⟩,
  ⟨"HuskNmuShare", 0x3000, 16, 256, 0x6, 0x6, .u8, .rw, 0, 0, 0, 1, .hold, false⟩,
  ⟨"HuskVcMask", 0x3000, 16, 256, 0x7, 0x7, .u8, .rw, 14, 0, 0, 1, .hold, false⟩,
  ⟨"HuskTenantFirst", 0x3000, 16, 256, 0x8, 0x8, .u16, .rw, 0, 0, 0, 1, .hold, false⟩,
  ⟨"HuskTenantCount", 0x3000, 16, 256, 0x9, 0x9, .u16, .rw, 0, 0, 0, 1, .hold, false⟩,
  ⟨"HuskKeyCheck", 0x3000, 16, 256, 0xA, 0xA, .u32, .ro, 0, 0, 0, 1, .any, false⟩,
  ⟨"HuskKeyEpoch", 0x3000, 16, 256, 0xB, 0xB, .u32, .ro, 0, 0, 0, 1, .any, false⟩,
  ⟨"HuskPreemptions", 0x3000, 16, 256, 0xC, 0xC, .u64, .ro, 0, 0, 0, 1, .any, false⟩,
  ⟨"HuskPreemptForced", 0x3000, 16, 256, 0xD, 0xD, .u64, .ro, 0, 0, 0, 1, .any, false⟩,
  ⟨"HuskPreemptWorst", 0x3000, 16, 256, 0xE, 0xE, .u32, .ro, 0, 0, 0, 1, .any, false⟩,
  ⟨"HuskTeardowns", 0x3000, 16, 256, 0xF, 0xF, .u64, .ro, 0, 0, 0, 1, .any, false⟩,
  ⟨"HuskPageTableBase", 0x3010, 16, 256, 0x0, 0x0, .u64, .rw, 0, 0, 0, 0x1000, .pf, false⟩,
  ⟨"HuskCanonicalMode", 0x3020, 16, 256, 0x1, 0x1, .bool, .rw, 1, 0, 0, 1, .any, false⟩,
  ⟨"HuskCanonicalEpoch", 0x3020, 16, 256, 0x2, 0x2, .u32, .ro, 0, 0, 0, 1, .any, true⟩]

/-- Rows of the catalogue, part 3. -/
def odRows3 : List OdRow := [
  ⟨"HuskActiveImage", 0x3030, 16, 256, 0x1, 0x1, .u8, .rw, 255, 0, 0, 1, .hold, false⟩,
  ⟨"HuskOverlayTableBase", 0x3030, 16, 256, 0x2, 0x2, .u64, .rw, 0, 0, 0, 1, .any, false⟩,
  ⟨"HuskOverlayTableCount", 0x3030, 16, 256, 0x3, 0x3, .u32, .rw, 0, 0, 0, 1, .any, false⟩,
  ⟨"HuskOverlayCommit", 0x3030, 16, 256, 0x4, 0x4, .bool, .wo, 0, 0, 0, 1, .any, false⟩,
  ⟨"HuskOverlayGeneration", 0x3030, 16, 256, 0x5, 0x5, .u32, .ro, 0, 0, 0, 1, .any, false⟩,
  ⟨"HuskPoolBase", 0x3040, 16, 256, 0x1, 0x1, .u64, .rw, 0, 0, 0, 0x10000, .any, false⟩,
  ⟨"HuskPoolBytes", 0x3040, 16, 256, 0x2, 0x2, .u64, .rw, 0, 0, 0, 0x10000, .any, false⟩,
  ⟨"HuskPoolTableBase", 0x3040, 16, 256, 0x3, 0x3, .u64, .rw, 0, 0, 0, 1, .any, false⟩,
  ⟨"HuskPoolObjects", 0x3040, 16, 256, 0x4, 0x4, .u32, .rw, 0, 0, 0x10000, 1, .any, false⟩,
  ⟨"HuskPoolTurn", 0x3040, 16, 256, 0x5, 0x5, .u32, .ro, 1, 0, 0, 1, .any, false⟩,
  ⟨"HuskPoolBytesResident", 0x3040, 16, 256, 0x6, 0x6, .u64, .ro, 0, 0, 0, 1, .any, false⟩,
  ⟨"HuskPoolBytesLoading", 0x3040, 16, 256, 0x7, 0x7, .u64, .ro, 0, 0, 0, 1, .any, false⟩,
  ⟨"HuskPoolBytesFree", 0x3040, 16, 256, 0x8, 0x8, .u64, .ro, 0, 0, 0, 1, .any, false⟩,
  ⟨"HuskPoolEvictions", 0x3040, 16, 256, 0x9, 0x9, .u64, .ro, 0, 0, 0, 1, .any, false⟩,
  ⟨"HuskPoolFlush", 0x3040, 16, 256, 0xA, 0xA, .bool, .wo, 0, 0, 0, 1, .any, false⟩,
  ⟨"HuskPodReserve", 0x3050, 16, 256, 0x1, 0x1, .u32, .rw, 0, 0, 0, 1, .hold, false⟩,
  ⟨"HuskPodLimit", 0x3050, 16, 256, 0x2, 0x2, .u32, .rw, 0xffffffff, 0, 0, 1, .hold, false⟩,
  ⟨"HuskPodsHeld", 0x3050, 16, 256, 0x3, 0x3, .u32, .ro, 0, 0, 0, 1, .any, false⟩,
  ⟨"HuskPodRefs", 0x3050, 16, 256, 0x4, 0x4, .u64, .ro, 0, 0, 0, 1, .any, false⟩,
  ⟨"HuskPodAllocWaits", 0x3050, 16, 256, 0x5, 0x5, .u64, .ro, 0, 0, 0, 1, .any, false⟩,
  ⟨"HuskPodTieLosses", 0x3050, 16, 256, 0x6, 0x6, .u64, .ro, 0, 0, 0, 1, .any, false⟩,
  ⟨"HuskPodShareCopies", 0x3050, 16, 256, 0x7, 0x7, .u64, .ro, 0, 0, 0, 1, .any, false⟩,
  ⟨"HuskPodCowCopies", 0x3050, 16, 256, 0x8, 0x8, .u64, .ro, 0, 0, 0, 1, .any, false⟩,
  ⟨"HuskPodStaleDropped", 0x3050, 16, 256, 0x9, 0x9, .u64, .ro, 0, 0, 0, 1, .any, false⟩,
  ⟨"HuskPodSwapFailed", 0x3050, 16, 256, 0xA, 0xA, .u64, .ro, 0, 0, 0, 1, .any, false⟩,
  ⟨"HuskPodSpanRefused", 0x3050, 16, 256, 0xB, 0xB, .u64, .ro, 0, 0, 0, 1, .any, false⟩,
  ⟨"HuskSeqTableBase", 0x3060, 16, 256, 0x1, 0x1, .u64, .rw, 0, 0, 0, 128, .any, false⟩,
  ⟨"HuskSeqSlots", 0x3060, 16, 256, 0x2, 0x2, .u16, .rw, 0, 0, 0, 1, .hold, false⟩,
  ⟨"HuskStepMax", 0x3060, 16, 256, 0x3, 0x3, .u16, .rw, 128, 1, 0x1000, 1, .any, false⟩,
  ⟨"HuskGuaranteedMax", 0x3060, 16, 256, 0x4, 0x4, .u16, .rw, 0, 0, 0, 1, .any, false⟩,
  ⟨"HuskDraftCap", 0x3060, 16, 256, 0x5, 0x5, .u8, .rw, 8, 0, 8, 1, .any, false⟩,
  ⟨"HuskPrefillChunk", 0x3060, 16, 256, 0x6, 0x6, .u32, .rw, 0x2000, 128, 0x200000, 1, .any, false⟩,
  ⟨"HuskSeqActive", 0x3060, 16, 256, 0x7, 0x7, .u32, .ro, 0, 0, 0, 1, .any, false⟩,
  ⟨"HuskPlj6Mode", 0x3060, 16, 256, 0x8, 0x8, .bool, .rw, 0, 0, 0, 1, .any, false⟩,
  ⟨"HuskSeqLastReason", 0x3060, 16, 256, 0x9, 0x9, .u16, .ro, 0, 0, 0, 1, .any, false⟩,
  ⟨"HuskSeqCancel", 0x3060, 16, 256, 0x10, 0x10, .u32, .wo, 0, 0, 0, 1, .any, false⟩,
  ⟨"HuskSeqStepsInFlight", 0x3060, 16, 256, 0x11, 0x11, .u16, .ro, 0, 0, 0, 1, .any, false⟩,
  ⟨"HuskReplaceStart", 0x3060, 16, 256, 0x20, 0x20, .u64, .wo, 0, 0, 0, 1, .any, false⟩,
  ⟨"HuskReplaceState", 0x3060, 16, 256, 0x21, 0x21, .u64, .ro, 0, 0, 0, 1, .any, false⟩,
  ⟨"HuskReplaceLayerDone", 0x3060, 16, 256, 0x22, 0x22, .u16, .wo, 0, 0, 0, 1, .any, false⟩]

/-- Rows of the catalogue, part 4. -/
def odRows4 : List OdRow := [
  ⟨"HuskReplaceFlagAddr", 0x3060, 16, 256, 0x23, 0x23, .u64, .rw, 0, 0, 0, 1, .any, false⟩,
  ⟨"HuskRngKey", 0x3070, 16, 256, 0x1, 0x1, .u64, .rw, 0, 0, 0, 1, .hold, false⟩,
  ⟨"HuskCkptTableBase", 0x3080, 16, 256, 0x1, 0x1, .u64, .rw, 0, 0, 0, 1, .any, false⟩,
  ⟨"HuskCkptCount", 0x3080, 16, 256, 0x2, 0x2, .u32, .rw, 0, 0, 0x10000, 1, .any, false⟩,
  ⟨"HuskStragglerPolicy", 0x3080, 16, 256, 0x3, 0x3, .u8, .rw, 1, 0, 0, 1, .any, false⟩,
  ⟨"HuskReduceDeadline", 0x3080, 16, 256, 0x4, 0x4, .u32, .rw, 0x1e8480, 0, 0, 1, .any, false⟩,
  ⟨"HuskDeferMax", 0x3080, 16, 256, 0x5, 0x5, .u8, .rw, 2, 0, 0, 1, .any, false⟩,
  ⟨"HuskReduceQuorum", 0x3080, 16, 256, 0x6, 0x6, .u32, .rw, 0, 0, 0, 1, .any, false⟩,
  ⟨"HuskContribUsed", 0x3080, 16, 256, 0x10, 0x10, .u64, .ro, 0, 0, 0, 1, .any, false⟩,
  ⟨"HuskContribDeferred", 0x3080, 16, 256, 0x11, 0x11, .u64, .ro, 0, 0, 0, 1, .any, false⟩,
  ⟨"HuskContribDropped", 0x3080, 16, 256, 0x12, 0x12, .u64, .ro, 0, 0, 0, 1, .any, false⟩,
  ⟨"HuskContribCarried", 0x3080, 16, 256, 0x13, 0x13, .u64, .ro, 0, 0, 0, 1, .any, false⟩,
  ⟨"HuskGradNanBlocks", 0x3080, 16, 256, 0x14, 0x14, .u64, .ro, 0, 0, 0, 1, .any, false⟩,
  ⟨"HuskCkptFailures", 0x3080, 16, 256, 0x15, 0x15, .u64, .ro, 0, 0, 0, 1, .any, false⟩,
  ⟨"HuskRecomputeMismatch", 0x3080, 16, 256, 0x16, 0x16, .u64, .ro, 0, 0, 0, 1, .any, false⟩,
  ⟨"HuskUpdateTimeout", 0x3090, 16, 256, 0x1, 0x1, .u32, .rw, 0x4c4b40, 0, 0, 1, .any, false⟩,
  ⟨"HuskUpdateApplied", 0x3090, 16, 256, 0x10, 0x10, .u64, .ro, 0, 0, 0, 1, .any, false⟩,
  ⟨"HuskUpdateSkipped", 0x3090, 16, 256, 0x11, 0x11, .u64, .ro, 0, 0, 0, 1, .any, false⟩,
  ⟨"HuskUpdateAlready", 0x3090, 16, 256, 0x12, 0x12, .u64, .ro, 0, 0, 0, 1, .any, false⟩,
  ⟨"HuskTurnLayoutBase", 0x30A0, 16, 256, 0x1, 0x1, .u64, .rw, 0, 0, 0, 1, .any, false⟩,
  ⟨"HuskTurnPlanBase", 0x30A0, 16, 256, 0x2, 0x2, .u64, .rw, 0, 0, 0, 1, .any, false⟩,
  ⟨"HuskTurnParticipants", 0x30A0, 16, 256, 0x3, 0x3, .u64, .rw, 0, 0, 0, 1, .any, false⟩,
  ⟨"HuskTurnConfig", 0x30A0, 16, 256, 0x4, 0x4, .u64, .rw, 0, 0, 0, 1, .any, false⟩,
  ⟨"HuskTurnStart", 0x30A0, 16, 256, 0x5, 0x5, .bool, .wo, 0, 0, 0, 1, .any, false⟩,
  ⟨"HuskTurnCancel", 0x30A0, 16, 256, 0x6, 0x6, .bool, .wo, 0, 0, 0, 1, .any, false⟩,
  ⟨"HuskTurnResolve", 0x30A0, 16, 256, 0x7, 0x7, .u8, .wo, 0, 0, 0, 1, .any, false⟩,
  ⟨"HuskPhase", 0x30A0, 16, 256, 0x8, 0x8, .u8, .ro, 3, 0, 0, 1, .any, false⟩,
  ⟨"HuskTurnIdCurrent", 0x30A0, 16, 256, 0x9, 0x9, .u32, .ro, 0, 0, 0, 1, .any, false⟩,
  ⟨"HuskLayoutCurrent", 0x30A0, 16, 256, 0xA, 0xA, .u64, .ro, 0, 0, 0, 1, .any, false⟩,
  ⟨"HuskTurnDrainTimeout", 0x30A0, 16, 256, 0xB, 0xB, .u32, .rw, 0x989680, 0, 0, 1, .any, false⟩,
  ⟨"HuskTurnBarrierTimeout", 0x30A0, 16, 256, 0xC, 0xC, .u32, .rw, 0xf4240, 0, 0, 1, .any, false⟩,
  ⟨"HuskTurnCommitTimeout", 0x30A0, 16, 256, 0xD, 0xD, .u32, .rw, 0xbebc200, 0, 0, 1, .any, false⟩,
  ⟨"HuskCollTimeout", 0x30B0, 16, 256, 0x1, 0x1, .u32, .rw, 0x989680, 0, 0, 1, .any, false⟩,
  ⟨"HuskOpPoint", 0x30C0, 16, 256, 0x1, 0x40, .u64, .rw, 0, 0, 0, 1, .any, false⟩,
  ⟨"HuskOpPointNow", 0x30C1, 16, 256, 0x1, 0x1, .u8, .ro, 0, 0, 0, 1, .any, false⟩,
  ⟨"HuskPowerClaim", 0x30C1, 16, 256, 0x2, 0x2, .u16, .ro, 0, 0, 0, 1, .any, false⟩,
  ⟨"HuskPhaseSet", 0x30C1, 16, 256, 0x3, 0x3, .u8, .wo, 0, 0, 0, 1, .any, false⟩,
  ⟨"HuskFaultRecord", 0x30D0, 16, 256, 0x1, 0x8, .u64, .ro, 0, 0, 0, 1, .any, true⟩,
  ⟨"HuskFaultAck", 0x30D0, 16, 256, 0x10, 0x10, .u32, .wo, 0, 0, 0, 1, .any, false⟩,
  ⟨"SliceGuestEnable", 0x4000, 16, 256, 0x1, 0x1, .bool, .rw, 0, 0, 0, 1, .any, false⟩]

/-- Rows of the catalogue, part 5. -/
def odRows5 : List OdRow := [
  ⟨"SliceFillerHusk", 0x4000, 16, 256, 0x2, 0x2, .u8, .rw, 255, 0, 0, 1, .any, false⟩,
  ⟨"SliceOwner", 0x4000, 16, 256, 0x3, 0x3, .u8, .ro, 255, 0, 0, 1, .any, false⟩,
  ⟨"SliceRunning", 0x4000, 16, 256, 0x4, 0x4, .u8, .ro, 255, 0, 0, 1, .any, false⟩,
  ⟨"SliceFillerEvictions", 0x4000, 16, 256, 0x5, 0x5, .u64, .ro, 0, 0, 0, 1, .any, false⟩,
  ⟨"CoherencePointer", 0x4040, 16, 256, 0x1, 0x1, .u8, .ro, 0, 0, 0, 1, .any, false⟩,
  ⟨"PrefetchStallTicks", 0x4050, 16, 256, 0x1, 0x5, .u64, .ro, 0, 0, 0, 1, .any, false⟩,
  ⟨"PrefetchStallEvents", 0x4050, 16, 256, 0x6, 0xA, .u64, .ro, 0, 0, 0, 1, .any, false⟩,
  ⟨"AttnGroupsComputed", 0x4060, 16, 256, 0x1, 0x1, .u64, .ro, 0, 0, 0, 1, .any, false⟩,
  ⟨"AttnGroupsSkipped", 0x4060, 16, 256, 0x2, 0x2, .u64, .ro, 0, 0, 0, 1, .any, false⟩,
  ⟨"AttnAbsentPositions", 0x4060, 16, 256, 0x3, 0x3, .u64, .ro, 0, 0, 0, 1, .any, false⟩,
  ⟨"AttnRingWaitTicks", 0x4060, 16, 256, 0x4, 0x4, .u64, .ro, 0, 0, 0, 1, .any, false⟩,
  ⟨"SamplerRows", 0x4070, 16, 256, 0x1, 0x1, .u64, .ro, 0, 0, 0, 1, .any, false⟩,
  ⟨"SamplerNanRows", 0x4070, 16, 256, 0x2, 0x2, .u64, .ro, 0, 0, 0, 1, .any, false⟩,
  ⟨"SamplerPoisonRows", 0x4070, 16, 256, 0x3, 0x3, .u64, .ro, 0, 0, 0, 1, .any, false⟩,
  ⟨"SamplerNoCandidateRows", 0x4070, 16, 256, 0x4, 0x4, .u64, .ro, 0, 0, 0, 1, .any, false⟩,
  ⟨"RngZigguratExhausted", 0x4070, 16, 256, 0x5, 0x5, .u64, .ro, 0, 0, 0, 1, .any, false⟩,
  ⟨"DroopStretchedCycles", 0x4080, 16, 256, 0x1, 0x1, .u64, .ro, 0, 0, 0, 1, .any, false⟩,
  ⟨"DroopEvents", 0x4080, 16, 256, 0x2, 0x2, .u64, .ro, 0, 0, 0, 1, .any, false⟩,
  ⟨"FabricNodeAddress", 0x5000, 1, 1, 0x1, 0x1, .u16, .rws, 0xffff, 0, 0, 1, .net, false⟩,
  ⟨"FabricDims", 0x5000, 1, 1, 0x2, 0x2, .u32, .rws, 0, 0, 0, 1, .net, false⟩,
  ⟨"FabricDirPowerReq", 0x5001, 1, 1, 0x1, 0x6, .u8, .rw, 0, 0, 3, 1, .any, false⟩,
  ⟨"FabricDirState", 0x5002, 1, 1, 0x1, 0x6, .u8, .ro, 3, 0, 0, 1, .any, false⟩,
  ⟨"LinkState", 0x5010, 1, 1, 0x1, 0x18, .u8, .ro, 1, 0, 0, 1, .any, false⟩,
  ⟨"LinkReason", 0x5011, 1, 1, 0x1, 0x18, .u16, .ro, 0, 0, 0, 1, .any, false⟩,
  ⟨"LinkRetries", 0x5012, 1, 1, 0x1, 0x18, .u64, .ro, 0, 0, 0, 1, .any, false⟩,
  ⟨"LinkFecCorrected", 0x5013, 1, 1, 0x1, 0x18, .u64, .ro, 0, 0, 0, 1, .any, false⟩,
  ⟨"LinkDownEvents", 0x5014, 1, 1, 0x1, 0x18, .u64, .ro, 0, 0, 0, 1, .any, false⟩,
  ⟨"LinkCreditsReclaimed", 0x5015, 1, 1, 0x1, 0x18, .u64, .ro, 0, 0, 0, 1, .any, false⟩,
  ⟨"LinkCreditTimeout", 0x5016, 1, 1, 0x1, 0x1, .u32, .rws, 0x7d0, 0, 0, 1, .any, false⟩,
  ⟨"LinkRetryLimit", 0x5016, 1, 1, 0x2, 0x2, .u32, .rws, 0x2710, 0, 0, 1, .any, false⟩,
  ⟨"FabricContTimeout", 0x5016, 1, 1, 0x3, 0x3, .u32, .rws, 0x186a0, 0, 0, 1, .any, false⟩,
  ⟨"FabricHuskEpoch", 0x5020, 1, 1, 0x1, 0x10, .u16, .ro, 0, 0, 0, 1, .any, true⟩,
  ⟨"FabricModuleEpoch", 0x5020, 1, 1, 0x11, 0x11, .u16, .ro, 0, 0, 0, 1, .any, true⟩,
  ⟨"FabricStaleDropped", 0x5021, 1, 1, 0x1, 0x1, .u64, .ro, 0, 0, 0, 1, .any, false⟩,
  ⟨"FabricNackGone", 0x5021, 1, 1, 0x2, 0x2, .u64, .ro, 0, 0, 0, 1, .any, false⟩,
  ⟨"FabricTruncated", 0x5021, 1, 1, 0x3, 0x3, .u64, .ro, 0, 0, 0, 1, .any, false⟩,
  ⟨"FabricContinuations", 0x5021, 1, 1, 0x4, 0x4, .u64, .ro, 0, 0, 0, 1, .any, false⟩,
  ⟨"FabricUnroutable", 0x5021, 1, 1, 0x5, 0x5, .u64, .ro, 0, 0, 0, 1, .any, false⟩,
  ⟨"CollDescriptorsDone", 0x5100, 1, 1, 0x1, 0x2, .u64, .ro, 0, 0, 0, 1, .any, false⟩,
  ⟨"CollBytesSent", 0x5101, 1, 1, 0x1, 0x2, .u64, .ro, 0, 0, 0, 1, .any, false⟩]

/-- Rows of the catalogue, part 6. -/
def odRows6 : List OdRow := [
  ⟨"CollNotPostedResends", 0x5102, 1, 1, 0x1, 0x2, .u64, .ro, 0, 0, 0, 1, .any, false⟩,
  ⟨"CollKindDiscarded", 0x5103, 1, 1, 0x1, 0x2, .u64, .ro, 0, 0, 0, 1, .any, false⟩,
  ⟨"TurnStatus", 0x6010, 16, 1, 0x0, 0x3F, .u64, .ro, 0, 0, 0, 1, .any, true⟩,
  ⟨"AcornInstallStatus", 0x6040, 1, 1, 0x0, 0x3F, .u64, .ro, 0, 0, 0, 1, .any, true⟩,
  ⟨"AcornRefreshStatus", 0x6041, 1, 1, 0x0, 0x3F, .u64, .ro, 0, 0, 0, 1, .any, true⟩,
  ⟨"FirmwareUpdateStatus", 0x6050, 1, 1, 0x0, 0x3F, .u64, .ro, 0, 0, 0, 1, .any, true⟩,
  ⟨"FaultPendingCount", 0x7000, 1, 1, 0x1, 0x1, .u16, .ro, 0, 0, 0, 1, .any, true⟩,
  ⟨"FaultOldestSource", 0x7000, 1, 1, 0x2, 0x2, .u16, .ro, 0xffff, 0, 0, 1, .any, true⟩,
  ⟨"FaultAck", 0x7000, 1, 1, 0x3, 0x3, .u32, .wo, 0, 0, 0, 1, .any, false⟩,
  ⟨"FaultCountN", 0x7001, 1, 1, 0x1, 0x1, .u8, .rws, 8, 2, 16, 1, .any, false⟩,
  ⟨"FaultCountWindow", 0x7001, 1, 1, 0x2, 0x2, .u32, .rws, 0xf4240, 0x3e8, 0x5f5e100, 1, .any, false⟩,
  ⟨"FaultEscalateContained", 0x7001, 1, 1, 0x3, 0x3, .u32, .rws, 0x4e20, 0x3e8, 0x989680, 1, .any, false⟩,
  ⟨"FaultQuietTicks", 0x7001, 1, 1, 0x4, 0x4, .u32, .rws, 0xf4240, 0, 0, 1, .any, false⟩,
  ⟨"FaultTestMode", 0x7001, 1, 1, 0x5, 0x5, .bool, .rw, 0, 0, 0, 1, .any, false⟩,
  ⟨"FaultAutoCeiling", 0x7001, 1, 1, 0x6, 0x6, .u8, .rws, 5, 2, 6, 1, .any, false⟩,
  ⟨"FaultHangTicks", 0x7001, 1, 1, 0x7, 0x7, .u32, .rws, 0x186a0, 0, 0, 1, .any, false⟩,
  ⟨"FaultRecoverUnit", 0x7002, 1, 1, 0x1, 0x1, .u16, .wo, 0, 0, 0, 1, .any, false⟩,
  ⟨"FaultFencedDomains", 0x7002, 1, 1, 0x2, 0x2, .u32, .ro, 0, 0, 0, 1, .any, true⟩,
  ⟨"FaultUnfence", 0x7002, 1, 1, 0x3, 0x3, .u32, .wo, 0, 0, 0, 1, .any, false⟩,
  ⟨"FaultHistory", 0x7003, 1, 1, 0x0, 0x0, .dom, .ro, 0, 0, 0, 1, .any, true⟩,
  ⟨"FaultHistoryNext", 0x7003, 1, 1, 0x1, 0x1, .u16, .ro, 0, 0, 0, 1, .any, true⟩,
  ⟨"FaultPendingMask", 0x7004, 1, 1, 0x0, 0x0, .dom, .ro, 0, 0, 0, 1, .any, true⟩,
  ⟨"FaultTotals", 0x7005, 1, 1, 0x1, 0x4, .u64, .ro, 0, 0, 0, 1, .any, true⟩,
  ⟨"FaultInject", 0x7006, 1, 1, 0x1, 0x1, .u32, .wo, 0, 0, 0, 1, .net, false⟩,
  ⟨"FaultRecord", 0x7100, 512, 1, 0x0, 0x0, .dom, .ro, 0, 0, 0, 1, .any, true⟩,
  ⟨"FaultRecordWord", 0x7100, 512, 1, 0x1, 0x8, .u64, .ro, 0, 0, 0, 1, .any, true⟩,
  ⟨"LedgerSnapshot", 0x7800, 1, 1, 0x1, 0x1, .bool, .wo, 0, 0, 0, 1, .any, false⟩,
  ⟨"LedgerSnapshotTick", 0x7800, 1, 1, 0x2, 0x2, .u64, .ro, 0, 0, 0, 1, .any, false⟩,
  ⟨"LedgerBaseTick", 0x7800, 1, 1, 0x3, 0x3, .u64, .ro, 0, 0, 0, 1, .any, true⟩,
  ⟨"LedgerViolations", 0x7800, 1, 1, 0x4, 0x4, .u64, .ro, 0, 0, 0, 1, .any, false⟩,
  ⟨"LedgerFirstBroken", 0x7800, 1, 1, 0x5, 0x5, .u16, .w1c, 0, 0, 0, 1, .any, false⟩,
  ⟨"LedgerLink", 0x7810, 24, 1, 0x1, 0x9, .u64, .ro, 0, 0, 0, 1, .any, false⟩,
  ⟨"LedgerLinkSnap", 0x7810, 24, 1, 0x81, 0x89, .u64, .ro, 0, 0, 0, 1, .any, false⟩,
  ⟨"LedgerChip", 0x7830, 2, 1, 0x1, 0x9, .u64, .ro, 0, 0, 0, 1, .any, false⟩,
  ⟨"LedgerChipSnap", 0x7830, 2, 1, 0x81, 0x89, .u64, .ro, 0, 0, 0, 1, .any, false⟩,
  ⟨"LedgerPods", 0x7840, 1, 1, 0x1, 0x9, .u64, .ro, 0, 0, 0, 1, .any, false⟩,
  ⟨"LedgerPodsSnap", 0x7840, 1, 1, 0x81, 0x89, .u64, .ro, 0, 0, 0, 1, .any, false⟩,
  ⟨"LedgerPodRefs", 0x7841, 1, 1, 0x1, 0x9, .u64, .ro, 0, 0, 0, 1, .any, false⟩,
  ⟨"LedgerPodRefsSnap", 0x7841, 1, 1, 0x81, 0x89, .u64, .ro, 0, 0, 0, 1, .any, false⟩,
  ⟨"LedgerTokens", 0x7850, 1, 1, 0x1, 0x9, .u64, .ro, 0, 0, 0, 1, .any, false⟩]

/-- Rows of the catalogue, part 7. -/
def odRows7 : List OdRow := [
  ⟨"LedgerTokensSnap", 0x7850, 1, 1, 0x81, 0x89, .u64, .ro, 0, 0, 0, 1, .any, false⟩,
  ⟨"LedgerPool", 0x7860, 16, 1, 0x1, 0x9, .u64, .ro, 0, 0, 0, 1, .any, false⟩,
  ⟨"LedgerPoolSnap", 0x7860, 16, 1, 0x81, 0x89, .u64, .ro, 0, 0, 0, 1, .any, false⟩,
  ⟨"LedgerContrib", 0x7870, 16, 1, 0x1, 0x9, .u64, .ro, 0, 0, 0, 1, .any, false⟩,
  ⟨"LedgerContribSnap", 0x7870, 16, 1, 0x81, 0x89, .u64, .ro, 0, 0, 0, 1, .any, false⟩,
  ⟨"LedgerEnergy", 0x7880, 1, 1, 0x1, 0x9, .u64, .ro, 0, 0, 0, 1, .any, false⟩,
  ⟨"LedgerEnergySnap", 0x7880, 1, 1, 0x81, 0x89, .u64, .ro, 0, 0, 0, 1, .any, false⟩,
  ⟨"EnergyHusk", 0x7881, 1, 1, 0x1, 0x10, .u64, .ro, 0, 0, 0, 1, .any, false⟩,
  ⟨"EnergyUnattributed", 0x7881, 1, 1, 0x11, 0x11, .u64, .ro, 0, 0, 0, 1, .any, false⟩,
  ⟨"AcornImageSlot", 0x8000, 1, 1, 0x1, 0x10, .u64, .ro, 0, 0, 0, 1, .any, true⟩,
  ⟨"AcornImageRelease", 0x8001, 1, 1, 0x0, 0x0, .u8, .wo, 0, 0, 15, 1, .any, false⟩,
  ⟨"AcornInstallSource", 0x8010, 1, 1, 0x1, 0x1, .u64, .rw, 0, 0, 0, 1, .any, false⟩,
  ⟨"AcornInstallSlot", 0x8010, 1, 1, 0x2, 0x2, .u8, .rw, 0, 0, 0, 1, .any, false⟩,
  ⟨"AcornInstallLength", 0x8010, 1, 1, 0x3, 0x3, .u64, .rw, 0, 0, 0, 1, .any, false⟩,
  ⟨"AcornInstallUpstream", 0x8010, 1, 1, 0x4, 0x4, .u16, .rw, 0xffff, 0, 0, 1, .any, false⟩,
  ⟨"AcornInstallDownstream", 0x8010, 1, 1, 0x5, 0x5, .u16, .rw, 0xffff, 0, 0, 1, .any, false⟩,
  ⟨"AcornInstallStart", 0x8010, 1, 1, 0x6, 0x6, .bool, .wo, 0, 0, 0, 1, .any, false⟩,
  ⟨"AcornInstallCancel", 0x8010, 1, 1, 0x7, 0x7, .bool, .wo, 0, 0, 0, 1, .any, false⟩,
  ⟨"AcornInstallTimeout", 0x8010, 1, 1, 0x8, 0x8, .u32, .rws, 0x989680, 0, 0, 1, .any, false⟩,
  ⟨"AcornRepairTableBase", 0x8020, 1, 1, 0x1, 0x1, .u64, .rw, 0, 0, 0, 1, .pf, false⟩,
  ⟨"AcornRepairTableCount", 0x8020, 1, 1, 0x2, 0x2, .u32, .rw, 0, 0, 0, 1, .pf, false⟩,
  ⟨"AcornRepairCommit", 0x8020, 1, 1, 0x3, 0x3, .bool, .wo, 0, 0, 0, 1, .pf, false⟩,
  ⟨"AcornRepairGeneration", 0x8020, 1, 1, 0x4, 0x4, .u32, .ro, 0, 0, 0, 1, .any, false⟩,
  ⟨"AcornPoisonCount", 0x8030, 1, 1, 0x1, 0x1, .u32, .ro, 0, 0, 0, 1, .any, true⟩,
  ⟨"AcornPoisonList", 0x8030, 1, 1, 0x2, 0x2, .dom, .ro, 0, 0, 0, 1, .any, true⟩,
  ⟨"AcornScrubPeriod", 0x8040, 1, 1, 0x1, 0x1, .u32, .rws, 0x15180, 0, 0, 1, .any, false⟩,
  ⟨"AcornScrubPass", 0x8040, 1, 1, 0x2, 0x2, .u32, .ro, 0, 0, 0, 1, .any, false⟩,
  ⟨"AcornRefreshPending", 0x8041, 1, 1, 0x1, 0x8, .u32, .ro, 0, 0, 0, 1, .any, true⟩,
  ⟨"AcornRefreshStart", 0x8042, 1, 1, 0x1, 0x1, .bool, .wo, 0, 0, 0, 1, .any, false⟩,
  ⟨"AcornRefreshCancel", 0x8042, 1, 1, 0x2, 0x2, .bool, .wo, 0, 0, 0, 1, .any, false⟩,
  ⟨"AcornEccCorrected", 0x8050, 1, 1, 0x1, 0x8, .u64, .ro, 0, 0, 0, 1, .any, false⟩,
  ⟨"AcornReadRetries", 0x8051, 1, 1, 0x1, 0x8, .u64, .ro, 0, 0, 0, 1, .any, false⟩,
  ⟨"AcornUncorrectable", 0x8052, 1, 1, 0x1, 0x8, .u64, .ro, 0, 0, 0, 1, .any, false⟩,
  ⟨"AcornEnduranceMax", 0x8060, 1, 1, 0x1, 0x8, .u32, .ro, 0, 0, 0, 1, .any, true⟩,
  ⟨"AcornSpareBlocksFree", 0x8061, 1, 1, 0x1, 0x8, .u16, .ro, 0x800, 0, 0, 1, .any, true⟩,
  ⟨"AcornJournalIncomplete", 0x8070, 1, 1, 0x1, 0x8, .u32, .ro, 0, 0, 0, 1, .any, true⟩,
  ⟨"AcornSigningKey", 0x8080, 1, 1, 0x1, 0x1, .dom, .rws, 0, 0, 0, 1, .net, false⟩,
  ⟨"ThermalReading", 0x9000, 1, 1, 0x1, 0x48, .u16, .ro, 0, 0, 0, 1, .any, false⟩,
  ⟨"PowerInput", 0x9001, 1, 1, 0x1, 0x1, .u16, .ro, 0, 0, 0, 1, .any, false⟩,
  ⟨"PowerWindow", 0x9001, 1, 1, 0x2, 0x2, .u16, .ro, 0, 0, 0, 1, .any, false⟩]

/-- Rows of the catalogue, part 8. -/
def odRows8 : List OdRow := [
  ⟨"EnergyCoefficients", 0x9010, 1, 1, 0x0, 0x0, .dom, .const, 0, 0, 0, 1, .any, false⟩]

/-- The whole catalogue. -/
def odCatalogue : List OdRow := odRows0 ++ odRows1 ++ odRows2 ++ odRows3 ++ odRows4 ++ odRows5 ++ odRows6 ++ odRows7 ++ odRows8

/-- Does the row hold the object? -/
def OdRow.holds (r : OdRow) (index sub : Nat) : Bool :=
  decide (r.base ≤ index) && decide ((index - r.base) % r.stride = 0) && decide ((index - r.base) / r.stride < r.count)
    && decide (r.lo ≤ sub) && decide (sub ≤ r.hi)

/-- The catalogue row of an object; none: no object there (R416). -/
def odLookup (index sub : Nat) : Option OdRow := odCatalogue.find? (fun r => r.holds index sub)

/-- Default of operating point j = 8 × phase + i, R486: V = 1 for i = 0, ISSUE 8, ROOT_MHZ by phase. -/
def opPointDefault (j : Nat) : Nat :=
  (if j / 8 = 1 then 7200 else if j / 8 = 3 then 3200 else 6400) + 8 * 2 ^ 20 + (if j % 8 = 0 then 2 ^ 63 else 0)

/-- Default of an object of a row: the row's, an operating point's own, or RX_FREE of an empty receive buffer (R351, R399). -/
def OdRow.defaultAt (r : OdRow) (sub : Nat) : Nat := 
  if r.name = "HuskOpPoint" then opPointDefault (sub - 1)
  else if r.name = "LedgerLink" ∧ sub = 8 then 1024
  else r.dflt

/-- DictionaryVersion (0x1000.06). -/
def oDictionaryVersion : OKey := ⟨0x100006, 256⟩
/-- ConfigRestoreDefaults (0x1010.01). -/
def oConfigRestoreDefaults : OKey := ⟨0x101001, 0⟩
/-- NvConfigWrites (0x1010.02). -/
def oNvConfigWrites : OKey := ⟨0x101002, 0⟩
/-- HostLinkRate (0x1020.01). -/
def oHostLinkRate (j : Nat) : OKey := ⟨0x102001 + j, 0⟩
/-- HostLinkWidth (0x1021.01). -/
def oHostLinkWidth (j : Nat) : OKey := ⟨0x102101 + j, 0⟩
/-- HostCxlActive (0x1022.01). -/
def oHostCxlActive (j : Nat) : OKey := ⟨0x102201 + j, 0⟩
/-- HostHdmWritesDiscarded (0x1023.01). -/
def oHostHdmWritesDiscarded (j : Nat) : OKey := ⟨0x102301 + j, 0⟩
/-- FieldNetMac (0x1024.01). -/
def oFieldNetMac : OKey := ⟨0x102401, 0⟩
/-- FieldNetPlcaNodes (0x1024.02). -/
def oFieldNetPlcaNodes : OKey := ⟨0x102402, 8⟩
/-- FieldNetState (0x1024.03). -/
def oFieldNetState : OKey := ⟨0x102403, 0⟩
/-- FieldNetDropped (0x1024.04). -/
def oFieldNetDropped : OKey := ⟨0x102404, 0⟩
/-- MctpEid (0x1026.01). -/
def oMctpEid (j : Nat) : OKey := ⟨0x102601 + j, 0⟩
/-- JtagIdcode (0x1028.01). -/
def oJtagIdcode : OKey := ⟨0x102801, 0x158a856b⟩
/-- FirmwareSource (0x1030.01). -/
def oFirmwareSource : OKey := ⟨0x103001, 0⟩
/-- FirmwareLength (0x1030.02). -/
def oFirmwareLength : OKey := ⟨0x103002, 0⟩
/-- FirmwareStart (0x1030.03). -/
def oFirmwareStart : OKey := ⟨0x103003, 0⟩
/-- FirmwareCancel (0x1030.04). -/
def oFirmwareCancel : OKey := ⟨0x103004, 0⟩
/-- FirmwareActivate (0x1030.05). -/
def oFirmwareActivate : OKey := ⟨0x103005, 0⟩
/-- FirmwareActiveBank (0x1030.06). -/
def oFirmwareActiveBank : OKey := ⟨0x103006, 0⟩
/-- FirmwareActiveVersion (0x1030.07). -/
def oFirmwareActiveVersion : OKey := ⟨0x103007, 0⟩
/-- FirmwareSecurityCounter (0x1030.08). -/
def oFirmwareSecurityCounter : OKey := ⟨0x103008, 0⟩
/-- FirmwarePendingBank (0x1030.09). -/
def oFirmwarePendingBank : OKey := ⟨0x103009, 255⟩
/-- FirmwareBootFailures (0x1030.0A). -/
def oFirmwareBootFailures : OKey := ⟨0x10300A, 0⟩
/-- FirmwareKeyRevoke (0x1030.0B). -/
def oFirmwareKeyRevoke : OKey := ⟨0x10300B, 0⟩
/-- ModuleGa (0x1040.01). -/
def oModuleGa : OKey := ⟨0x104001, 0⟩
/-- ClockNominalRoot (0x2000.01). -/
def oClockNominalRoot : OKey := ⟨0x200001, 0x1900⟩
/-- ClockBoostEnable (0x2000.02). -/
def oClockBoostEnable : OKey := ⟨0x200002, 1⟩
/-- ClockFixedFrequency (0x2000.03). -/
def oClockFixedFrequency : OKey := ⟨0x200003, 0⟩
/-- ClockRootNow (0x2000.04). -/
def oClockRootNow : OKey := ⟨0x200004, 0x1900⟩
/-- TimeNow (0x2010.01). -/
def oTimeNow : OKey := ⟨0x201001, 0⟩
/-- TimeState (0x2010.02). -/
def oTimeState : OKey := ⟨0x201002, 0⟩
/-- TimeOffset (0x2010.03). -/
def oTimeOffset : OKey := ⟨0x201003, 0⟩
/-- TimeMasterPriority (0x2010.04). -/
def oTimeMasterPriority : OKey := ⟨0x201004, 128⟩
/-- TimeStepCommand (0x2010.05). -/
def oTimeStepCommand : OKey := ⟨0x201005, 0⟩
/-- TimeLastStep (0x2010.06). -/
def oTimeLastStep : OKey := ⟨0x201006, 0⟩
/-- NumericsCanonicalDefault (0x2020.01). -/
def oNumericsCanonicalDefault : OKey := ⟨0x202001, 1⟩
/-- ComputeFeedTimeout (0x2030.01). -/
def oComputeFeedTimeout : OKey := ⟨0x203001, 0x186a0⟩
/-- PrefetchTimeout (0x2040.01). -/
def oPrefetchTimeout : OKey := ⟨0x204001, 0xc350⟩
/-- ShardPollInterval (0x2040.02). -/
def oShardPollInterval : OKey := ⟨0x204002, 100⟩
/-- Tier3Offered (0x2041.01). -/
def oTier3Offered (j : Nat) : OKey := ⟨0x204101 + j, 0⟩
/-- Tier3HostBase (0x2041.03). -/
def oTier3HostBase (j : Nat) : OKey := ⟨0x204103 + j, 0⟩
/-- Tier3Poisoned (0x2041.05). -/
def oTier3Poisoned (j : Nat) : OKey := ⟨0x204105 + j, 0⟩
/-- HbmCorrected (0x2042.01). -/
def oHbmCorrected (j : Nat) : OKey := ⟨0x204201 + j, 0⟩
/-- PodRegionBase (0x2050.01). -/
def oPodRegionBase : OKey := ⟨0x205001, 0⟩
/-- PodRegionPods (0x2050.02). -/
def oPodRegionPods : OKey := ⟨0x205002, 0⟩
/-- PodTableBase (0x2050.03). -/
def oPodTableBase : OKey := ⟨0x205003, 0x12f00000000⟩
/-- PodsFree (0x2050.04). -/
def oPodsFree : OKey := ⟨0x205004, 0⟩
/-- PodShortfall (0x2050.05). -/
def oPodShortfall : OKey := ⟨0x205005, 0⟩
/-- TenantWindow (0x2070.01). -/
def oTenantWindow : OKey := ⟨0x207001, 0x5f5e100⟩
/-- TenantTableBase (0x2070.02). -/
def oTenantTableBase : OKey := ⟨0x207002, 0x15f00000000⟩
/-- TenantWindowStart (0x2070.03). -/
def oTenantWindowStart : OKey := ⟨0x207003, 0⟩
/-- CycleEnable (0x2080.01). -/
def oCycleEnable : OKey := ⟨0x208001, 0⟩
/-- CycleEntries (0x2080.02). -/
def oCycleEntries : OKey := ⟨0x208002, 0⟩
/-- CycleStartTick (0x2080.03). -/
def oCycleStartTick : OKey := ⟨0x208003, 0⟩
/-- CycleCommit (0x2080.04). -/
def oCycleCommit : OKey := ⟨0x208004, 0⟩
/-- CycleCurrentSlot (0x2080.05). -/
def oCycleCurrentSlot : OKey := ⟨0x208005, 0⟩
/-- CycleSlotsLate (0x2080.06). -/
def oCycleSlotsLate : OKey := ⟨0x208006, 0⟩
/-- CyclePeriod (0x2080.07). -/
def oCyclePeriod : OKey := ⟨0x208007, 0⟩
/-- CycleGeneration (0x2080.08). -/
def oCycleGeneration : OKey := ⟨0x208008, 0⟩
/-- FillerIdleTicks (0x2082.01). -/
def oFillerIdleTicks : OKey := ⟨0x208201, 100⟩
/-- ResetCommand (0x2090.01). -/
def oResetCommand : OKey := ⟨0x209001, 0⟩
/-- PowerCommand (0x2091.01). -/
def oPowerCommand : OKey := ⟨0x209101, 0⟩
/-- PowerState (0x2092.01). -/
def oPowerState : OKey := ⟨0x209201, 0⟩
/-- PowerStage (0x2092.02). -/
def oPowerStage : OKey := ⟨0x209202, 0⟩
/-- PowerOnAuto (0x2092.03). -/
def oPowerOnAuto : OKey := ⟨0x209203, 1⟩
/-- PowerOffHold (0x2092.04). -/
def oPowerOffHold : OKey := ⟨0x209204, 0x989680⟩
/-- PwrfailEvents (0x2092.05). -/
def oPwrfailEvents : OKey := ⟨0x209205, 0⟩
/-- RailVoltage (0x2093.01). -/
def oRailVoltage (j : Nat) : OKey := ⟨0x209301 + j, 0⟩
/-- RailState (0x2094.01). -/
def oRailState (j : Nat) : OKey := ⟨0x209401 + j, 0⟩
/-- RailFaults (0x2095.01). -/
def oRailFaults (j : Nat) : OKey := ⟨0x209501 + j, 0⟩
/-- ResetRecordModule (0x2096.01). -/
def oResetRecordModule (j : Nat) : OKey := ⟨0x209601 + j, 0⟩
/-- ResetRecordPort (0x2097.01). -/
def oResetRecordPort (j : Nat) : OKey := ⟨0x209701 + j, 0⟩
/-- ResetRecordHusk (0x2098.01). -/
def oResetRecordHusk (j : Nat) : OKey := ⟨0x209801 + j, 0⟩
/-- ResetCount (0x2099.01). -/
def oResetCount (j : Nat) : OKey := ⟨0x209901 + j, 0⟩
/-- ResetInputGlitches (0x2099.08). -/
def oResetInputGlitches : OKey := ⟨0x209908, 0⟩
/-- DomainPowerMask (0x209A.01). -/
def oDomainPowerMask : OKey := ⟨0x209A01, 0xffffffff⟩
/-- DomainPowered (0x209A.02). -/
def oDomainPowered : OKey := ⟨0x209A02, 0xc0ffffff⟩
/-- ControllerWatchdog (0x209B.01). -/
def oControllerWatchdog : OKey := ⟨0x209B01, 0x2710⟩
/-- ControllerRestarts (0x209B.02). -/
def oControllerRestarts : OKey := ⟨0x209B02, 0⟩
/-- PowerSustainedLimit (0x20A0.01). -/
def oPowerSustainedLimit : OKey := ⟨0x20A001, 0xaf0⟩
/-- PowerPeakLimit (0x20A0.02). -/
def oPowerPeakLimit : OKey := ⟨0x20A002, 0xe10⟩
/-- PowerExcursionLimit (0x20A0.03). -/
def oPowerExcursionLimit : OKey := ⟨0x20A003, 0x1068⟩
/-- PowerStaticAllowance (0x20A0.04). -/
def oPowerStaticAllowance : OKey := ⟨0x20A004, 400⟩
/-- PowerPeakUsed (0x20A0.05). -/
def oPowerPeakUsed : OKey := ⟨0x20A005, 0⟩
/-- PowerCapReason (0x20A0.06). -/
def oPowerCapReason : OKey := ⟨0x20A006, 0⟩
/-- PowerIssueGated (0x20A0.07). -/
def oPowerIssueGated : OKey := ⟨0x20A007, 0⟩
/-- PeakBudgetSpentCount (0x20A0.08). -/
def oPeakBudgetSpentCount : OKey := ⟨0x20A008, 0⟩
/-- CapConflictCount (0x20A0.09). -/
def oCapConflictCount : OKey := ⟨0x20A009, 0⟩
/-- PowerExcursionEvents (0x20A0.0A). -/
def oPowerExcursionEvents : OKey := ⟨0x20A00A, 0⟩
/-- DroopThreshold (0x20A0.0B). -/
def oDroopThreshold : OKey := ⟨0x20A00B, 25⟩
/-- ThermalTripHold (0x20B0.01). -/
def oThermalTripHold : OKey := ⟨0x20B001, 0xea60⟩
/-- ThermalThrottleEvents (0x20B0.02). -/
def oThermalThrottleEvents : OKey := ⟨0x20B002, 0⟩
/-- ThermalLimitEvents (0x20B0.03). -/
def oThermalLimitEvents : OKey := ⟨0x20B003, 0⟩
/-- HuskState (0x3h00.01). -/
def oHuskState (i : Nat) : OKey := ⟨0x300001 + i * 0x10000, 0⟩
/-- HuskControl (0x3h00.02). -/
def oHuskControl (i : Nat) : OKey := ⟨0x300002 + i * 0x10000, 0⟩
/-- HuskSlices (0x3h00.03). -/
def oHuskSlices (i : Nat) : OKey := ⟨0x300003 + i * 0x10000, 0⟩
/-- HuskGuestSlices (0x3h00.04). -/
def oHuskGuestSlices (i : Nat) : OKey := ⟨0x300004 + i * 0x10000, 0⟩
/-- HuskHbmQuota (0x3h00.05). -/
def oHuskHbmQuota (i : Nat) : OKey := ⟨0x300005 + i * 0x10000, 0⟩
/-- HuskNmuShare (0x3h00.06). -/
def oHuskNmuShare (i : Nat) : OKey := ⟨0x300006 + i * 0x10000, 0⟩
/-- HuskVcMask (0x3h00.07). -/
def oHuskVcMask (i : Nat) : OKey := ⟨0x300007 + i * 0x10000, 14⟩
/-- HuskTenantFirst (0x3h00.08). -/
def oHuskTenantFirst (i : Nat) : OKey := ⟨0x300008 + i * 0x10000, 0⟩
/-- HuskTenantCount (0x3h00.09). -/
def oHuskTenantCount (i : Nat) : OKey := ⟨0x300009 + i * 0x10000, 0⟩
/-- HuskKeyCheck (0x3h00.0A). -/
def oHuskKeyCheck (i : Nat) : OKey := ⟨0x30000A + i * 0x10000, 0⟩
/-- HuskKeyEpoch (0x3h00.0B). -/
def oHuskKeyEpoch (i : Nat) : OKey := ⟨0x30000B + i * 0x10000, 0⟩
/-- HuskPreemptions (0x3h00.0C). -/
def oHuskPreemptions (i : Nat) : OKey := ⟨0x30000C + i * 0x10000, 0⟩
/-- HuskPreemptForced (0x3h00.0D). -/
def oHuskPreemptForced (i : Nat) : OKey := ⟨0x30000D + i * 0x10000, 0⟩
/-- HuskPreemptWorst (0x3h00.0E). -/
def oHuskPreemptWorst (i : Nat) : OKey := ⟨0x30000E + i * 0x10000, 0⟩
/-- HuskTeardowns (0x3h00.0F). -/
def oHuskTeardowns (i : Nat) : OKey := ⟨0x30000F + i * 0x10000, 0⟩
/-- HuskPageTableBase (0x3h10.00). -/
def oHuskPageTableBase (i : Nat) : OKey := ⟨0x301000 + i * 0x10000, 0⟩
/-- HuskCanonicalMode (0x3h20.01). -/
def oHuskCanonicalMode (i : Nat) : OKey := ⟨0x302001 + i * 0x10000, 1⟩
/-- HuskCanonicalEpoch (0x3h20.02). -/
def oHuskCanonicalEpoch (i : Nat) : OKey := ⟨0x302002 + i * 0x10000, 0⟩
/-- HuskActiveImage (0x3h30.01). -/
def oHuskActiveImage (i : Nat) : OKey := ⟨0x303001 + i * 0x10000, 255⟩
/-- HuskOverlayTableBase (0x3h30.02). -/
def oHuskOverlayTableBase (i : Nat) : OKey := ⟨0x303002 + i * 0x10000, 0⟩
/-- HuskOverlayTableCount (0x3h30.03). -/
def oHuskOverlayTableCount (i : Nat) : OKey := ⟨0x303003 + i * 0x10000, 0⟩
/-- HuskOverlayCommit (0x3h30.04). -/
def oHuskOverlayCommit (i : Nat) : OKey := ⟨0x303004 + i * 0x10000, 0⟩
/-- HuskOverlayGeneration (0x3h30.05). -/
def oHuskOverlayGeneration (i : Nat) : OKey := ⟨0x303005 + i * 0x10000, 0⟩
/-- HuskPoolBase (0x3h40.01). -/
def oHuskPoolBase (i : Nat) : OKey := ⟨0x304001 + i * 0x10000, 0⟩
/-- HuskPoolBytes (0x3h40.02). -/
def oHuskPoolBytes (i : Nat) : OKey := ⟨0x304002 + i * 0x10000, 0⟩
/-- HuskPoolTableBase (0x3h40.03). -/
def oHuskPoolTableBase (i : Nat) : OKey := ⟨0x304003 + i * 0x10000, 0⟩
/-- HuskPoolObjects (0x3h40.04). -/
def oHuskPoolObjects (i : Nat) : OKey := ⟨0x304004 + i * 0x10000, 0⟩
/-- HuskPoolTurn (0x3h40.05). -/
def oHuskPoolTurn (i : Nat) : OKey := ⟨0x304005 + i * 0x10000, 1⟩
/-- HuskPoolBytesResident (0x3h40.06). -/
def oHuskPoolBytesResident (i : Nat) : OKey := ⟨0x304006 + i * 0x10000, 0⟩
/-- HuskPoolBytesLoading (0x3h40.07). -/
def oHuskPoolBytesLoading (i : Nat) : OKey := ⟨0x304007 + i * 0x10000, 0⟩
/-- HuskPoolBytesFree (0x3h40.08). -/
def oHuskPoolBytesFree (i : Nat) : OKey := ⟨0x304008 + i * 0x10000, 0⟩
/-- HuskPoolEvictions (0x3h40.09). -/
def oHuskPoolEvictions (i : Nat) : OKey := ⟨0x304009 + i * 0x10000, 0⟩
/-- HuskPoolFlush (0x3h40.0A). -/
def oHuskPoolFlush (i : Nat) : OKey := ⟨0x30400A + i * 0x10000, 0⟩
/-- HuskPodReserve (0x3h50.01). -/
def oHuskPodReserve (i : Nat) : OKey := ⟨0x305001 + i * 0x10000, 0⟩
/-- HuskPodLimit (0x3h50.02). -/
def oHuskPodLimit (i : Nat) : OKey := ⟨0x305002 + i * 0x10000, 0xffffffff⟩
/-- HuskPodsHeld (0x3h50.03). -/
def oHuskPodsHeld (i : Nat) : OKey := ⟨0x305003 + i * 0x10000, 0⟩
/-- HuskPodRefs (0x3h50.04). -/
def oHuskPodRefs (i : Nat) : OKey := ⟨0x305004 + i * 0x10000, 0⟩
/-- HuskPodAllocWaits (0x3h50.05). -/
def oHuskPodAllocWaits (i : Nat) : OKey := ⟨0x305005 + i * 0x10000, 0⟩
/-- HuskPodTieLosses (0x3h50.06). -/
def oHuskPodTieLosses (i : Nat) : OKey := ⟨0x305006 + i * 0x10000, 0⟩
/-- HuskPodShareCopies (0x3h50.07). -/
def oHuskPodShareCopies (i : Nat) : OKey := ⟨0x305007 + i * 0x10000, 0⟩
/-- HuskPodCowCopies (0x3h50.08). -/
def oHuskPodCowCopies (i : Nat) : OKey := ⟨0x305008 + i * 0x10000, 0⟩
/-- HuskPodStaleDropped (0x3h50.09). -/
def oHuskPodStaleDropped (i : Nat) : OKey := ⟨0x305009 + i * 0x10000, 0⟩
/-- HuskPodSwapFailed (0x3h50.0A). -/
def oHuskPodSwapFailed (i : Nat) : OKey := ⟨0x30500A + i * 0x10000, 0⟩
/-- HuskPodSpanRefused (0x3h50.0B). -/
def oHuskPodSpanRefused (i : Nat) : OKey := ⟨0x30500B + i * 0x10000, 0⟩
/-- HuskSeqTableBase (0x3h60.01). -/
def oHuskSeqTableBase (i : Nat) : OKey := ⟨0x306001 + i * 0x10000, 0⟩
/-- HuskSeqSlots (0x3h60.02). -/
def oHuskSeqSlots (i : Nat) : OKey := ⟨0x306002 + i * 0x10000, 0⟩
/-- HuskStepMax (0x3h60.03). -/
def oHuskStepMax (i : Nat) : OKey := ⟨0x306003 + i * 0x10000, 128⟩
/-- HuskGuaranteedMax (0x3h60.04). -/
def oHuskGuaranteedMax (i : Nat) : OKey := ⟨0x306004 + i * 0x10000, 0⟩
/-- HuskDraftCap (0x3h60.05). -/
def oHuskDraftCap (i : Nat) : OKey := ⟨0x306005 + i * 0x10000, 8⟩
/-- HuskPrefillChunk (0x3h60.06). -/
def oHuskPrefillChunk (i : Nat) : OKey := ⟨0x306006 + i * 0x10000, 0x2000⟩
/-- HuskSeqActive (0x3h60.07). -/
def oHuskSeqActive (i : Nat) : OKey := ⟨0x306007 + i * 0x10000, 0⟩
/-- HuskPlj6Mode (0x3h60.08). -/
def oHuskPlj6Mode (i : Nat) : OKey := ⟨0x306008 + i * 0x10000, 0⟩
/-- HuskSeqLastReason (0x3h60.09). -/
def oHuskSeqLastReason (i : Nat) : OKey := ⟨0x306009 + i * 0x10000, 0⟩
/-- HuskSeqCancel (0x3h60.10). -/
def oHuskSeqCancel (i : Nat) : OKey := ⟨0x306010 + i * 0x10000, 0⟩
/-- HuskSeqStepsInFlight (0x3h60.11). -/
def oHuskSeqStepsInFlight (i : Nat) : OKey := ⟨0x306011 + i * 0x10000, 0⟩
/-- HuskReplaceStart (0x3h60.20). -/
def oHuskReplaceStart (i : Nat) : OKey := ⟨0x306020 + i * 0x10000, 0⟩
/-- HuskReplaceState (0x3h60.21). -/
def oHuskReplaceState (i : Nat) : OKey := ⟨0x306021 + i * 0x10000, 0⟩
/-- HuskReplaceLayerDone (0x3h60.22). -/
def oHuskReplaceLayerDone (i : Nat) : OKey := ⟨0x306022 + i * 0x10000, 0⟩
/-- HuskReplaceFlagAddr (0x3h60.23). -/
def oHuskReplaceFlagAddr (i : Nat) : OKey := ⟨0x306023 + i * 0x10000, 0⟩
/-- HuskRngKey (0x3h70.01). -/
def oHuskRngKey (i : Nat) : OKey := ⟨0x307001 + i * 0x10000, 0⟩
/-- HuskCkptTableBase (0x3h80.01). -/
def oHuskCkptTableBase (i : Nat) : OKey := ⟨0x308001 + i * 0x10000, 0⟩
/-- HuskCkptCount (0x3h80.02). -/
def oHuskCkptCount (i : Nat) : OKey := ⟨0x308002 + i * 0x10000, 0⟩
/-- HuskStragglerPolicy (0x3h80.03). -/
def oHuskStragglerPolicy (i : Nat) : OKey := ⟨0x308003 + i * 0x10000, 1⟩
/-- HuskReduceDeadline (0x3h80.04). -/
def oHuskReduceDeadline (i : Nat) : OKey := ⟨0x308004 + i * 0x10000, 0x1e8480⟩
/-- HuskDeferMax (0x3h80.05). -/
def oHuskDeferMax (i : Nat) : OKey := ⟨0x308005 + i * 0x10000, 2⟩
/-- HuskReduceQuorum (0x3h80.06). -/
def oHuskReduceQuorum (i : Nat) : OKey := ⟨0x308006 + i * 0x10000, 0⟩
/-- HuskContribUsed (0x3h80.10). -/
def oHuskContribUsed (i : Nat) : OKey := ⟨0x308010 + i * 0x10000, 0⟩
/-- HuskContribDeferred (0x3h80.11). -/
def oHuskContribDeferred (i : Nat) : OKey := ⟨0x308011 + i * 0x10000, 0⟩
/-- HuskContribDropped (0x3h80.12). -/
def oHuskContribDropped (i : Nat) : OKey := ⟨0x308012 + i * 0x10000, 0⟩
/-- HuskContribCarried (0x3h80.13). -/
def oHuskContribCarried (i : Nat) : OKey := ⟨0x308013 + i * 0x10000, 0⟩
/-- HuskGradNanBlocks (0x3h80.14). -/
def oHuskGradNanBlocks (i : Nat) : OKey := ⟨0x308014 + i * 0x10000, 0⟩
/-- HuskCkptFailures (0x3h80.15). -/
def oHuskCkptFailures (i : Nat) : OKey := ⟨0x308015 + i * 0x10000, 0⟩
/-- HuskRecomputeMismatch (0x3h80.16). -/
def oHuskRecomputeMismatch (i : Nat) : OKey := ⟨0x308016 + i * 0x10000, 0⟩
/-- HuskUpdateTimeout (0x3h90.01). -/
def oHuskUpdateTimeout (i : Nat) : OKey := ⟨0x309001 + i * 0x10000, 0x4c4b40⟩
/-- HuskUpdateApplied (0x3h90.10). -/
def oHuskUpdateApplied (i : Nat) : OKey := ⟨0x309010 + i * 0x10000, 0⟩
/-- HuskUpdateSkipped (0x3h90.11). -/
def oHuskUpdateSkipped (i : Nat) : OKey := ⟨0x309011 + i * 0x10000, 0⟩
/-- HuskUpdateAlready (0x3h90.12). -/
def oHuskUpdateAlready (i : Nat) : OKey := ⟨0x309012 + i * 0x10000, 0⟩
/-- HuskTurnLayoutBase (0x3hA0.01). -/
def oHuskTurnLayoutBase (i : Nat) : OKey := ⟨0x30A001 + i * 0x10000, 0⟩
/-- HuskTurnPlanBase (0x3hA0.02). -/
def oHuskTurnPlanBase (i : Nat) : OKey := ⟨0x30A002 + i * 0x10000, 0⟩
/-- HuskTurnParticipants (0x3hA0.03). -/
def oHuskTurnParticipants (i : Nat) : OKey := ⟨0x30A003 + i * 0x10000, 0⟩
/-- HuskTurnConfig (0x3hA0.04). -/
def oHuskTurnConfig (i : Nat) : OKey := ⟨0x30A004 + i * 0x10000, 0⟩
/-- HuskTurnStart (0x3hA0.05). -/
def oHuskTurnStart (i : Nat) : OKey := ⟨0x30A005 + i * 0x10000, 0⟩
/-- HuskTurnCancel (0x3hA0.06). -/
def oHuskTurnCancel (i : Nat) : OKey := ⟨0x30A006 + i * 0x10000, 0⟩
/-- HuskTurnResolve (0x3hA0.07). -/
def oHuskTurnResolve (i : Nat) : OKey := ⟨0x30A007 + i * 0x10000, 0⟩
/-- HuskPhase (0x3hA0.08). -/
def oHuskPhase (i : Nat) : OKey := ⟨0x30A008 + i * 0x10000, 3⟩
/-- HuskTurnIdCurrent (0x3hA0.09). -/
def oHuskTurnIdCurrent (i : Nat) : OKey := ⟨0x30A009 + i * 0x10000, 0⟩
/-- HuskLayoutCurrent (0x3hA0.0A). -/
def oHuskLayoutCurrent (i : Nat) : OKey := ⟨0x30A00A + i * 0x10000, 0⟩
/-- HuskTurnDrainTimeout (0x3hA0.0B). -/
def oHuskTurnDrainTimeout (i : Nat) : OKey := ⟨0x30A00B + i * 0x10000, 0x989680⟩
/-- HuskTurnBarrierTimeout (0x3hA0.0C). -/
def oHuskTurnBarrierTimeout (i : Nat) : OKey := ⟨0x30A00C + i * 0x10000, 0xf4240⟩
/-- HuskTurnCommitTimeout (0x3hA0.0D). -/
def oHuskTurnCommitTimeout (i : Nat) : OKey := ⟨0x30A00D + i * 0x10000, 0xbebc200⟩
/-- HuskCollTimeout (0x3hB0.01). -/
def oHuskCollTimeout (i : Nat) : OKey := ⟨0x30B001 + i * 0x10000, 0x989680⟩
/-- HuskOpPoint (0x3hC0.01). -/
def oHuskOpPoint (i j : Nat) : OKey := ⟨0x30C001 + i * 0x10000 + j, opPointDefault j⟩
/-- HuskOpPointNow (0x3hC1.01). -/
def oHuskOpPointNow (i : Nat) : OKey := ⟨0x30C101 + i * 0x10000, 0⟩
/-- HuskPowerClaim (0x3hC1.02). -/
def oHuskPowerClaim (i : Nat) : OKey := ⟨0x30C102 + i * 0x10000, 0⟩
/-- HuskPhaseSet (0x3hC1.03). -/
def oHuskPhaseSet (i : Nat) : OKey := ⟨0x30C103 + i * 0x10000, 0⟩
/-- HuskFaultRecord (0x3hD0.01). -/
def oHuskFaultRecord (i j : Nat) : OKey := ⟨0x30D001 + i * 0x10000 + j, 0⟩
/-- HuskFaultAck (0x3hD0.10). -/
def oHuskFaultAck (i : Nat) : OKey := ⟨0x30D010 + i * 0x10000, 0⟩
/-- SliceGuestEnable (0x4s00.01). -/
def oSliceGuestEnable (i : Nat) : OKey := ⟨0x400001 + i * 0x10000, 0⟩
/-- SliceFillerHusk (0x4s00.02). -/
def oSliceFillerHusk (i : Nat) : OKey := ⟨0x400002 + i * 0x10000, 255⟩
/-- SliceOwner (0x4s00.03). -/
def oSliceOwner (i : Nat) : OKey := ⟨0x400003 + i * 0x10000, 255⟩
/-- SliceRunning (0x4s00.04). -/
def oSliceRunning (i : Nat) : OKey := ⟨0x400004 + i * 0x10000, 255⟩
/-- SliceFillerEvictions (0x4s00.05). -/
def oSliceFillerEvictions (i : Nat) : OKey := ⟨0x400005 + i * 0x10000, 0⟩
/-- CoherencePointer (0x4s40.01). -/
def oCoherencePointer (i : Nat) : OKey := ⟨0x404001 + i * 0x10000, 0⟩
/-- PrefetchStallTicks (0x4s50.01). -/
def oPrefetchStallTicks (i j : Nat) : OKey := ⟨0x405001 + i * 0x10000 + j, 0⟩
/-- PrefetchStallEvents (0x4s50.06). -/
def oPrefetchStallEvents (i j : Nat) : OKey := ⟨0x405006 + i * 0x10000 + j, 0⟩
/-- AttnGroupsComputed (0x4s60.01). -/
def oAttnGroupsComputed (i : Nat) : OKey := ⟨0x406001 + i * 0x10000, 0⟩
/-- AttnGroupsSkipped (0x4s60.02). -/
def oAttnGroupsSkipped (i : Nat) : OKey := ⟨0x406002 + i * 0x10000, 0⟩
/-- AttnAbsentPositions (0x4s60.03). -/
def oAttnAbsentPositions (i : Nat) : OKey := ⟨0x406003 + i * 0x10000, 0⟩
/-- AttnRingWaitTicks (0x4s60.04). -/
def oAttnRingWaitTicks (i : Nat) : OKey := ⟨0x406004 + i * 0x10000, 0⟩
/-- SamplerRows (0x4s70.01). -/
def oSamplerRows (i : Nat) : OKey := ⟨0x407001 + i * 0x10000, 0⟩
/-- SamplerNanRows (0x4s70.02). -/
def oSamplerNanRows (i : Nat) : OKey := ⟨0x407002 + i * 0x10000, 0⟩
/-- SamplerPoisonRows (0x4s70.03). -/
def oSamplerPoisonRows (i : Nat) : OKey := ⟨0x407003 + i * 0x10000, 0⟩
/-- SamplerNoCandidateRows (0x4s70.04). -/
def oSamplerNoCandidateRows (i : Nat) : OKey := ⟨0x407004 + i * 0x10000, 0⟩
/-- RngZigguratExhausted (0x4s70.05). -/
def oRngZigguratExhausted (i : Nat) : OKey := ⟨0x407005 + i * 0x10000, 0⟩
/-- DroopStretchedCycles (0x4s80.01). -/
def oDroopStretchedCycles (i : Nat) : OKey := ⟨0x408001 + i * 0x10000, 0⟩
/-- DroopEvents (0x4s80.02). -/
def oDroopEvents (i : Nat) : OKey := ⟨0x408002 + i * 0x10000, 0⟩
/-- FabricNodeAddress (0x5000.01). -/
def oFabricNodeAddress : OKey := ⟨0x500001, 0xffff⟩
/-- FabricDims (0x5000.02). -/
def oFabricDims : OKey := ⟨0x500002, 0⟩
/-- FabricDirPowerReq (0x5001.01). -/
def oFabricDirPowerReq (j : Nat) : OKey := ⟨0x500101 + j, 0⟩
/-- FabricDirState (0x5002.01). -/
def oFabricDirState (j : Nat) : OKey := ⟨0x500201 + j, 3⟩
/-- LinkState (0x5010.01). -/
def oLinkState (j : Nat) : OKey := ⟨0x501001 + j, 1⟩
/-- LinkReason (0x5011.01). -/
def oLinkReason (j : Nat) : OKey := ⟨0x501101 + j, 0⟩
/-- LinkRetries (0x5012.01). -/
def oLinkRetries (j : Nat) : OKey := ⟨0x501201 + j, 0⟩
/-- LinkFecCorrected (0x5013.01). -/
def oLinkFecCorrected (j : Nat) : OKey := ⟨0x501301 + j, 0⟩
/-- LinkDownEvents (0x5014.01). -/
def oLinkDownEvents (j : Nat) : OKey := ⟨0x501401 + j, 0⟩
/-- LinkCreditsReclaimed (0x5015.01). -/
def oLinkCreditsReclaimed (j : Nat) : OKey := ⟨0x501501 + j, 0⟩
/-- LinkCreditTimeout (0x5016.01). -/
def oLinkCreditTimeout : OKey := ⟨0x501601, 0x7d0⟩
/-- LinkRetryLimit (0x5016.02). -/
def oLinkRetryLimit : OKey := ⟨0x501602, 0x2710⟩
/-- FabricContTimeout (0x5016.03). -/
def oFabricContTimeout : OKey := ⟨0x501603, 0x186a0⟩
/-- FabricHuskEpoch (0x5020.01). -/
def oFabricHuskEpoch (j : Nat) : OKey := ⟨0x502001 + j, 0⟩
/-- FabricModuleEpoch (0x5020.11). -/
def oFabricModuleEpoch : OKey := ⟨0x502011, 0⟩
/-- FabricStaleDropped (0x5021.01). -/
def oFabricStaleDropped : OKey := ⟨0x502101, 0⟩
/-- FabricNackGone (0x5021.02). -/
def oFabricNackGone : OKey := ⟨0x502102, 0⟩
/-- FabricTruncated (0x5021.03). -/
def oFabricTruncated : OKey := ⟨0x502103, 0⟩
/-- FabricContinuations (0x5021.04). -/
def oFabricContinuations : OKey := ⟨0x502104, 0⟩
/-- FabricUnroutable (0x5021.05). -/
def oFabricUnroutable : OKey := ⟨0x502105, 0⟩
/-- CollDescriptorsDone (0x5100.01). -/
def oCollDescriptorsDone (j : Nat) : OKey := ⟨0x510001 + j, 0⟩
/-- CollBytesSent (0x5101.01). -/
def oCollBytesSent (j : Nat) : OKey := ⟨0x510101 + j, 0⟩
/-- CollNotPostedResends (0x5102.01). -/
def oCollNotPostedResends (j : Nat) : OKey := ⟨0x510201 + j, 0⟩
/-- CollKindDiscarded (0x5103.01). -/
def oCollKindDiscarded (j : Nat) : OKey := ⟨0x510301 + j, 0⟩
/-- TurnStatus (0x6010.00). -/
def oTurnStatus (i j : Nat) : OKey := ⟨0x601000 + i * 0x100 + j, 0⟩
/-- AcornInstallStatus (0x6040.00). -/
def oAcornInstallStatus (j : Nat) : OKey := ⟨0x604000 + j, 0⟩
/-- AcornRefreshStatus (0x6041.00). -/
def oAcornRefreshStatus (j : Nat) : OKey := ⟨0x604100 + j, 0⟩
/-- FirmwareUpdateStatus (0x6050.00). -/
def oFirmwareUpdateStatus (j : Nat) : OKey := ⟨0x605000 + j, 0⟩
/-- FaultPendingCount (0x7000.01). -/
def oFaultPendingCount : OKey := ⟨0x700001, 0⟩
/-- FaultOldestSource (0x7000.02). -/
def oFaultOldestSource : OKey := ⟨0x700002, 0xffff⟩
/-- FaultAck (0x7000.03). -/
def oFaultAck : OKey := ⟨0x700003, 0⟩
/-- FaultCountN (0x7001.01). -/
def oFaultCountN : OKey := ⟨0x700101, 8⟩
/-- FaultCountWindow (0x7001.02). -/
def oFaultCountWindow : OKey := ⟨0x700102, 0xf4240⟩
/-- FaultEscalateContained (0x7001.03). -/
def oFaultEscalateContained : OKey := ⟨0x700103, 0x4e20⟩
/-- FaultQuietTicks (0x7001.04). -/
def oFaultQuietTicks : OKey := ⟨0x700104, 0xf4240⟩
/-- FaultTestMode (0x7001.05). -/
def oFaultTestMode : OKey := ⟨0x700105, 0⟩
/-- FaultAutoCeiling (0x7001.06). -/
def oFaultAutoCeiling : OKey := ⟨0x700106, 5⟩
/-- FaultHangTicks (0x7001.07). -/
def oFaultHangTicks : OKey := ⟨0x700107, 0x186a0⟩
/-- FaultRecoverUnit (0x7002.01). -/
def oFaultRecoverUnit : OKey := ⟨0x700201, 0⟩
/-- FaultFencedDomains (0x7002.02). -/
def oFaultFencedDomains : OKey := ⟨0x700202, 0⟩
/-- FaultUnfence (0x7002.03). -/
def oFaultUnfence : OKey := ⟨0x700203, 0⟩
/-- FaultHistoryNext (0x7003.01). -/
def oFaultHistoryNext : OKey := ⟨0x700301, 0⟩
/-- FaultTotals (0x7005.01). -/
def oFaultTotals (j : Nat) : OKey := ⟨0x700501 + j, 0⟩
/-- FaultInject (0x7006.01). -/
def oFaultInject : OKey := ⟨0x700601, 0⟩
/-- FaultRecordWord (0x7100.01). -/
def oFaultRecordWord (i j : Nat) : OKey := ⟨0x710001 + i * 0x100 + j, 0⟩
/-- LedgerSnapshot (0x7800.01). -/
def oLedgerSnapshot : OKey := ⟨0x780001, 0⟩
/-- LedgerSnapshotTick (0x7800.02). -/
def oLedgerSnapshotTick : OKey := ⟨0x780002, 0⟩
/-- LedgerBaseTick (0x7800.03). -/
def oLedgerBaseTick : OKey := ⟨0x780003, 0⟩
/-- LedgerViolations (0x7800.04). -/
def oLedgerViolations : OKey := ⟨0x780004, 0⟩
/-- LedgerFirstBroken (0x7800.05). -/
def oLedgerFirstBroken : OKey := ⟨0x780005, 0⟩
/-- LedgerLink (0x7810.01). -/
def oLedgerLink (i j : Nat) : OKey := ⟨0x781001 + i * 0x100 + j, if j = 7 then 1024 else 0⟩
/-- LedgerChip (0x7830.01). -/
def oLedgerChip (i j : Nat) : OKey := ⟨0x783001 + i * 0x100 + j, 0⟩
/-- LedgerPods (0x7840.01). -/
def oLedgerPods (j : Nat) : OKey := ⟨0x784001 + j, 0⟩
/-- LedgerPodRefs (0x7841.01). -/
def oLedgerPodRefs (j : Nat) : OKey := ⟨0x784101 + j, 0⟩
/-- LedgerTokens (0x7850.01). -/
def oLedgerTokens (j : Nat) : OKey := ⟨0x785001 + j, 0⟩
/-- LedgerPool (0x7860.01). -/
def oLedgerPool (i j : Nat) : OKey := ⟨0x786001 + i * 0x100 + j, 0⟩
/-- LedgerContrib (0x7870.01). -/
def oLedgerContrib (i j : Nat) : OKey := ⟨0x787001 + i * 0x100 + j, 0⟩
/-- LedgerEnergy (0x7880.01). -/
def oLedgerEnergy (j : Nat) : OKey := ⟨0x788001 + j, 0⟩
/-- EnergyHusk (0x7881.01). -/
def oEnergyHusk (j : Nat) : OKey := ⟨0x788101 + j, 0⟩
/-- EnergyUnattributed (0x7881.11). -/
def oEnergyUnattributed : OKey := ⟨0x788111, 0⟩
/-- AcornImageSlot (0x8000.01). -/
def oAcornImageSlot (j : Nat) : OKey := ⟨0x800001 + j, 0⟩
/-- AcornImageRelease (0x8001.00). -/
def oAcornImageRelease : OKey := ⟨0x800100, 0⟩
/-- AcornInstallSource (0x8010.01). -/
def oAcornInstallSource : OKey := ⟨0x801001, 0⟩
/-- AcornInstallSlot (0x8010.02). -/
def oAcornInstallSlot : OKey := ⟨0x801002, 0⟩
/-- AcornInstallLength (0x8010.03). -/
def oAcornInstallLength : OKey := ⟨0x801003, 0⟩
/-- AcornInstallUpstream (0x8010.04). -/
def oAcornInstallUpstream : OKey := ⟨0x801004, 0xffff⟩
/-- AcornInstallDownstream (0x8010.05). -/
def oAcornInstallDownstream : OKey := ⟨0x801005, 0xffff⟩
/-- AcornInstallStart (0x8010.06). -/
def oAcornInstallStart : OKey := ⟨0x801006, 0⟩
/-- AcornInstallCancel (0x8010.07). -/
def oAcornInstallCancel : OKey := ⟨0x801007, 0⟩
/-- AcornInstallTimeout (0x8010.08). -/
def oAcornInstallTimeout : OKey := ⟨0x801008, 0x989680⟩
/-- AcornRepairTableBase (0x8020.01). -/
def oAcornRepairTableBase : OKey := ⟨0x802001, 0⟩
/-- AcornRepairTableCount (0x8020.02). -/
def oAcornRepairTableCount : OKey := ⟨0x802002, 0⟩
/-- AcornRepairCommit (0x8020.03). -/
def oAcornRepairCommit : OKey := ⟨0x802003, 0⟩
/-- AcornRepairGeneration (0x8020.04). -/
def oAcornRepairGeneration : OKey := ⟨0x802004, 0⟩
/-- AcornPoisonCount (0x8030.01). -/
def oAcornPoisonCount : OKey := ⟨0x803001, 0⟩
/-- AcornScrubPeriod (0x8040.01). -/
def oAcornScrubPeriod : OKey := ⟨0x804001, 0x15180⟩
/-- AcornScrubPass (0x8040.02). -/
def oAcornScrubPass : OKey := ⟨0x804002, 0⟩
/-- AcornRefreshPending (0x8041.01). -/
def oAcornRefreshPending (j : Nat) : OKey := ⟨0x804101 + j, 0⟩
/-- AcornRefreshStart (0x8042.01). -/
def oAcornRefreshStart : OKey := ⟨0x804201, 0⟩
/-- AcornRefreshCancel (0x8042.02). -/
def oAcornRefreshCancel : OKey := ⟨0x804202, 0⟩
/-- AcornEccCorrected (0x8050.01). -/
def oAcornEccCorrected (j : Nat) : OKey := ⟨0x805001 + j, 0⟩
/-- AcornReadRetries (0x8051.01). -/
def oAcornReadRetries (j : Nat) : OKey := ⟨0x805101 + j, 0⟩
/-- AcornUncorrectable (0x8052.01). -/
def oAcornUncorrectable (j : Nat) : OKey := ⟨0x805201 + j, 0⟩
/-- AcornEnduranceMax (0x8060.01). -/
def oAcornEnduranceMax (j : Nat) : OKey := ⟨0x806001 + j, 0⟩
/-- AcornSpareBlocksFree (0x8061.01). -/
def oAcornSpareBlocksFree (j : Nat) : OKey := ⟨0x806101 + j, 0x800⟩
/-- AcornJournalIncomplete (0x8070.01). -/
def oAcornJournalIncomplete (j : Nat) : OKey := ⟨0x807001 + j, 0⟩
/-- ThermalReading (0x9000.01). -/
def oThermalReading (j : Nat) : OKey := ⟨0x900001 + j, 0⟩
/-- PowerInput (0x9001.01). -/
def oPowerInput : OKey := ⟨0x900101, 0⟩
/-- PowerWindow (0x9001.02). -/
def oPowerWindow : OKey := ⟨0x900102, 0⟩

end Sys2Proof.Machine
end

