-- ==== Sys2Proof/Machine/Map.lean ====
section
/-! DEFINITION. Sparse tables keyed by a number: the model's plain-data form of "one entry per husk, per link, per
address". The keys rise strictly, so equal tables are equal data. Nothing here comes from the spec. -/
namespace Sys2Proof.Machine

/-- A table from numbers to entries, keys strictly rising. -/
structure AMap (α : Type) where
  items : List (Nat × α)
  deriving DecidableEq, Repr

namespace AMap
variable {α : Type}

/-- The table with no entry. -/
def empty : AMap α := ⟨[]⟩

/-- The entry at `k` of a list of pairs. -/
def find (k : Nat) : List (Nat × α) → Option α
  | [] => none
  | (j, a) :: t => if j = k then some a else find k t

/-- Insert or replace at `k`, keeping keys rising. -/
def insert (k : Nat) (a : α) : List (Nat × α) → List (Nat × α)
  | [] => [(k, a)]
  | (j, b) :: t => if k < j then (k, a) :: (j, b) :: t else if k = j then (k, a) :: t else (j, b) :: insert k a t

/-- The entry at `k`, if there is one. -/
def get? (m : AMap α) (k : Nat) : Option α := find k m.items

/-- The entry at `k`, or `d`. -/
def getD (m : AMap α) (k : Nat) (d : α) : α := (m.get? k).getD d

/-- The table with `a` at `k`. -/
def put (m : AMap α) (k : Nat) (a : α) : AMap α := ⟨insert k a m.items⟩

/-- The table without an entry at `k`. -/
def del (m : AMap α) (k : Nat) : AMap α := ⟨m.items.filter (fun p => !(p.1 == k))⟩

/-- The table without the entries whose key and value satisfy `f`. -/
def delIf (m : AMap α) (f : Nat → α → Bool) : AMap α := ⟨m.items.filter (fun p => !(f p.1 p.2))⟩

/-- Every entry changed by `f`. -/
def mapVals (m : AMap α) (f : Nat → α → α) : AMap α := ⟨m.items.map (fun p => (p.1, f p.1 p.2))⟩

/-- Is there an entry at `k`? -/
def has (m : AMap α) (k : Nat) : Bool := (m.get? k).isSome

/-- The entries in ascending key order. -/
def vals (m : AMap α) : List α := m.items.map (fun p => p.2)

/-- The entry at `k` (or `d`) changed by `f`. -/
def modify (m : AMap α) (k : Nat) (d : α) (f : α → α) : AMap α := m.put k (f (m.getD k d))

/-- The lowest key at or above `lo` that holds no entry (bounded search, for numbering new requests). -/
def fresh (m : AMap α) : Nat := m.items.foldl (fun n p => Nat.max n (p.1 + 1)) 0

end AMap

/-- A list of numbers in strictly rising order, used as a set. -/
def setInsert (k : Nat) : List Nat → List Nat
  | [] => [k]
  | j :: t => if k < j then k :: j :: t else if k = j then j :: t else j :: setInsert k t

/-- The set without `k`. -/
def setErase (k : Nat) (l : List Nat) : List Nat := l.filter (fun j => !(j == k))

end Sys2Proof.Machine
end

