-- ==== Sys2Proof/Machine/Memory.lean ====
section
/-! DEFINITION. The addressed bytes of R36 (scratch, L2 windows, HBM, acorn cells, Tier 3) as one list of cells in
canonical form: addresses strictly rising, and no cell that holds what an unlisted address reads as. Beside it the
poison of R79 and R524, one mark per 32-byte granule, and the log of writes by which a command changes both. -/
namespace Sys2Proof.Machine

/-- Addressed bytes, canonical (see `Memory.wf`). -/
abbrev Memory := List Host.Cell

/-- What a byte that nothing has written reads as. DESIGN CHOICE (log entry 1): the spec gives no contents for RAM
after power-on; unsafe. -/
def unlistedByte : Byte := 0

/-- The byte at `a`. -/
def Memory.get (m : Memory) (a : Nat) : Byte :=
  match m with
  | [] => unlistedByte
  | (b, v) :: t => if b = a then v else Memory.get t a

/-- The memory with byte `v` at `a`, in canonical form again. -/
def Memory.set (a : Nat) (v : Byte) : Memory → Memory
  | [] => if v = unlistedByte then [] else [(a, v)]
  | (b, u) :: t =>
    if a < b then (if v = unlistedByte then (b, u) :: t else (a, v) :: (b, u) :: t)
    else if a = b then (if v = unlistedByte then t else (a, v) :: t)
    else (b, u) :: Memory.set a v t

/-- Every listed address lies above `lo` or the list is empty below it, and addresses rise; no cell is redundant. -/
def Memory.wfFrom (lo : Nat) : Memory → Bool
  | [] => true
  | (a, v) :: t => decide (lo ≤ a) && !(v == unlistedByte) && Memory.wfFrom (a + 1) t

/-- The canonical form: addresses strictly rising, no cell that holds the unlisted byte. -/
def Memory.wf (m : Memory) : Bool := Memory.wfFrom 0 m

/-- The bytes at `a`, `a + 1`, … -/
def Memory.setBytes (m : Memory) (a : Nat) : List Byte → Memory
  | [] => m
  | v :: t => Memory.setBytes (Memory.set a v m) (a + 1) t

/-- Zeros in the range: the listed cells inside it go. -/
def Memory.zero (m : Memory) (lo len : Nat) : Memory :=
  m.filter (fun c => !(decide (lo ≤ c.1) && decide (c.1 < lo + len)))

/-- One entry of a command's write log. -/
inductive MemOp where
  /-- bytes stored from an address on -/
  | bytes (a : Nat) (data : List Byte)
  /-- a range zeroed, its poison cleared and its lines plain -/
  | zero (lo len : Nat)
  /-- a granule (address divided by 32) marked poisoned or clean -/
  | mark (granule : Nat) (on : Bool)
  /-- a 64-byte line written under a key serial; 0 is plain (R331) -/
  | tag (line : Nat) (key : Nat)
  deriving DecidableEq, Repr

/-- The three stores that a log changes. -/
structure Store where
  mem : Memory
  poison : List Nat
  tags : AMap Nat
  deriving DecidableEq, Repr

/-- One log entry applied. -/
def Store.apply (s : Store) : MemOp → Store
  | .bytes a d => { s with mem := s.mem.setBytes a d }
  | .zero lo len =>
    { s with mem := s.mem.zero lo len,
             poison := s.poison.filter (fun g => !(decide (lo ≤ g * 32) && decide (g * 32 + 32 ≤ lo + len))),
             tags := s.tags.delIf (fun l _ => decide (lo ≤ l * 64) && decide (l * 64 + 64 ≤ lo + len)) }
  | .mark g on => { s with poison := if on then setInsert g s.poison else setErase g s.poison }
  | .tag l k => { s with tags := if k = 0 then s.tags.del l else s.tags.put l k }

/-- The log (newest entry first) applied oldest first. -/
def Store.flush (s : Store) (log : List MemOp) : Store := log.foldr (fun op t => t.apply op) s

/-- The byte at `a` after the log. -/
def logByte (base : Store) (a : Nat) : List MemOp → Byte
  | [] => base.mem.get a
  | .bytes b d :: t => if b ≤ a ∧ a < b + d.length then (d[a - b]?).getD unlistedByte else logByte base a t
  | .zero lo len :: t => if lo ≤ a ∧ a < lo + len then unlistedByte else logByte base a t
  | .mark _ _ :: t => logByte base a t
  | .tag _ _ :: t => logByte base a t

/-- Whether granule `g` is poisoned after the log. -/
def logPoison (base : Store) (g : Nat) : List MemOp → Bool
  | [] => base.poison.elem g
  | .bytes _ _ :: t => logPoison base g t
  | .zero lo len :: t => if lo ≤ g * 32 ∧ g * 32 + 32 ≤ lo + len then false else logPoison base g t
  | .mark h on :: t => if h = g then on else logPoison base g t
  | .tag _ _ :: t => logPoison base g t

/-- The key serial of line `l` after the log. -/
def logTag (base : Store) (l : Nat) : List MemOp → Nat
  | [] => base.tags.getD l 0
  | .bytes _ _ :: t => logTag base l t
  | .zero lo len :: t => if lo ≤ l * 64 ∧ l * 64 + 64 ≤ lo + len then 0 else logTag base l t
  | .mark _ _ :: t => logTag base l t
  | .tag m k :: t => if m = l then k else logTag base l t

end Sys2Proof.Machine
end

