-- ==== Sys2Proof/Machine/Types.lean ====
section
/-! DEFINITION. The records that the device state is made of, chapter by chapter: the common parts (time, dictionary
windows, queues, faults, resets, power) stand here. Every scalar that the object dictionary names lives in the one
dictionary store and not here. -/
namespace Sys2Proof.Machine

/-- Time and clocks beside their objects: R20, R22, R29 to R31. -/
structure TimeSt where
  /-- the timestamp, R26 -/
  tick : Nat
  /-- signed ticks still to be slewed toward the master, R29 -/
  slew : Int
  /-- ticks since the last slewed tick, R29 -/
  slewAge : Nat
  /-- TimeStepCommand permits one load, R31 -/
  permit : Bool
  /-- tick of the last timing message, R30; a load of the time moves it by the load, so that it may lie below 0 -/
  lastMsg : Int
  /-- tick of the last exchange sent, R29; moved likewise -/
  lastSend : Int
  /-- priority and node address of the master heard, R29 -/
  master : Option (Nat × Nat)
  /-- root target in MHz, R22 and R488 -/
  rootTarget : Nat
  /-- end tick of the 100 MHz step in progress, and whether it goes up, R20 -/
  rootStepEnd : Option Nat
  rootStepUp : Bool
  /-- the nominal root in force, in MHz, R22 -/
  nominal : Nat
  /-- tick of an accepted ClockNominalRoot that is not yet in force, R22 -/
  rootPending : Option Nat
  deriving DecidableEq, Repr

/-- The dictionary window of one host function, R414. -/
structure Window where
  request : Word
  data : Word
  busy : Bool
  count : BitVec 16
  reason : Reason
  buffer : List Byte
  deriving DecidableEq, Repr

/-- A reply that a request over the field network or MCTP received, R434 and R436. -/
structure Reply where
  reason : Reason
  data : Word
  bytes : List Byte
  deriving DecidableEq, Repr

/-- What a taken command still waits for. -/
inductive Wait where
  /-- nothing: it has finished and its completion record is due -/
  | done
  /-- a received chain set (CINIT = 3), R78 -/
  | chainIn
  /-- the acceptance of the set it sends (OUT = 3), R78 -/
  | chainOut
  /-- gather-feed pieces not yet present, R85 -/
  | feed
  /-- a ring shard, R180 -/
  | shard
  /-- a pod allocation with WAIT, R197 -/
  | alloc
  /-- a gradient flag, R288 -/
  | grad
  /-- entries of a schedule run or one prefetch entry in flight, R153 -/
  | prefetch
  /-- host acknowledgements of a pod swap, R208, R210 -/
  | swap
  /-- transfers of a collective descriptor -/
  | coll
  /-- a later event of its own row -/
  | event
  deriving DecidableEq, Repr

/-- A command that a unit has taken and not yet completed, R83. -/
structure Taken where
  /-- the 128 bytes as a number, little-endian -/
  cmd : Nat
  tag : Nat
  status : Nat
  reason : Nat
  wait : Wait
  /-- husk in whose name it runs -/
  husk : Nat
  /-- canonical mode it was accepted in, R67 -/
  canonical : Bool
  /-- the random key it was accepted with, R67 and R225 -/
  key : Nat
  /-- tick at which it was accepted -/
  accepted : Nat
  /-- tick at which it was taken, or at which its wait began -/
  since : Nat
  /-- unit number for a matrix engine that took it from a filler queue -/
  unit : Nat
  /-- pieces present so far with their reasons, in the order their flags were set, R86 -/
  pieces : List (Nat × Nat)
  /-- further numbers that the unit's chapter names -/
  aux : List Nat
  deriving DecidableEq, Repr

/-- The registers of one command queue image, R81, and the commands its unit has taken. -/
structure Ring where
  qbase : Nat
  enable : Bool
  log2size : Nat
  producer : Bool
  tail : Nat
  head : Nat
  cqbase : Nat
  cqhead : Nat
  cqtail : Nat
  state : Nat
  lastReason : Nat
  refused : Nat
  taken : List Taken
  deriving DecidableEq, Repr

/-- A queue image with every register at its reset value, R81. -/
def Ring.init : Ring := ⟨0, false, 0, false, 0, 0, 0, 0, 0, 0, 0, 0, []⟩

/-- One fault record, R448. -/
structure FaultRec where
  lastTick : Nat
  count : Nat
  action : Nat
  deadline : Nat
  tick : Nat
  address : Nat
  master : Nat
  access : Nat
  reason : Nat
  precedence : Nat
  cls : Nat
  husk : Nat
  source : Nat
  seq : Nat
  valid : Bool
  acked : Bool
  cleared : Bool
  merged : Bool
  counted : Bool
  escalated : Bool
  fenced : Bool
  /-- conditions raised by captured or merged events that have not ended, R452 -/
  conds : Nat
  deriving DecidableEq, Repr

/-- The record that reads 0 everywhere, R448. -/
def FaultRec.init : FaultRec :=
  ⟨0, 0, 0, 0, 0, 0, 0, 0, 0, 0, 0, 0, 0, 0, false, false, false, false, false, false, false, 0⟩

/-- A ladder step for the part `target` (a source for REINIT_UNIT, a husk for HUSK_RESET), R455 and R461: running
until `quiet` is set, then in its quiet period until that tick. -/
structure LadderStep where
  action : Nat
  target : Nat
  start : Nat
  bound : Nat
  quiet : Option Nat
  /-- it has failed and the next step was taken, R462 -/
  failed : Bool
  deriving DecidableEq, Repr

/-- Faults: records by source, counting windows, running steps and quiet periods, R446 to R465. -/
structure FaultSt where
  recs : AMap FaultRec
  /-- ticks of the events counted in counting mode, newest first, R456 -/
  windows : AMap (List Nat)
  /-- ladder steps by action × 65536 + target, R455 -/
  steps : AMap LadderStep
  /-- the 256 history entries by number, R454 -/
  history : AMap FaultRec
  /-- domains named by FaultUnfence for the next cold reset, R462 -/
  unfence : Nat
  deriving DecidableEq, Repr

/-- A reset sequence in progress, R470 and R476. -/
structure ResetSeq where
  scope : Nat
  source : Nat
  master : Nat
  cause : Nat
  faultSource : Nat
  start : Nat
  restarts : Nat
  deferred : Bool
  deriving DecidableEq, Repr

/-- A reset held until a bring-up completes, R470: scope, target (husk or port) and what its record will say. -/
structure HeldReset where
  scope : Nat
  target : Nat
  source : Nat
  master : Nat
  cause : Nat
  faultSource : Nat
  deriving DecidableEq, Repr

/-- The power sequencer, R475 to R480. -/
structure PowerSeq where
  /-- 0 idle, 1 powering up, 2 powering down, 3 held off in a POWER_CYCLE -/
  dir : Nat
  /-- after the power-down: 0 stay off, 1 hold then power up (POWER_CYCLE), 2 FAILED -/
  after : Nat
  /-- tick at which the wait or hold in progress began -/
  since : Nat
  /-- rails being force-discharged, R480 -/
  forced : List Nat
  /-- RESET_N was released, or PowerCommand 2 given, while a thermal trip holds, R500 -/
  releaseHeld : Bool
  /-- tick of the thermal trip whose hold still runs, R500 -/
  trip : Option Nat
  /-- tick at which PWRFAIL_N was asserted, R478 -/
  pwrfail : Option Nat
  /-- tick of the assertion whose loss of input the module has committed to power down for, R478 -/
  committed : Option Nat
  /-- the input came back after that commitment, R478 -/
  inputBack : Bool
  deriving DecidableEq, Repr

/-- Reset controller, input pins and power sequencer. -/
structure ResetSt where
  /-- husk h at h, module at 16, port p at 17 + p, controller at 19 -/
  seqs : AMap ResetSeq
  held : List HeldReset
  /-- husks that become ACTIVE again at W8 -/
  wasActive : List Nat
  /-- husks whose DISABLE takes effect when they next become ACTIVE, with its writer, R344 -/
  disableHeld : AMap Nat
  /-- RESET_N and the two PERST_N are asserted -/
  resetN : Bool
  perst : List Bool
  power : PowerSeq
  deriving DecidableEq, Repr

/-- MSI-X vector of one function, R432: last send, pending bit and mask. -/
structure Msix where
  lastSent : Option Nat
  pending : Bool
  masked : Bool
  deriving DecidableEq, Repr

/-- A message sent on an MSI-X vector: function (port × 32 + f), vector, tick. -/
structure MsixMsg where
  fn : Nat
  vec : Nat
  tick : Nat
  deriving DecidableEq, Repr

/-- A pending PLDM event, R438: a fault record captured (source), a threshold crossed (sensor), or a cap conflict. -/
inductive PldmEvent where
  | fault (source : Nat)
  | threshold (sensor : Nat)
  | capConflict
  deriving DecidableEq, Repr

/-- A pip as the block's commands see it, R90, R95. -/
structure Pip where
  x : List Word
  f : List Word
  v : List (BitVec 512)
  pc : Word
  fcsr : Word
  vl : Word
  vtype : Word
  vstart : Word
  /-- 0 U, 1 S, 3 M -/
  mode : Nat
  mepc : Word
  mcause : Word
  mtval : Word
  mtvec : Word
  mstatus : Word
  /-- exceptions delegated to S mode, and S mode's own trap registers (R90; log entry 14) -/
  medeleg : Word
  stvec : Word
  sepc : Word
  scause : Word
  stval : Word
  /-- 0 running; 1 xq.wait; 2 xb.wait; 3 xe.wait; 4 stopped at a pre-emption point -/
  waiting : Nat
  /-- rd, operand, limit and start tick of the wait -/
  waitRd : Nat
  waitA : Nat
  waitB : Nat
  waitSince : Nat
  deriving DecidableEq, Repr

/-- A barrier of a husk, R91 and R93. -/
structure Barrier where
  count : Nat
  arrivals : Nat
  gen : Nat
  deriving DecidableEq, Repr

/-- A set of running values sent to an engine, R78; `bad` lists the places of those that are poisoned, which a product
that takes them keeps poisoned (R79). -/
structure ChainSet where
  sender : Nat
  m : Nat
  n : Nat
  values : List F32
  bad : List Nat
  deriving DecidableEq, Repr

/-- One accumulator bank: values listed by element m × 256 + n (unlisted: +0), poison marks beside them, R71, R79. -/
structure Bank where
  vals : AMap F32
  bad : List Nat
  deriving DecidableEq, Repr

/-- A matrix engine, R71 and R78; the same record serves a command block that receives chain sets. -/
structure Engine where
  banks : AMap Bank
  sets : List ChainSet
  deriving DecidableEq, Repr

/-- L2 state of one line in one cluster, R97. -/
inductive Mesi where
  | s | e | m
  deriving DecidableEq, Repr

/-- Directory entry of a line, R99 and R101. -/
structure DirLine where
  owner : Option Nat
  sharers : List Nat
  /-- a writeback is in flight from this cluster -/
  writeback : Option Nat
  /-- requests held or queued as next owners, in order: cluster and whether for ownership -/
  queue : List (Nat × Bool)
  /-- bytes a writeback carries, and their key serial -/
  wbData : List Byte
  wbKey : Nat
  /-- how the home holds a host memory line: 0 not, 1 shared (RdShared), 2 owned (RdOwn), R100 -/
  host : Nat
  deriving DecidableEq, Repr

/-- A line's copy in one cluster: its state, its 64 bytes and the key serial it is stored under (R97, R331). -/
structure LineCopy where
  state : Mesi
  bytes : List Byte
  key : Nat
  deriving DecidableEq, Repr

/-- Coherence: directory by line, and the clusters' copies by line × 128 + cluster. -/
structure CohSt where
  dir : AMap DirLine
  copies : AMap LineCopy
  deriving DecidableEq, Repr

/-- A Tier 3 access in flight: what it reads or writes and for whom, R145, R146. -/
structure T3Access where
  port : Nat
  write : Bool
  addr : Nat
  len : Nat
  master : Nat
  husk : Nat
  /-- which mechanism waits: 0 unit access, 1 prefetch entry, 2 update sequencer (R283), 3 transfer of a turn, 4 OWNER word at a
  commit (R313), 5 a home for a cluster's request (R100), 6 a firmware update (R443) -/
  user : Nat
  /-- the user's own number for what waits -/
  ref : Nat
  /-- the bytes a write carries, or a store puts into the lines that it takes -/
  data : List Byte
  /-- 0 a plain access, 1 RdShared, 2 RdOwn, R100 -/
  coh : Nat
  deriving DecidableEq, Repr

/-- A translation leaf held in a husk's translation caches, R45: entry word and level. -/
structure CachedLeaf where
  pte : Nat
  level : Nat
  deriving DecidableEq, Repr

/-- The last completed unit access, as its issuer sees it (data, poison, RISC-V cause where a pip faulted). -/
structure AccessResult where
  data : List Byte
  bad : List Bool
  ok : Bool
  deriving DecidableEq, Repr

/-- A slot change in progress on a slice, R337 to R339. -/
structure SlotChange where
  /-- husk being pre-empted (255 none) and husk coming in (255 none) -/
  out : Nat
  incoming : Nat
  requestTick : Nat
  slotStart : Nat
  saved : Bool
  restored : Bool
  /-- a unit was stopped by force, R340 -/
  forced : Bool
  /-- the change is the slot's grant, not the owner's return (R339) -/
  grant : Bool
  deriving DecidableEq, Repr

/-- Cycle table, pre-emption and filler, R335 to R342. -/
structure CycleSt where
  /-- table in force: entry words -/
  table : List Nat
  /-- a committed table and the first tick at which it may take effect -/
  next : Option (List Nat × Nat)
  /-- slot start tick of the entry in force -/
  slotStart : Nat
  /-- CycleEnable is to fall to 0 at the end of the slot -/
  stopping : Bool
  /-- entry 0 first starts at CycleStartTick: no slot has started yet -/
  armed : Bool
  changes : AMap SlotChange
  /-- accumulator banks that live masks named, slice × 16 + 2 × engine + bank, R95 -/
  live : List Nat
  /-- what the save area of a husk for a slice holds, by slice × 16 + husk: pips 0 to 255, 256 + 2 × engine + bank, 300 for
  the guest window (R338, R341) -/
  saved : AMap (List Nat)
  /-- husk whose guest window is resident on a slice -/
  windows : AMap Nat
  /-- tick since which an owner's engine has been idle, by slice × 16 + queue -/
  idleSince : AMap Nat
  /-- engines lent to a filler command, by slice × 16 + unit, with the owner's banks -/
  lent : AMap Engine
  /-- slot start last counted in CycleSlotsLate, R337 -/
  late : Nat
  /-- start of the slot whose request tick was served last -/
  requested : Option Nat
  deriving DecidableEq, Repr

/-- Power capping, droop and thermal control beside their objects, R486 to R500. -/
structure PowerSt where
  /-- capping ceiling, thermal ceiling and ceiling in force per slice, in eighths (unlisted: 8), R490 -/
  capCeil : AMap Nat
  thermCeil : AMap Nat
  ceil : AMap Nat
  /-- switched domains (R482) that stood in reset at the last telemetry sample, R35 -/
  marked : List Nat
  /-- a selection of points awaits the next window boundary, R487 -/
  selectDue : Bool
  /-- the operating point in force of each husk that has one, R487 -/
  inForce : AMap Nat
  /-- the sustained limit in force, R501 -/
  limitNow : Nat
  peakSpent : Bool
  /-- ceilings ramp to 0 or stay there after an excursion, R495 -/
  excursion : Bool
  conflict : Bool
  /-- ends of the windows above the limit in the last 60 s, newest first, R494 -/
  overWindows : List Nat
  /-- samples of the gated fraction, in sixteenths of a per mille (summed over the slices), newest first, R496 -/
  gated : List Nat
  /-- last power sample in W, R492 -/
  measured : Nat
  /-- slices whose core clock is stretched, R497 -/
  stretched : List Nat
  /-- readings of the 72 sensors in 1/16 °C, R498 -/
  readings : AMap Nat
  /-- points at or above throttle and not yet recovered, points at or above limit and not yet released, R499 -/
  throttled : List Nat
  limited : List Nat
  /-- highest root that the slice junctions allow now, in MHz, R499 -/
  rootCap : Nat
  /-- consecutive ticks with both sensors at trip, by point -/
  tripTicks : AMap Nat
  /-- tick of the last throttle or recovery step: 0 of the root, 1 + s of slice s -/
  lastStep : AMap Nat
  deriving DecidableEq, Repr

/-- One flit of a message as a port holds it: routing fields of its frame (R349), the message header (R360) as a number,
the byte of the message that its data starts at, and the data. -/
structure Flit where
  dest : Nat
  vc : Nat
  cls : Nat
  ty : Nat
  hdr : Nat
  off : Nat
  data : List Byte
  deriving DecidableEq, Repr

/-- A CONTROL frame sent, R350 and R370. -/
inductive LinkCtl where
  | retryReq (seq : Nat)
  | goingDown
  deriving DecidableEq, Repr

/-- One link end, R350 and R351: counters, retry buffer, receive buffer. -/
structure LinkSt where
  /-- next SEQ to send, next SEQ expected -/
  tx : Nat
  rx : Nat
  /-- the retry buffer, oldest first -/
  retry : List (Nat × Flit)
  /-- G_AVAIL by queue (unlisted: 8 while `up`), S_AVAIL, TX_OUT by queue -/
  g : AMap Nat
  shared : Nat
  out : AMap Nat
  /-- flits received that have not left the buffer -/
  held : List Flit
  /-- credits still to be returned, by queue -/
  owe : AMap Nat
  /-- credits are set: from link-up until the reclaim of R364 -/
  up : Bool
  /-- tick since which a retry is pending, and tick of the last DOWN -/
  retrySince : Option Nat
  downAt : Option Nat
  /-- CONTROL frames sent, newest first -/
  ctl : List LinkCtl
  /-- message being received on each queue: header and the next byte -/
  partials : AMap (Nat × Nat)
  deriving DecidableEq, Repr

/-- A message being received for a local husk, R361: the ranges of bytes received, and when the last came. -/
structure RxMsg where
  hdr : Nat
  vc : Nat
  pieces : List (Nat × List Byte)
  last : Nat
  truncated : Bool
  deriving DecidableEq, Repr

/-- The fabric ports, R346 to R370. -/
structure FabricSt where
  links : AMap LinkSt
  /-- flits of this module's own messages waiting to be sent -/
  waiting : List Flit
  /-- the link and class that the HEAD of a message took, by message -/
  paths : List (Nat × (Nat × Nat))
  assembling : AMap RxMsg
  /-- messages received whole and accepted, newest first, until their engine takes them -/
  inbox : List Msg
  /-- down directions of a neighbour, by node, R358 -/
  nbrDown : AMap Nat
  /-- newest epoch seen, by source node × 16 + husk, and of modules by node, R367 -/
  epochs : AMap Nat
  modEpochs : AMap Nat
  /-- tick of the last EPOCH_STALE NACK, by node, R368 -/
  lastNack : AMap Nat
  /-- next MSG_SEQ by path of R360 -/
  seqs : AMap Nat
  /-- 1 a listed cable is present, 2 another kind, by direction -/
  cables : AMap Nat
  /-- directions whose cable supply is off after an overload, R515 -/
  overload : List Nat
  /-- state a direction is changing to, R362 -/
  target : AMap Nat
  /-- state from which a direction in transition came, R362 -/
  leaving : AMap Nat
  /-- tick at which a direction asked to be OFF began to drain, R370 -/
  dirDrain : AMap Nat
  /-- tick at which the ports began to drain, R370 -/
  drainSince : Option Nat
  lastStatus : Nat
  deriving DecidableEq, Repr

/-- State of an installed image beside its AcornImageSlot word: its extent, its matrix records, the parts (chunk × 256 +
NMU) of its file already written, R125 to R137. -/
structure ImageInfo where
  base : Nat
  extent : Nat
  records : List MatrixRec
  chunks : List ChunkEnt
  written : List Nat
  deriving DecidableEq, Repr

/-- An overlay or repair entry, R117. -/
structure OverlayEnt where
  addr : Nat
  image : Nat
  matrix : Nat
  tr : Nat
  tc : Nat
  kind : Nat
  valid : Bool
  deriving DecidableEq, Repr

/-- An entry of AcornPoisonList, R122. -/
structure PoisonEnt where
  slot : Nat
  image : Nat
  matrix : Nat
  tr : Nat
  tc : Nat
  deriving DecidableEq, Repr

/-- A write that a stack's write controller is to make, R134: its block (NMU × 384 + block of the region), where its bytes
stand (staged in HBM, or the cells themselves for a refresh), their number, and how many the pages written so far hold. -/
structure WriteJob where
  refresh : Bool
  block : Nat
  chunk : Nat
  addr : Nat
  src : Nat
  len : Nat
  pos : Nat
  deriving DecidableEq, Repr

/-- A journal entry, R137; state 1 STARTED, 2 COMPLETE, 3 REMAPPED. -/
structure JournalEnt where
  image : Nat
  block : Nat
  state : Nat
  slot : Nat
  tick : Nat
  deriving DecidableEq, Repr

/-- The tables that a waiting command was accepted under, kept when newer ones take effect (R119): its ring, the command,
the husk's overlay table and the repair table. -/
structure TablePin where
  ring : Nat
  cmd : Nat
  overlays : List OverlayEnt
  repair : List OverlayEnt
  deriving DecidableEq, Repr

/-- The installation in progress, R130 to R133. -/
structure InstallSt where
  slot : Nat
  manifest : Option Manifest
  received : List Nat
  /-- chunks staged, with the place of the 16 that each stands in, R130 and R132 -/
  staged : AMap Nat
  forwarded : Nat
  lastData : Nat
  cancelling : Bool
  downLost : Bool
  remapped : Nat
  /-- blocks complete at the start, by stack -/
  before : AMap Nat
  /-- pieces (chunk × 256 + NMU) written before the installation began -/
  old : List Nat
  /-- reason of each stack's last event -/
  reasons : AMap Nat
  deriving DecidableEq, Repr

/-- The acorn stacks, R102 to R138. -/
structure AcornSt where
  images : AMap ImageInfo
  /-- overlay tables in force and commits being validated, by husk; the same for the repair table -/
  overlays : AMap (List OverlayEnt)
  overlayPending : AMap Path
  repair : List OverlayEnt
  repairPending : Option Path
  pinned : List TablePin
  poison : List PoisonEnt
  /-- bit errors in the codeword of a stored line, and the reread (1 to 3) at which an uncorrectable one first comes out clean
  (unlisted: none does), R121: no command of the table makes one -/
  cellErrs : AMap Nat
  rereads : AMap Nat
  /-- blocks flagged for refresh, R124 -/
  flagged : List Nat
  refreshCancel : Bool
  refreshStart : AMap Nat
  install : InstallSt
  /-- writes of each stack, the head being pulsed when `pulse` lists the stack with its pulse number 1 to 3 -/
  queues : AMap (List WriteJob)
  pulse : AMap Nat
  /-- spare blocks used by NMU, and the program counter of each block -/
  spares : AMap Nat
  programs : AMap Nat
  /-- the journal and its second copy, newest entry first, R137 -/
  journal : List JournalEnt
  journalCopy : List JournalEnt
  /-- blocks begun and not completed since the operation or the power-up, and blocks it remapped because they failed, R134, R137 -/
  started : List Nat
  remapped : List Nat
  /-- slots scrubbed in the pass in progress -/
  scrubbed : List Nat
  deriving DecidableEq, Repr

/-- A prefetch entry being executed, R151 to R154. Stages: 0 issued; 1, 2, 3 read of the shard header, of the data, of the
header again; 4 waiting for ShardPollInterval; 5 write of the destination; 6, 13, 7, 8 a publication's header with OPEN,
its BYTES, its payload, its header with the next epoch; 9 waiting for pool space; 10 waiting for another entry's load; 11 finished;
12 read of the header to publish. -/
structure PfEntry where
  cmd : Nat
  stage : Nat
  /-- an access to Tier 3 is in flight -/
  flying : Bool
  issued : Nat
  since : Nat
  reason : Nat
  data : List Byte
  bad : List Bool
  header : Nat
  dst : Nat
  /-- the pool object that it loads -/
  obj : Option Nat
  /-- causes met, R155: bit 0 Tier 3 poison, 1 pool, 2 read-retry, 3 issued late, 4 Tier 3; those met when it became overdue stand
  from bit 8 up -/
  cause : Nat
  /-- it has become overdue -/
  overdue : Bool
  deriving DecidableEq, Repr

/-- A schedule run, R152 and R153. -/
structure PfRun where
  cmd : Nat
  next : Nat
  flight : AMap PfEntry
  reasons : AMap Nat
  holds : List Nat
  /-- entries not yet issued that have become overdue, R156 -/
  late : List Nat
  deriving DecidableEq, Repr

/-- A slice's prefetch/DMA engine: its run and the entry of a single command. -/
structure PfSt where
  run : Option PfRun
  single : Option PfEntry
  deriving DecidableEq, Repr

/-- Prefetch and pools: engines by slice (and 16 + slice: the engine as the slice's update sequencer uses it, R296), each husk's
pool queue (slice, entry), shards (by header address) whose publication was cut off (R149), and each husk's checkpoint table in
force by its base (R262). -/
structure PrefetchSt where
  engines : AMap PfSt
  poolQueue : AMap (List (Nat × Nat))
  cutShards : List Nat
  ckBase : AMap Nat
  deriving DecidableEq, Repr

/-- A waiting pod allocation, R197: the command that queue 14 of a slice has taken (`seq` none), or the request that a
plan made for a GUARANTEED sequence (R241). -/
structure AllocReq where
  husk : Nat
  slice : Nat
  prio : Nat
  seq : Option Nat
  /-- it lost a same-cycle tie, R197 -/
  tie : Bool
  /-- tick at which it came -/
  since : Nat
  deriving DecidableEq, Repr

/-- A pod swap in flight, R208 and R210: the pod, the list entry and the Tier 3 slot (virtual addresses), the tokens
moved, and for a write its data. -/
structure SwapOp where
  out : Bool
  husk : Nat
  slice : Nat
  pod : Nat
  entry : Nat
  slot : Nat
  tokens : Nat
  tokenBytes : Nat
  data : List Byte
  bad : List Bool
  group : Nat
  deriving DecidableEq, Repr

/-- The swaps of one command, or of one sequence that a plan moves (R241, R244). -/
structure SwapGroup where
  husk : Nat
  slice : Nat
  seq : Option Nat
  left : Nat
  failed : Bool
  poison : Bool
  deriving DecidableEq, Repr

/-- A grant to a request as it arrived, R197: was its husk below its reserve, its class, husk and slice, its pods. -/
structure PodGrant where
  below : Bool
  prio : Nat
  husk : Nat
  slice : Nat
  pods : Nat
  deriving DecidableEq, Repr

/-- Pods beside their table (R188), which lies in memory: the allocator's queue (R197), swaps, receive records by source
node, husk and PEER_SEQ (R206), peers sent to in a sequence's generation (R205), source husks of forwarded tokens by pod
(R207), the geometry of swapped entries by husk and address (R241 needs it; R189 has no field for it), and the marks
(COMMIT, TENT_END, TENT_SEQ, TENT_GEN by pod) and generations (by husk and sequence) that changed at tick `markTick`, as they
were before it (R172). -/
structure PodSt where
  queue : List AllocReq
  /-- tick of the latest grants to arriving requests, and those grants, R197 -/
  grantTick : Nat
  grants : List PodGrant
  swaps : AMap SwapOp
  groups : AMap SwapGroup
  records : AMap (Nat × Nat)
  peers : AMap (Nat × List (Nat × Nat × Nat))
  sources : AMap Nat
  geos : AMap Nat
  markTick : Nat
  marks : AMap (List Nat)
  gens : AMap Nat
  deriving DecidableEq, Repr

/-- What the device keeps of a sequence beside its table entry (R236): tokens held (R252), the state it was paused from and a pause still to take effect (R255), steps lost to poison (R248), its swap
(0 none, 1 out, 2 out done, 3 in, 4 in done; R241, R244), PREFIXED (R239), whether it is delayed (R242). While the
sequence is PAUSED, `pausing` says that it resumes at the next plan. -/
structure SeqRt where
  held : Nat
  pausedFrom : Nat
  pausing : Bool
  lost : Nat
  swap : Nat
  prefixed : Bool
  delayed : Bool
  deriving DecidableEq, Repr

/-- An entry of a plan completed and not yet committed, R245; it is no longer live once its sequence has ended. -/
structure PlanEnt where
  seq : Nat
  pos : Nat
  gen : Nat
  row0 : Nat
  qlen : Nat
  dplan : Nat
  kind : Nat
  live : Bool
  deriving DecidableEq, Repr

/-- A plan in flight: husk, slice, buffer address, entries. -/
structure Plan where
  husk : Nat
  slice : Nat
  buffer : Nat
  entries : List PlanEnt
  deriving DecidableEq, Repr

/-- Sequences and tenants beside their tables (R235 to R257): by husk × 65536 + sequence; plans in flight; cancellations
written and not yet in effect, by husk: the sequences named with the ticks of their writes (R253); tenant boundaries applied (R252); a
weight replacement's version and layers, by husk (R256). -/
structure SeqSt where
  rts : AMap SeqRt
  plans : List Plan
  cancels : AMap (List (Nat × Nat))
  lastBoundary : Nat
  replaceLayers : AMap Nat
  /-- husks whose plan, update and schedule commands a turn holds, R311 -/
  turnHeld : List Nat
  deriving DecidableEq, Repr

/-- Running values of one attention row, R64 (m, l, o) or R176 (dQ in `o`), and whether the row is poisoned. -/
structure RowAcc where
  m : F32
  l : F32
  o : List F32
  bad : Bool
  deriving DecidableEq, Repr

/-- A key position as read: the keys and values of each covered head; `dead` gives the reason of a position that has no
contents (R190), 0 otherwise. -/
structure AKey where
  pos : Nat
  keys : List (List Val)
  vals : List (List Val)
  bad : List Bool
  dead : Nat
  deriving DecidableEq, Repr

/-- The key positions one entry's rows meet. -/
structure KeySet where
  keys : List AKey
  origins : List Nat
  deriving DecidableEq, Repr

/-- A contribution to dK and dV: buffer row of the key, KV head, number of the row among its head's rows, cvt(ds), cvt(p), q,
do, poison. -/
structure DkvTerm where
  row : Nat
  head : Nat
  ix : Nat
  ds : Val
  p : Val
  q : List Val
  dO : List Val
  bad : Bool
  deriving DecidableEq, Repr

/-- The contributions to dK and dV of one shard, which covers the positions `lo` to `hi` − 1. -/
structure DkvPart where
  lo : Nat
  hi : Nat
  terms : List DkvTerm
  deriving DecidableEq, Repr

/-- An attention command that waits, R178 to R181: the next shard, the end of the previous one, the rows' running values, those
received with canonical mode off, the poison reasons met, whether a shard was refused, what it will add to dK and dV, and the keys
and pods of what ran ahead of a chain set. -/
structure AttnRun where
  shard : Nat
  prevEnd : Nat
  accs : List RowAcc
  received : List RowAcc
  reasons : List Nat
  refused : Bool
  terms : List DkvPart
  ahead : List KeySet
  pods : List Nat
  deriving DecidableEq, Repr

/-- A run that has met nothing. -/
def AttnRun.init : AttnRun := ⟨0, 0, [], [], [], false, [], [], []⟩

/-- A collective descriptor that runs, R374 to R387. Fates are a code of R278 with its reason. -/
structure CollRun where
  engine : Nat
  husk : Nat
  cmd : Nat
  since : Nat
  /-- effective order, R376: 0 CHAIN, 1 RING, 2 TREE -/
  order : Nat
  /-- the participant table as read at acceptance -/
  parts : List Nat
  /-- deadline tick (0: none), and the policy, deferral limit and quorum at acceptance, R273 and R274 -/
  deadline : Nat
  policy : Nat
  deferMax : Nat
  quorum : Nat
  /-- the source is ready and was read, R382: its bytes, whether some are poisoned -/
  ready : Bool
  src : List Byte
  srcBad : Bool
  /-- shards of which this rank has done its part -/
  sent : List Nat
  /-- fates that this rank records as an owner, by rank, and the ranks marked CARRIED -/
  fates : AMap (Nat × Nat)
  carried : List Nat
  /-- contributions received, by rank, and the headers of those not yet answered by a RECEIPT (R369) -/
  data : AMap (List Byte)
  owed : List Msg
  /-- running values received, by shard × 65536 + sending rank -/
  running : AMap (List F32)
  /-- this rank's own fate once final, and whether it carries a deferral, R276 -/
  own : Option (Nat × Nat)
  mine : Bool
  /-- owners whose RECEIPT has come, with the fate each recorded -/
  receipts : AMap (Nat × Nat)
  /-- shards or pieces written here -/
  written : List Nat
  folding : Bool
  /-- a piece that waits for a ring slot, R387: its bytes and whether they are poisoned -/
  slot : Option (List Byte × Bool)
  /-- running values that wait for the local unit, R378 -/
  link : Option ChainSet
  /-- something written was poisoned, and the first reason -/
  bad : Bool
  reason : Nat
  /-- tick at which each rank's data was complete here, R383 -/
  came : AMap Nat
  /-- shards whose running values came poisoned -/
  tainted : List Nat
  /-- as an owner: the shard's result has a block of scale 0xFF (R272), the tick at which it was complete (R277), and whether record
  and receipts are written (R385) -/
  nonfinite : Bool
  completeTick : Nat
  closed : Bool
  deriving DecidableEq, Repr

/-- A message refused with COLL_NOT_POSTED that is sent again, R390: the message as last sent, its engine, the ticks of
the first and last sending, whether it now stands refused. -/
structure Resend where
  msg : Msg
  engine : Nat
  first : Nat
  last : Nat
  refused : Bool
  deriving DecidableEq, Repr

/-- The collective engines: descriptors running by husk × 2³² + COLL_ID, DECISION messages that came before their
descriptor, deferrals by husk × 2³² + REDUCTION_ID (count and last STEP), messages to resend, the husk each engine served
last (R374). -/
structure CollSt where
  runs : AMap CollRun
  early : List Msg
  deferrals : AMap (Nat × Nat)
  resends : AMap Resend
  served : AMap Nat
  deriving DecidableEq, Repr

/-- A COPY being moved, R309: the pieces of 64 KiB sent, those received, whether its receiver acknowledged it, and the pieces whose
read or write in Tier 3 is in flight (R146). -/
structure CopySt where
  sent : List Nat
  got : List Nat
  acked : Bool
  moving : List Nat
  deriving DecidableEq, Repr

/-- A husk's turn beside its objects, R310 to R318. -/
structure TurnSt where
  /-- stage of R310; 8 when no turn runs, 9 when a reset has ended it and its teardown is due -/
  stage : Nat
  /-- the turn's identifier, this module's rank, the participants and both CRCs -/
  turnId : Nat
  rank : Nat
  parts : List Nat
  layoutCrc : Nat
  planCrc : Nat
  /-- the entries of the plan by index, those in which this rank sends or receives -/
  plan : List (Nat × Nat)
  prevPhase : Nat
  /-- tick at which the stage's time limit began -/
  since : Nat
  arrived : List Nat
  dones : List Nat
  doneAcks : List Nat
  donePosted : Bool
  copies : AMap CopySt
  moved : Nat
  total : Nat
  /-- sequences cancelled at the drain under CANCEL -/
  cancelled : List Nat
  /-- ARRIVE, DONE and ABORT messages that came before the turn started or was validated, R312 -/
  early : List Msg
  /-- ARRIVE, DONE and ABORT messages of this tick, R318 -/
  inTick : List Msg
  deriving DecidableEq, Repr

/-- What a write makes due in the tick after it: a cancel of a long operation (R425) with the path whose request it ends, an
object that is in force from then on (its key and value; R325), the start of a weight replacement (its husk, VERSION and LAYERS;
R257). -/
inductive DueAct where
  | cancelInstall (p : Path)
  | cancelRefresh (p : Path)
  | cancelTurn (p : Path) (husk : Nat)
  | cancelFirmware (p : Path)
  /-- at the end of its own tick: an acknowledgement (R453) -/
  | faultAck (p : Path) (v : Nat)
  | setObject (key value : Nat)
  | replaceStart (husk version layers : Nat)
  /-- the drain of a turn begins (R311) -/
  | turnDrain (husk turnId : Nat)
  /-- at the end of its own tick: the deadline of a reduction (R274); a tick's turn messages, a turn's commit (forced by the host), a
  turn's time limit (R318) -/
  | deadline (engine husk id : Nat)
  | turnMessages (husk : Nat)
  | turnCommit (husk : Nat) (forced : Bool)
  | turnLimit (husk stage : Nat)
  /-- at the end of its own tick: the units of a slice are stopped by force (R340) -/
  | forcedStop (slice : Nat)
  deriving DecidableEq, Repr

/-- A dictionary request that waits while the controller restarts, R474: 0 read, 1 write, 2 information. -/
structure OdHeld where
  kind : Nat
  path : Path
  req : OdReq
  value : Word
  data : List Byte
  origin : Option NetOrigin
  saved : Bool
  deriving DecidableEq, Repr

/-- An answer over MCTP (R436, R438): binding, message type, command, what it names, completion code, value. -/
structure MgmtAnswer where
  binding : Nat
  type : Nat
  command : Nat
  item : Nat
  completion : Nat
  value : Nat
  deriving DecidableEq, Repr

/-- A field-network request answered, R435: what it was, when it was answered and the reply stored. -/
structure NetSeen where
  origin : NetOrigin
  kind : Nat
  req : OdReq
  value : Word
  data : List Byte
  tick : Nat
  reply : Reply
  deriving DecidableEq, Repr

/-- The management ports: the I3C dynamic address (R437); the test port (R439): instruction (0 BYPASS, 1 IDCODE,
2 SAMPLE/PRELOAD, 3 EXTEST), its data register, the contacts sampled and the values preloaded; the header of the last
vendor-defined MCTP request (R436); answers sent, newest first; field-network requests answered, newest first. -/
structure MgmtSt where
  i3cDynamic : Option Nat
  ir : Nat
  dr : Nat
  sampled : Nat
  preload : Nat
  mctpRequest : Nat
  answers : List MgmtAnswer
  net : List NetSeen
  deriving DecidableEq, Repr

/-- A firmware bank, R440 and R443: valid (bootable), VERSION and SECURITY_VERSION of its image, its payload. -/
structure FwBank where
  valid : Bool
  version : Nat
  security : Nat
  data : List Byte
  deriving DecidableEq, Repr

/-- An update that runs, R443. Stages: 1 manifest being checked, 2 payload being written, 3 being read back; where its image
stands and what of it has been read for the stage (of an image in Tier 3); then what its manifest says. -/
structure FwUpdate where
  stage : Nat
  source : Nat
  read : Option (List Byte)
  version : Nat
  security : Nat
  length : Nat
  digest : Nat
  deriving DecidableEq, Repr

/-- The firmware flash and the fuses, R440 to R444: banks by number, the update, revocation bits, whether the pending bank
is to be booted. -/
structure FwSt where
  banks : AMap FwBank
  update : Option FwUpdate
  revoked : Nat
  booting : Bool
  deriving DecidableEq, Repr

end Sys2Proof.Machine
end

