-- ==== Sys2Proof/Machine/State.lean ====
section
/-! DEFINITION. The state of the block: the commands that wait, the addressed bytes, and the device. Plain data. -/
namespace Sys2Proof.Machine

/-- Why a step stops. No meaning of this model stops: every command of the table has an effect. -/
inductive Fault where
  /-- Raised by no meaning; the type may not be empty for the host's interface. Safe: nothing reaches it. -/
  | none
  deriving DecidableEq, Repr

/-- Why a command is refused. -/
inductive Refusal where
  /-- The command has no meaning in this model; raised by an arm of exec that names it. Safe: the model stops where
  the hardware goes on. -/
  | notModelled (mnemonic : String)
  deriving DecidableEq, Repr

/-- The device's registers, queues, buffers, modes and pins. -/
structure Dev where
  time : TimeSt
  /-- every scalar object of the dictionary that does not hold its default, by index × 256 + subindex -/
  od : AMap Word
  /-- saved values of RWS objects, R408 -/
  saved : AMap Word
  /-- STRING and DOMAIN contents by key, R407 -/
  blobs : AMap (List Byte)
  /-- HbmFrameOwner bytes that are not 0, by frame, R327 -/
  frames : AMap Nat
  windows : AMap Window
  replies : AMap Reply
  rings : AMap Ring
  faults : FaultSt
  resets : ResetSt
  msix : AMap Msix
  /-- functions (port × 32 + f) whose bus mastering is enabled, R432 -/
  busMaster : List Nat
  /-- MSI-X messages sent, newest first, R432 -/
  msixSent : List MsixMsg
  /-- PLDM events pending, newest first, R438 -/
  pldm : List PldmEvent
  pips : AMap Pip
  barriers : AMap Barrier
  engines : AMap Engine
  coh : CohSt
  t3 : AMap T3Access
  tlb : AMap CachedLeaf
  access : AMap AccessResult
  cycle : CycleSt
  power : PowerSt
  /-- serial of each husk's key pair (none: 0) and the number drawn so far, R330 -/
  keys : AMap Nat
  keysDrawn : Nat
  /-- numbers the free values used so far: the model's own field -/
  free : Nat
  /-- HBM lines (address ÷ 64) that fail correction, R143 -/
  badLines : List Nat
  /-- HBM lines whose cells have a lasting fault, by line number: no write clears them (R143) -/
  lastingLines : List Nat
  /-- host lines whose modified copies a PORT reset discarded: a read of one completes poisoned, R473 -/
  lostLines : List Nat
  /-- messages sent into the fabric, newest first, R360 -/
  outbox : List Msg
  fabric : FabricSt
  acorn : AcornSt
  prefetch : PrefetchSt
  pods : PodSt
  attn : AMap AttnRun
  seqs : SeqSt
  coll : CollSt
  turns : AMap TurnSt
  /-- the tick at whose end a requested snapshot is taken, R404 -/
  snapshot : Option Nat
  /-- dictionary requests that wait for the controller, in order, R474 -/
  odHeld : List OdHeld
  mgmt : MgmtSt
  firmware : FwSt
  /-- what takes effect at the next tick, in the order in which it was written (R425) -/
  due : List DueAct
  /-- physical addresses of the flags that collective engines set, latest first, each once (R86) -/
  flagSets : List Nat
  deriving DecidableEq, Repr

/-- The state: waiting commands first in, first out; addressed bytes with their poison and key tags; the device. -/
structure State where
  pending : List Instr
  store : Store
  dev : Dev
  deriving DecidableEq, Repr

/-- Time after reset (log entry 5). -/
def TimeSt.init : TimeSt := ⟨0, 0, 0, false, 0, 0, none, 6400, none, false, 6400, none⟩

/-- No fault recorded. -/
def FaultSt.init : FaultSt := ⟨.empty, .empty, .empty, .empty, 0⟩

/-- No reset in progress, both port resets released, rails up. -/
def ResetSt.init : ResetSt :=
  ⟨.empty, [], [], .empty, false, [false, false], ⟨0, 0, 0, [], false, none, none, none, false⟩⟩

/-- No cycle table. -/
def CycleSt.init : CycleSt := ⟨[], none, 0, false, false, .empty, [], .empty, .empty, .empty, .empty, 0, none⟩

/-- A link end that has never been up. -/
def LinkSt.init : LinkSt := ⟨0, 0, [], .empty, 0, .empty, [], .empty, false, none, none, [], .empty⟩

/-- No link up, nothing received. -/
def FabricSt.init : FabricSt :=
  ⟨.empty, [], [], .empty, [], .empty, .empty, .empty, .empty, .empty, .empty, [], .empty, .empty, .empty, none, 0⟩

/-- No installation. -/
def InstallSt.init : InstallSt := ⟨0, none, [], .empty, 0, 0, false, false, 0, .empty, [], .empty⟩

/-- No image installed. -/
def AcornSt.init : AcornSt :=
  { images := .empty, overlays := .empty, overlayPending := .empty, repair := [], repairPending := none, pinned := [], poison := [],
    cellErrs := .empty, rereads := .empty, flagged := [], refreshCancel := false, refreshStart := .empty, install := .init,
    queues := .empty, pulse := .empty, spares := .empty, programs := .empty, journal := [], journalCopy := [], started := [],
    remapped := [], scrubbed := [] }

/-- Full ceilings, no reading taken. -/
def PowerSt.init : PowerSt :=
  ⟨.empty, .empty, .empty, [], false, .empty, 2800, false, false, false, [], [], 0, [], .empty, [], [], 7200, .empty, .empty⟩

/-- Rails GOOD and module ON: the device after its first cold bring-up (log entry 5). -/
def odAtReset : AMap Word :=
  ⟨((oPowerState).key, 2#64) :: ((oPowerStage).key, 255#64) :: (List.range 15).map (fun r => ((oRailState r).key, 2#64))⟩

/-- Test port at IDCODE, no address taken, nothing answered. -/
def MgmtSt.init : MgmtSt := ⟨none, 1, 0x158A856B, 0, 0, 0, [], []⟩

/-- Bank A holds the firmware in service, bank B none (log entry 5). -/
def FwSt.init : FwSt := ⟨⟨[(0, ⟨true, 0, 0, []⟩)]⟩, none, 0, false⟩

/-- The device after reset. -/
def Dev.init : Dev :=
  { time := .init, od := odAtReset, saved := .empty, blobs := .empty, frames := .empty, windows := .empty,
    replies := .empty, rings := .empty, faults := .init, resets := .init, msix := .empty, busMaster := [], msixSent := [], pldm := [],
    pips := .empty, barriers := .empty, engines := .empty, coh := ⟨.empty, .empty⟩, t3 := .empty, tlb := .empty,
    access := .empty, cycle := .init, power := .init, keys := .empty, keysDrawn := 0, free := 0, badLines := [], lastingLines := [], lostLines := [],
    outbox := [], fabric := .init, acorn := .init, prefetch := ⟨.empty, .empty, [], .empty⟩,
    pods := ⟨[], 0, [], .empty, .empty, .empty, .empty, .empty, .empty, 0, .empty, .empty⟩, attn := .empty, seqs := ⟨.empty, [], .empty, 0, .empty, []⟩,
    coll := ⟨.empty, [], .empty, .empty, .empty⟩, turns := .empty, snapshot := none, odHeld := [], mgmt := .init, firmware := .init, due := [], flagSets := [] }

/-- The machine right after reset: nothing waits, memory lists nothing. -/
def State.reset : State := ⟨[], ⟨[], [], .empty⟩, Dev.init⟩

end Sys2Proof.Machine
end

