-- ==== Sys2Proof/Machine/Ops.lean ====
section
/-! DEFINITION. The named operations over the device and its memory: a command changes a `World`, a copy of the device
with a log of memory writes over the memory it started from; the log is flushed once, at the command's end. -/
namespace Sys2Proof.Machine

/-- A number as a field of `b` bits (at most 64) holds it: a free value where it does not fit (log entry 84). -/
def fit (b n : Nat) : Nat := if n < 2 ^ b then n else (Config.outOfField n).toNat % 2 ^ b

/-- What a command changes. -/
structure World where
  base : Store
  log : List MemOp
  dev : Dev
  deriving DecidableEq, Repr

/-- The state as a command finds it. -/
def State.world (s : State) : World := ⟨s.store, [], s.dev⟩

/-- The state after a command: the queue untouched, the log flushed. -/
def State.commit (s : State) (w : World) : State := ⟨s.pending, s.store.flush w.log, w.dev⟩

/-- Run a command's effect. -/
def State.run (s : State) (f : World → World) : State := s.commit (f s.world)

/-- The next state of a command whose effect is `f`. -/
def State.done (s : State) (f : World → World) : Host.Outcome State Fault Refusal := .next (s.run f)

namespace World

/-- The present tick. -/
def now (w : World) : Nat := w.dev.time.tick

/-- The value of a scalar object. -/
def rd (w : World) (k : OKey) : Nat :=
  match w.dev.od.get? k.key with
  | some v => v.toNat
  | none => k.dflt

/-- Set a scalar object. -/
def wr (w : World) (k : OKey) (v : Nat) : World :=
  { w with dev := { w.dev with od := w.dev.od.put k.key (BitVec.ofNat 64 v) } }

/-- Add to a 64-bit counter. -/
def inc (w : World) (k : OKey) (n : Nat) : World := w.wr k (fit 64 (w.rd k + n))
/-- Add to a 32-bit counter. -/
def inc32 (w : World) (k : OKey) (n : Nat) : World := w.wr k (fit 32 (w.rd k + n))

/-- Set a signed object (sign-extended to 64 bits). -/
def wrInt (w : World) (k : OKey) (v : Int) : World :=
  { w with dev := { w.dev with od := w.dev.od.put k.key (BitVec.ofInt 64 v) } }

/-- A number for a free value, never used before. -/
def fresh (w : World) : Nat × World := (w.dev.free, { w with dev := { w.dev with free := w.dev.free + 1 } })

/-- Note what a command makes due later: at the end of this tick, or in the next one. -/
def dueLater (w : World) (a : DueAct) : World := if w.dev.due.elem a then w else { w with dev := { w.dev with due := w.dev.due ++ [a] } }

/-- Apply `f` when the condition holds. -/
def when (w : World) (c : Bool) (f : World → World) : World := if c then f w else w

/-- Apply `f` for every element of a list, in order. -/
def each {α : Type} (w : World) (l : List α) (f : World → α → World) : World := l.foldl f w

end World

/-- A reason code that the spec does not state, by the number of a free value: one of the subsystems of R9, its low byte 0 only
in 0x0000 (log entry 15). -/
def openReason (n : Nat) : Nat :=
  let v := (Config.freeWord n).toNat
  if v % 256 = 0 then 0 else v / 256 % 12 * 256 + v % 256

/-- Bits `lo` to `lo + n − 1` of a number. -/
def fld (x lo n : Nat) : Nat := (x >>> lo) % 2 ^ n

/-- Is bit `i` set? -/
def bitAt (x i : Nat) : Bool := (x >>> i) % 2 == 1

/-- Is bit field `lo`, `n` wide, zero (a reserved field that must be 0)? -/
def rsvd (x lo n : Nat) : Bool := fld x lo n == 0

/-- Place a value in a field: bits `lo` to `lo + n − 1` replaced. -/
def setFld (x lo n v : Nat) : Nat :=
  let hi := (x >>> (lo + n)) <<< (lo + n)
  hi + ((v % 2 ^ n) <<< lo) + x % 2 ^ lo

/-- Numbers from 0 below n whose bit is set. -/
def bitsOf (mask n : Nat) : List Nat := (List.range n).filter (fun i => bitAt mask i)

/-! ### Identifiers, R17 and R18 -/

/-- Master identifier: type and index, R18. -/
def masterId (ty ix : Nat) : Nat := ty * 4096 + ix
/-- Unit type of a master, R18. -/
def masterType (m : Nat) : Nat := m / 4096 % 16
/-- Index of a master, R18. -/
def masterIndex (m : Nat) : Nat := m % 4096

/-- Master identifier of a writer's path, R411. -/
def pathMaster : Path → Nat
  | .fieldNet => 0
  | .mctp => 0
  | .pf p => masterId 0xB (p.val * 32)
  | .vf h p => masterId 0xB (p.val * 32 + h.val + 1)

/-- Fault source of the unit a master names, R446: the source of the unit that detected the error. -/
def unitSource (m : Nat) : Nat :=
  let i := masterIndex m
  match masterType m with
  | 0x1 => 0x100 + i / 8 * 8
  | 0x2 => 0x100 + i / 256 * 8 + 1
  | 0x3 => 0x180 + i / 256 * 4
  | 0x4 => 0x100 + i * 8 + 2
  | 0x5 => 0x100 + i * 8 + 3
  | 0x6 => 0x100 + i * 8 + 4
  | 0x7 => 0x100 + i * 8 + 5
  | 0xA => 0x1C0 + i
  | 0xB => 0x1F0 + i / 32
  | 0xC => 0x1D0 + i
  | 0xD => 0x180 + i * 4 + 1
  | 0xE => 0x1A0 + i
  | 0x0 => 0x001
  | _ => 0x100 + i * 8 + 7

/-- The husk source of R446. -/
def huskSource (h : Nat) : Nat := 0x1B0 + h

/-- The switched domain of the unit a master names, R526. -/
def unitDomain (m : Nat) : Option Nat :=
  let i := masterIndex m
  match masterType m with
  | 0x1 => some (i / 8)
  | 0x2 => some (i / 256)
  | 0x3 => some (16 + i / 256)
  | 0xD => some (16 + i)
  | 0xB => some (30 + i / 32)
  | 0xC => some (24 + i / 4)
  | 0x0 => none
  | 0xA => none
  | 0xE => none
  | _ => some i

/-! ### Husks and slices, R325 -/

/-- HuskState values. -/
def hsDisabled : Nat := 0
def hsEnabling : Nat := 1
def hsActive : Nat := 2
def hsResetting : Nat := 3
def hsDisabling : Nat := 4

/-- All husk numbers. -/
def allHusks : List Nat := List.range 16
/-- All slice numbers. -/
def allSlices : List Nat := List.range 16

namespace World

/-- HuskState of h. -/
def huskState (w : World) (h : Nat) : Nat := w.rd (oHuskState h)
/-- Is husk h ACTIVE? -/
def active (w : World) (h : Nat) : Bool := w.huskState h == hsActive

/-- The slices a husk owns, ascending. -/
def slicesOf (w : World) (h : Nat) : List Nat := bitsOf (w.rd (oHuskSlices h)) 16

/-- The husk that owns a slice: one not DISABLED whose HuskSlices names it (R325, R326). -/
def ownerOf (w : World) (s : Nat) : Option Nat :=
  allHusks.find? (fun h => w.huskState h != hsDisabled && bitAt (w.rd (oHuskSlices h)) s)

/-- The husk whose pips and engines run on a slice now: SliceRunning of R335. -/
def running (w : World) (s : Nat) : Nat := w.rd (oSliceRunning s)

/-- May the husk run on the slice, as owner or as guest (R325, R334)? -/
def mayRun (w : World) (h s : Nat) : Bool :=
  bitAt (w.rd (oHuskSlices h)) s || bitAt (w.rd (oHuskGuestSlices h)) s

/-- Is the switched domain powered (R482)? -/
def powered (w : World) (d : Nat) : Bool := bitAt (w.rd oDomainPowered) d

/-- The points in force are selected again at the next window boundary, R487. -/
def selectSoon (w : World) : World := { w with dev := { w.dev with power := { w.dev.power with selectDue := true } } }
/-- A husk's phase changes, R486 and R487. -/
def setPhase (w : World) (h v : Nat) : World := (w.wr (oHuskPhase h) v).selectSoon

/-! ### Addressed bytes -/

/-- Where the byte of a physical address stands: in Tier 3, in the memory of port p's host, whose address 0 stands at
(p + 1) × 2^66, at the host physical address that R144 gives the window's offset; elsewhere at the address itself. -/
def cell (w : World) (a : Nat) : Nat :=
  if a < 0x100000000000 ∨ 0x300000000000 ≤ a then a
  else
    let p := a / 0x100000000000 - 1
    (p + 1) * 2 ^ 66 + w.rd (oTier3HostBase p) + a % 0x100000000000

/-- The byte at a physical address. -/
def byte (w : World) (a : Nat) : Byte := logByte w.base (w.cell a) w.log
/-- Is the granule of the address poisoned, R524? -/
def poisoned (w : World) (a : Nat) : Bool := logPoison w.base (w.cell a / 32) w.log
/-- The key serial of the line of the address. -/
def keyOf (w : World) (a : Nat) : Nat := logTag w.base (w.cell a / 64) w.log

/-- Add an entry to the write log. -/
def push (w : World) (op : MemOp) : World := { w with log := op :: w.log }

/-- `n` bytes from `a` on. -/
def bytes (w : World) (a n : Nat) : List Byte := (List.range n).map (fun i => w.byte (a + i))

/-- A number stored little-endian in `n` bytes at `a`. -/
def num (w : World) (a n : Nat) : Nat := leNat (w.bytes a n)

/-- Fill a range with zeros and clear its poison. -/
def zeroRange (w : World) (lo len : Nat) : World :=
  let keep := w.dev.badLines.filter (fun l => !(decide (lo ≤ l * 64) && decide (l * 64 + 64 ≤ lo + len)))
  { w with log := .zero lo len :: w.log, dev := { w.dev with badLines := keep } }

end World

/-! ### The physical map, R36 to R40 -/

/-- What lies at a physical address, R36. -/
inductive Region where
  | scratch (slice : Nat)
  | l2 (slice : Nat)
  | ctrl
  | hbm
  | acorn (stack : Nat)
  | tier3 (port : Nat)
  | reserved
  deriving DecidableEq, Repr

/-- R36, with the slice window's layout. -/
def regionOf (a : Nat) : Region :=
  if a < 0x40000000 then
    if a % 0x4000000 < 0x2000000 then .scratch (a / 0x4000000)
    else if a % 0x4000000 < 0x3000000 then .l2 (a / 0x4000000)
    else .reserved
  else if a < 0x80000000 then .ctrl
  else if a < 0x10000000000 then .reserved
  else if a < 0x16000000000 then .hbm
  else if a < 0x20000000000 then .reserved
  else if a < 0x2C000000000 then .acorn ((a - 0x20000000000) / 0x1800000000)
  else if a < 0x100000000000 then .reserved
  else if a < 0x200000000000 then .tier3 0
  else if a < 0x300000000000 then .tier3 1
  else .reserved

/-- Offset in a Tier 3 window. -/
def tier3Offset (a : Nat) : Nat := a % 0x100000000000

/-- The HBM stack that holds an address, R38. -/
def hbmStack (a : Nat) : Nat := (if a < 0x13000000000 then 0 else 4) + fld a 12 2

/-- The module reserve of R141. -/
def inReserve (a : Nat) : Bool :=
  (decide (0x12F00000000 ≤ a) && decide (a < 0x13000000000)) || (decide (0x15F00000000 ≤ a) && decide (a < 0x16000000000))

/-- Frame number of an HBM address, R327. -/
def frameOf (a : Nat) : Nat := (a - 0x10000000000) / 0x200000

/-- The frames of the module reserve, R327. -/
def reserveFrame (f : Nat) : Bool :=
  (decide (96256 ≤ f) && decide (f < 98304)) || (decide (194560 ≤ f) && decide (f < 196608))

namespace World

/-- Does the accepted pod region touch frame f (R187, R327)? -/
def podFrame (w : World) (f : Nat) : Bool :=
  let b := w.rd oPodRegionBase
  let n := w.rd oPodRegionPods
  let lo := 0x10000000000 + f * 0x200000
  n != 0 && b != 0 && decide (b < lo + 0x200000) && decide (lo < b + n * 0x10000)

/-- The byte of HbmFrameOwner for a frame, R327. -/
def frameOwner (w : World) (f : Nat) : Nat :=
  if reserveFrame f then 0xFF else if w.podFrame f then 0xFE else w.dev.frames.getD f 0

/-- Is a Tier 3 address offered by its port (R40, R144)? -/
def tier3Offered (w : World) (a : Nat) : Bool :=
  match regionOf a with
  | .tier3 p => decide (tier3Offset a < w.rd (oTier3Offered p))
  | _ => false

/-- Can port p carry a Tier 3 access (R146, R428): trained in CXL mode, not in reset, powered? -/
def portCarries (w : World) (p : Nat) : Bool :=
  w.rd (oHostCxlActive p) == 1 && !(w.dev.resets.seqs.has (17 + p)) && !(w.dev.resets.perst.getD p false)
    && w.powered (30 + p)

end World

/-- Bytes read, with poison by byte and the origin reasons met, in order (R524). -/
structure Rd where
  data : List Byte
  bad : List Bool
  origins : List Nat
  deriving DecidableEq, Repr

/-- Is any byte poisoned? -/
def Rd.anyBad (r : Rd) : Bool := r.bad.any id

/-- The reason a command gives for the poison it met, R524: the first origin reason, else POISON_CONSUMED. -/
def Rd.reason (r : Rd) : Nat := if r.anyBad then (r.origins.head?).getD 0x0010 else 0

/-- The data as a number. -/
def Rd.nat (r : Rd) : Nat := leNat r.data

/-- Two reads one after the other. -/
def Rd.append (a b : Rd) : Rd := ⟨a.data ++ b.data, a.bad ++ b.bad, a.origins ++ b.origins⟩

/-- An all-poisoned read of `n` bytes at `a`, R40 and R143. -/
def Rd.poison (a n : Nat) (origins : List Nat) : Rd :=
  ⟨(List.range n).map (fun i => Config.poisonByte (a + i)), List.replicate n true, origins⟩

namespace World

/-- Does HBM line l fail correction, R143: by the bits that it holds, or by a lasting fault of its cells? -/
def lineBad (w : World) (l : Nat) : Bool := w.dev.badLines.elem l || w.dev.lastingLines.elem l

/-- The byte at `a` as an access under key `key` sees it, R331 and R332: of a line written under that key, the byte
written; of any other, what the access's decryption makes of the bytes that stand in HBM. -/
def keyedByte (w : World) (key a : Nat) : Byte :=
  let k := w.keyOf a
  if k = key then w.byte a
  else (openLine key (a / 64) (sealLine k (a / 64) (w.bytes (a / 64 * 64) 64))).getD (a % 64) 0

/-- Read bytes that exist (scratch, HBM, acorn cells, host memory): poison by granule, uncorrectable HBM lines
poisoned with HBM_UNCORRECTABLE (R143, R524). -/
def readStored (w : World) (a n key : Nat) : Rd :=
  let hbm := regionOf a == .hbm
  let idx := List.range n
  let lines := (List.range ((a + n + 63) / 64 - a / 64)).map (fun i => a / 64 + i)
  let badL := if hbm then lines.filter (fun l => w.lineBad l) else []
  ⟨idx.map (fun i => w.keyedByte key (a + i)),
   idx.map (fun i => w.poisoned (a + i) || badL.elem ((a + i) / 64)),
   badL.map (fun _ => 0x020A)⟩

/-- Bring the lines of a range under a key before part of them is written: the bytes not written become what a read
under that key gives (R331, R332). -/
def rekey (w : World) (a n key : Nat) : World :=
  w.each ((List.range ((a + n + 63) / 64 - a / 64)).map (fun i => a / 64 + i)) (fun w l =>
    if w.keyOf (l * 64) = key then w
    else (w.push (.bytes (w.cell (l * 64)) ((List.range 64).map (fun i => w.keyedByte key (l * 64 + i))))).push (.tag (w.cell (l * 64) / 64) key))

/-- Set the poison of the granules a write touches, R79: a write covering a whole granule sets or clears it from the
data; one covering part leaves a poisoned granule poisoned and poisons it when its own data is poisoned. -/
def markWritten (w : World) (a : Nat) (bad : List Bool) : World :=
  let n := bad.length
  w.each ((List.range ((a + n + 31) / 32 - a / 32)).map (fun i => a / 32 + i)) (fun w g =>
    let lo := g * 32
    let mine := ((bad.drop (lo - a)).take (lo + 32 - Nat.max a lo)).any id
    if a ≤ lo ∧ lo + 32 ≤ a + n then w.push (.mark (w.cell lo / 32) mine)
    else if mine then w.push (.mark (w.cell lo / 32) true) else w)

/-- Write bytes that exist, with their poison, under a key (0: not encrypted). Whole HBM lines get new check bits. -/
def writeStored (w : World) (a : Nat) (data : List Byte) (bad : List Bool) (key : Nat) : World :=
  let n := data.length
  if n = 0 then w
  else
    let w1 := if regionOf a == .hbm then w.rekey a n key else w
    let w2 := (w1.push (.bytes (w1.cell a) data)).markWritten a bad
    let keep := w2.dev.badLines.filter (fun l => !(decide (a ≤ l * 64) && decide (l * 64 + 64 ≤ a + n)))
    { w2 with dev := { w2.dev with badLines := keep } }

/-- Write clean bytes. -/
def store (w : World) (a : Nat) (data : List Byte) : World :=
  w.writeStored a data (List.replicate data.length false) 0

/-- Poison a range: bytes unspecified, every granule touched marked (R79, R146, R154). -/
def poisonRange (w : World) (a n key : Nat) : World :=
  w.writeStored a ((List.range n).map (fun i => Config.poisonByte (a + i))) (List.replicate n true) key

end World

/-! ### Status words of long operations, R419 to R423 -/

/-- A status word from its fields, R419. -/
def statusWord (state op progress partials reason seq : Nat) : Nat :=
  seq + reason * 2 ^ 16 + partials * 2 ^ 32 + progress * 2 ^ 38 + op * 2 ^ 48 + state * 2 ^ 60

/-- STATE of a status word. -/
def stState (v : Nat) : Nat := fld v 60 4
/-- Has the operation of a status word ended, or never started (R425)? -/
def stIdleOrTerminal (v : Nat) : Bool := stState v == 0 || decide (4 ≤ stState v)

namespace World

/-- An accepted start of a long operation, R421. `ix j` is the object of partial record j, the word at 0. -/
def startOp (w : World) (ix : Nat → OKey) (op state : Nat) : World :=
  let seq := (fld (w.rd (ix 0)) 0 16 + 1) % 65536
  (w.each (List.range 63) (fun w j => if w.rd (ix (j + 1)) = 0 then w else w.wr (ix (j + 1)) 0)).wr (ix 0)
    (statusWord state op 0 0 0 seq)

/-- Change STATE and REASON of a long operation's word. -/
def setOpState (w : World) (k : OKey) (state reason : Nat) : World :=
  w.wr k (setFld (setFld (w.rd k) 60 4 state) 16 16 reason)

/-- Set PROGRESS and PARTIALS, which never decrease (R422). -/
def setOpProgress (w : World) (k : OKey) (progress partials : Nat) : World :=
  let v := w.rd k
  w.wr k (setFld (setFld v 38 10 (Nat.max (fld v 38 10) progress)) 32 6 (Nat.max (fld v 32 6) partials))

/-- A reset ends an operation that has not ended: STATE ABANDONED with the reset's reason (R423). -/
def abandonOp (w : World) (k : OKey) (reason : Nat) : World :=
  if stIdleOrTerminal (w.rd k) then w else w.setOpState k 7 reason

end World

end Sys2Proof.Machine
end

