-- ==== Sys2Proof/Machine/Fabric0.lean ====
section
/-! DEFINITION. The fabric below its commands (R348 to R361): node addresses, routes and detours, flits, credits, and the
sending of messages. -/
namespace Sys2Proof.Machine

/-! ### Node addresses, R353 -/

def nodeX (n : Nat) : Nat := fld n 11 5
def nodeY (n : Nat) : Nat := fld n 6 5
def nodeZ (n : Nat) : Nat := fld n 0 6
/-- A node address from its coordinates. -/
def nodeOf (x y z : Nat) : Nat := x * 2048 + y * 64 + z
/-- Extent of a dimension (0 X, 1 Y, 2 Z) in FabricDims. -/
def dimN (dims : Nat) (i : Nat) : Nat := match i with
  | 0 => fld dims 16 6
  | 1 => fld dims 8 6
  | _ => fld dims 0 6
/-- Does the dimension wrap? -/
def dimWrap (dims : Nat) (i : Nat) : Bool := bitAt dims (26 - i)
/-- A coordinate of a node. -/
def coord (n : Nat) (i : Nat) : Nat := match i with
  | 0 => nodeX n
  | 1 => nodeY n
  | _ => nodeZ n
/-- Is a node address valid in an installation? -/
def nodeValid (dims n : Nat) : Bool := (List.range 3).all (fun i => decide (coord n i < dimN dims i))

/-- The node that a direction leads to, when there is one (R353). -/
def neighbour (dims n d : Nat) : Option Nat :=
  let i := d / 2
  let c := coord n i
  let m := dimN dims i
  let c' := if d % 2 = 0 then (if c + 1 < m then some (c + 1) else if dimWrap dims i then some 0 else none)
    else (if 0 < c then some (c - 1) else if dimWrap dims i then some (m - 1) else none)
  c'.map (fun v => nodeOf (if i = 0 then v else nodeX n) (if i = 1 then v else nodeY n) (if i = 2 then v else nodeZ n))

/-- The direction in which a message moves toward a target in dimension i, where the coordinates differ, R354. -/
def dirIn (dims cur dest i : Nat) : Option Nat :=
  let n := dimN dims i
  let c := coord cur i
  let t := coord dest i
  let positive := if dimWrap dims i then decide (2 * ((t + n - c) % n) ≤ n) else decide (c < t)
  if c = t then none else some (2 * i + (if positive then 0 else 1))

/-- The directions that a message still has to take, in dimension order. -/
def onwardDirs (dims cur dest : Nat) : List Nat := (List.range 3).filterMap (dirIn dims cur dest)

/-- The direction in which a message moves on, R354: in dimension order. A detoured message does not return to the row it
left (R358): it does not go back through the port `p` by which it came, and it goes on along the dimension in which it came
where dimension order would only undo the detour's one hop (log entry 86). -/
def onwardDir (dims cur dest cls : Nat) (p : Option Nat) : Option Nat :=
  let ds := onwardDirs dims cur dest
  match p, ds.filter (fun d => some d != p) with
  | some q, d :: t =>
    if cls < 2 then ds.head?
    else if d / 2 ≠ q / 2 && (neighbour dims cur d).any (fun m => coord m (d / 2) == coord dest (d / 2)) then
      some (((d :: t).find? (fun e => e / 2 == q / 2)).getD d)
    else some d
  | _, _ => ds.head?

/-- Does leaving a node in a direction cross a wrap link (R355)? -/
def crossesWrap (dims n d : Nat) : Bool :=
  if d % 2 = 0 then coord n (d / 2) + 1 == dimN dims (d / 2) else coord n (d / 2) == 0

/-- The perpendicular directions in the order of R358. -/
def perpendicular (d : Nat) : List Nat :=
  let a := (d / 2 + 1) % 3
  let b := (d / 2 + 2) % 3
  [2 * a, 2 * a + 1, 2 * b, 2 * b + 1]

/-! ### Headers, R360 -/

/-- The 256-bit header of a message. -/
def headerOf (m : Msg) : Nat :=
  m.reason.toNat * 2 ^ 32 + m.kind.toNat * 2 ^ 48 + m.dstHusk.toNat * 2 ^ 56 + m.srcHusk.toNat * 2 ^ 60
    + m.srcNode.toNat * 2 ^ 64 + m.srcEpoch.toNat * 2 ^ 80 + m.dstEpoch.toNat * 2 ^ 96 + m.addr.toNat * 2 ^ 112
    + m.payload.length * 2 ^ 192 + m.seq.toNat * 2 ^ 224

/-- The message that a header and its payload make. -/
def msgOf (dest vc hdr : Nat) (payload : List Byte) : Msg :=
  { dest := BitVec.ofNat 16 dest, vc := BitVec.ofNat 3 vc, seq := BitVec.ofNat 32 (fld hdr 224 32),
    addr := BitVec.ofNat 48 (fld hdr 112 48), dstEpoch := BitVec.ofNat 16 (fld hdr 96 16),
    srcEpoch := BitVec.ofNat 16 (fld hdr 80 16), srcNode := BitVec.ofNat 16 (fld hdr 64 16),
    srcHusk := BitVec.ofNat 4 (fld hdr 60 4), dstHusk := BitVec.ofNat 4 (fld hdr 56 4),
    kind := BitVec.ofNat 8 (fld hdr 48 8), reason := BitVec.ofNat 16 (fld hdr 32 16), poisoned := false, payload := payload }

/-- What names a message on its way: its header without OFFSET and flags, its channel and its destination. -/
def msgKey (dest vc hdr : Nat) : Nat := ((setFld hdr 160 32 0) / 4 * 8 + vc) * 65536 + dest

/-- The flits of a message's data from byte `off` on; `first` says whether the next is its HEAD. -/
def dataFlits : Nat → Nat → Nat → Nat → Nat → Bool → List Byte → List Flit
  | 0, _, _, _, _, _, _ => []
  | f + 1, dest, vc, hdr, off, first, data =>
    let cap := if first then 224 else 256
    let last := decide (data.length ≤ cap)
    let ty := if first then (if last then 4 else 1) else (if last then 3 else 2)
    ⟨dest, vc, 0, ty, hdr, off, data.take cap⟩
      :: (if last then [] else dataFlits f dest vc hdr (off + cap) false (data.drop cap))

/-- The flits of a message, R360. -/
def flitsOf (m : Msg) : List Flit :=
  dataFlits (m.payload.length / 224 + 2) m.dest.toNat m.vc.toNat (headerOf m) 0 true m.payload

/-- Queue of a flit: VC × 4 + CLASS, R351. -/
def Flit.queue (f : Flit) : Nat := f.vc * 4 + f.cls
/-- Is the flit the first of its message? -/
def Flit.isHead (f : Flit) : Bool := f.ty == 1 || f.ty == 4
/-- Is it the last? -/
def Flit.isLast (f : Flit) : Bool := f.ty == 3 || f.ty == 4 || f.ty == 5

/-- The guaranteed credits of a queue, R351. -/
def LinkSt.gAvail (l : LinkSt) (q : Nat) : Nat := if l.up then l.g.getD q 8 else 0
/-- TX_AVAIL: every guaranteed counter and the shared counter. -/
def LinkSt.txAvail (l : LinkSt) : Nat :=
  if l.up then ((List.range 32).map l.gAvail).foldl (· + ·) 0 + l.shared else 0
/-- TX_OUT over the 32 queues. -/
def LinkSt.txOut (l : LinkSt) : Nat := l.out.vals.foldl (· + ·) 0
/-- A credit of a queue used, R351. -/
def LinkSt.useCredit (l : LinkSt) (q : Nat) : LinkSt :=
  let o := l.out.put q (l.out.getD q 0 + 1)
  if 0 < l.gAvail q then { l with g := l.g.put q (l.gAvail q - 1), out := o }
  else { l with shared := l.shared - 1, out := o }
/-- Credits of a queue returned, R351. -/
def LinkSt.giveCredit (l : LinkSt) (q : Nat) : Nat → LinkSt
  | 0 => l
  | n + 1 =>
    if l.out.getD q 0 = 0 then l
    else
      let o := l.out.put q (l.out.getD q 0 - 1)
      LinkSt.giveCredit (if l.gAvail q < 8 then { l with g := l.g.put q (l.gAvail q + 1), out := o }
        else { l with shared := l.shared + 1, out := o }) q n

/-- Where a HEAD goes. -/
inductive Hop where
  | link (k cls : Nat)
  | unreachable
  deriving DecidableEq, Repr

namespace World

/-- Change the fabric. -/
def upFabric (w : World) (f : FabricSt → FabricSt) : World := { w with dev := { w.dev with fabric := f w.dev.fabric } }
/-- A link end. -/
def link (w : World) (k : Nat) : LinkSt := w.dev.fabric.links.getD k LinkSt.init

/-- Set a link end; the credit ledger of R399 shows it. -/
def setLink (w : World) (k : Nat) (l : LinkSt) : World :=
  let w1 := w.upFabric (fun f => { f with links := f.links.put k l })
  let tx := l.txAvail
  let out := l.txOut
  ((((w1.wr (oLedgerLink k 1) (tx + out)).wr (oLedgerLink k 3) tx).wr (oLedgerLink k 4) out).wr (oLedgerLink k 7)
    (1024 - l.held.length)).wr (oLedgerLink k 8) l.held.length

/-- This module's node address and extent. -/
def self (w : World) : Nat := w.rd oFabricNodeAddress
/-- FabricDims. -/
def dims (w : World) : Nat := w.rd oFabricDims

/-- The ACTIVE links of a direction, ascending. -/
def activeLinks (w : World) (d : Nat) : List Nat :=
  ((List.range 4).map (fun l => d * 4 + l)).filter (fun k => w.rd (oLinkState k) == 3)

/-- Does a link carry frames: ACTIVE, or draining and forwarding what its ports hold (R370)? -/
def linkOpen (w : World) (k : Nat) : Bool := w.rd (oLinkState k) == 3 || w.rd (oLinkState k) == 6
/-- The links of a direction that carry frames, ascending. -/
def openLinks (w : World) (d : Nat) : List Nat := ((List.range 4).map (fun l => d * 4 + l)).filter w.linkOpen

/-- The link of a direction that a message takes, R354. -/
def linkIn (w : World) (d src dest vc : Nat) : Option Nat :=
  let ls := w.openLinks d
  ls[((src * 0x9E3779B9 + dest + vc) >>> 16) % ls.length]?

/-- The detour around a down direction, R358. -/
def detour (w : World) (d : Nat) : Option Nat :=
  (perpendicular d).find? (fun p => !(w.openLinks p).isEmpty && (match neighbour w.dims w.self p with
    | some n => !bitAt (w.dev.fabric.nbrDown.getD n 0) d
    | none => false))

/-- The output and class of a HEAD at this node, R354, R355 and R358; `port` is the direction by which it came. -/
def hop (w : World) (src dest vc cls : Nat) (port : Option Nat) : Hop :=
  match onwardDir w.dims w.self dest cls port with
  | none => .unreachable
  | some d =>
    let go (d cls : Nat) : Hop := match w.linkIn d src dest vc with
      | some k =>
        let c := if port.map (· / 2) = some (d / 2) then cls else cls / 2 * 2
        .link k (if crossesWrap w.dims w.self d then c / 2 * 2 + 1 else c)
      | none => .unreachable
    if !(w.openLinks d).isEmpty then go d cls
    else if 2 ≤ cls then .unreachable
    else match w.detour d with
      | some p => go p 2
      | none => .unreachable

/-- May a direction carry frames now: L0 or L0h, and between them (R362, R363)? -/
def dirCarries (w : World) (d : Nat) : Bool :=
  decide (w.rd (oFabricDirState d) < 2) || (w.rd (oFabricDirState d) == 4 && w.dev.fabric.leaving.getD d 3 == 1)

/-- A direction starts the transition to a state of higher power, R363. -/
def dirRaise (w : World) (d to' : Nat) : World :=
  (w.upFabric (fun f => { f with target := f.target.put d to', leaving := f.leaving.put d (w.rd (oFabricDirState d)) })).wr (oFabricDirState d) 4

/-- Send a flit on a link when a credit, retry-buffer room and the direction allow, R350, R351 and R362. -/
def sendOn (w : World) (k : Nat) (f : Flit) : Option World :=
  let l := w.link k
  if l.up && w.linkOpen k && w.dirCarries (k / 4) && decide (l.retry.length < 1024) && (decide (0 < l.gAvail f.queue) || decide (0 < l.shared)) then
    some (w.setLink k { l.useCredit f.queue with tx := (l.tx + 1) % 4096, retry := l.retry ++ [(l.tx, f)] })
  else none

/-- A message number never used before on its path, R360: between nodes on VC 0 and VC 7, between husks elsewhere. -/
def newSeq (w : World) (dest sh dh vc : Nat) : Nat × World :=
  let key := (if vc = 0 ∨ vc = 7 then dest * 256 else (dest * 16 + sh) * 16 + dh) * 8 + vc
  let n := w.dev.fabric.seqs.getD key 0
  (n, w.upFabric (fun f => { f with seqs := f.seqs.put key ((n + 1) % 2 ^ 32) }))

/-- A message handed to the ports: to this module itself it is received at once; otherwise its flits wait to be sent. -/
def post (w : World) (m : Msg) : World :=
  let w1 := { w with dev := { w.dev with outbox := m :: w.dev.outbox } }
  if m.dest.toNat = w.self then w1.upFabric (fun f => { f with inbox := m :: f.inbox })
  else w1.upFabric (fun f => { f with waiting := f.waiting ++ flitsOf m })

/-- The epoch of a husk of another node, as this module knows it (R367); of this module's own husk, as it is. -/
def knownEpoch (w : World) (node h : Nat) : Nat :=
  if node = w.self then w.rd (oFabricHuskEpoch h) else w.dev.fabric.epochs.getD (node * 16 + h) 0

/-- A message of this module, R360: module epochs on VC 0 and VC 7 (the destination's unchecked), husk epochs elsewhere. -/
def message (w : World) (dest vc sh dh kind addr : Nat) (reason : Nat) (payload : List Byte) : Msg × World :=
  let (n, w1) := w.newSeq dest sh dh vc
  let modV := vc == 0 || vc == 7
  ({ dest := BitVec.ofNat 16 dest, vc := BitVec.ofNat 3 vc, seq := BitVec.ofNat 32 n, addr := BitVec.ofNat 48 addr,
     dstEpoch := if modV then 0xFFFF else BitVec.ofNat 16 (w.knownEpoch dest dh),
     srcEpoch := BitVec.ofNat 16 (if modV then w.rd oFabricModuleEpoch else w.rd (oFabricHuskEpoch sh)),
     srcNode := BitVec.ofNat 16 w.self, srcHusk := BitVec.ofNat 4 sh, dstHusk := BitVec.ofNat 4 dh,
     kind := BitVec.ofNat 8 kind, reason := BitVec.ofNat 16 reason, poisoned := false, payload := payload }, w1)

/-- Post a NACK, R361 and R368: the refused message's MSG_SEQ in ADDR[31:0]. -/
def postNack (w : World) (m : Msg) (reason : Nat) : World :=
  let (n, w1) := w.message m.srcNode.toNat 0 m.dstHusk.toNat m.srcHusk.toNat 0x41 m.seq.toNat reason []
  w1.post n

/-- The flits in which a message goes on from a flit whose link went DOWN, R364 step 2: a continuation's HEAD, with what does
not fit beside its header. -/
def continueFrom (f : Flit) : List Flit :=
  let fs := dataFlits 3 f.dest f.vc (setFld (setFld f.hdr 160 32 f.off) 0 1 1) f.off true f.data
  if f.isLast then fs else fs.map (fun g => if g.ty = 3 then { g with ty := 2 } else if g.ty = 4 then { g with ty := 1 } else g)

/-- What becomes of one flit at this node: sent, ended, or (none) it must wait. A HEAD chooses its link, the flits after
it follow, as a continuation where their link has gone DOWN; a HEAD with no way ends its message here with
ROUTE_UNREACHABLE (R354, R358, R364). -/
def forward (w : World) (f : Flit) (port : Option Nat) : Option World :=
  let key := msgKey f.dest f.vc f.hdr
  let drop (w : World) : World := w.upFabric (fun s => { s with paths := s.paths.filter (fun p => p.1 != key) })
  if f.isHead then
    match w.hop (fld f.hdr 64 16) f.dest f.vc f.cls port with
    | .unreachable =>
      let w1 := ((drop w).inc oFabricUnroutable 1).inc oFabricTruncated 1
      some (if fld f.hdr 48 8 = 0x41 then w1 else w1.postNack (msgOf f.dest f.vc f.hdr []) 0x0305)
    | .link k cls =>
      -- no other message of the queue stands open on the link (R354)
      if w.dev.fabric.paths.any (fun p => p.1 != key && p.2.1 == k && p.2.2 == cls && p.1 / 65536 % 8 == f.vc) then none
      else match w.sendOn k { f with cls := cls } with
      | none => none
      | some w1 => some (if f.isLast then drop w1
          else (drop w1).upFabric (fun s => { s with paths := (key, (k, cls)) :: s.paths }))
  else match w.dev.fabric.paths.find? (fun p => p.1 == key) with
    | none => if w.dev.fabric.waiting.any (fun g => msgKey g.dest g.vc g.hdr == key) then none else some w
    | some p =>
      if !w.linkOpen p.2.1 then
        if f.ty = 5 then some (drop w) else some (((drop w).inc oFabricContinuations 1).upFabric (fun s => { s with waiting := s.waiting ++ continueFrom f }))
      else match w.sendOn p.2.1 { f with cls := p.2.2 } with
        | none => none
        | some w1 => some (if f.isLast then drop w1 else w1)

/-- Try a list of flits in order; those that must wait stay, and later flits of their message behind them. -/
def forwardAll (w : World) (fs : List Flit) (port : Option Nat) (left : World → Flit → World) : List Flit × World :=
  fs.foldl (fun st f =>
    if st.1.any (fun g => msgKey g.dest g.vc g.hdr == msgKey f.dest f.vc f.hdr) then (st.1 ++ [f], st.2)
    else match st.2.forward f port with
      | none => (st.1 ++ [f], st.2)
      | some w1 => (st.1, left w1 f)) ([], w)

/-- Do the ports of a link drain (R370)? -/
def portDrains (w : World) (k : Nat) : Bool := w.dev.fabric.drainSince.isSome || w.dev.fabric.dirDrain.has (k / 4)

/-- A flit leaves a link's receive buffer: its credit is owed to the far end, R351; a draining port returns none for a HEAD
(R370). -/
def leaveBuffer (w : World) (k : Nat) (f : Flit) : World :=
  let l := w.link k
  if f.isHead && w.portDrains k then w else w.setLink k { l with owe := l.owe.put f.queue (l.owe.getD f.queue 0 + 1) }

/-- The direction that a flit waits for: that of its HEAD's way, or of the link its message took. -/
def waitsFor (w : World) (f : Flit) (port : Option Nat) : Option Nat :=
  if f.isHead then (match w.hop (fld f.hdr 64 16) f.dest f.vc f.cls port with
    | .link k _ => some (k / 4)
    | .unreachable => none)
  else (w.dev.fabric.paths.find? (fun p => p.1 == msgKey f.dest f.vc f.hdr)).map (fun p => p.2.1 / 4)

/-- What waits for a direction in L1 requests L0, R363. -/
def wakeDirs (w : World) : World :=
  let fs := w.dev.fabric.waiting.map (fun f => (f, (none : Option Nat)))
    ++ ((List.range 24).map (fun k => ((w.link k).held.filter (fun f => f.dest != w.self)).map (fun f => (f, some (k / 4))))).flatten
  if fs.isEmpty then w
  else w.each (List.range 6) (fun w d =>
    if w.rd (oFabricDirState d) = 2 ∧ fs.any (fun p => w.waitsFor p.1 p.2 == some d) then w.dirRaise d 0 else w)

/-- Send what can be sent: this module's own flits, then the flits held by each link; those that are for this module itself
stay where they are (R132). -/
def pump (w : World) : World := wakeDirs <|
  let fs := w.dev.fabric.waiting
  let (keep, w1) := (w.upFabric (fun s => { s with waiting := [] })).forwardAll fs none (fun w _ => w)
  let w2 := w1.upFabric (fun s => { s with waiting := s.waiting ++ keep })
  w2.each (List.range 24) (fun w k =>
    let l := w.link k
    if l.held.isEmpty then w
    else
      let mine := l.held.filter (fun f => f.dest == w.self)
      let (rest, w1) := (w.setLink k { l with held := [] }).forwardAll (l.held.filter (fun f => f.dest != w.self)) (some (k / 4))
        (fun w f => w.leaveBuffer k f)
      w1.setLink k { w1.link k with held := mine ++ rest })

/-- The continuations of the messages whose flits wait in a link's retry buffer, R364 step 2. -/
def continuations (l : LinkSt) : List (List Flit) :=
  let keyOf (f : Flit) : Nat := msgKey f.dest f.vc f.hdr
  let data := (l.retry.map (fun p => p.2)).filter (fun f => f.ty != 6)
  let keys := data.foldl (fun (ks : List Nat) f => if ks.elem (keyOf f) then ks else ks ++ [keyOf f]) []
  keys.map (fun key =>
    let fs := data.filter (fun f => keyOf f == key)
    match fs with
    | [] => []
    | f :: _ =>
      let hdr := setFld (setFld f.hdr 160 32 f.off) 0 1 1
      let bytes := (fs.map (fun g => g.data)).flatten
      let all := dataFlits (bytes.length / 224 + 2) f.dest f.vc hdr f.off true bytes
      if fs.any Flit.isLast then all
      else all.map (fun g => if g.ty = 3 then { g with ty := 2 } else if g.ty = 4 then { g with ty := 1 } else g))

/-- What a link end does when it goes DOWN, R364: partial messages end with TRUNC toward their next hop; unacknowledged flits
continue another way; the credits stand until they are reclaimed. -/
def linkDropped (w : World) (k : Nat) : World :=
  let l := w.link k
  let truncs := (l.partials.items.filter (fun p => !(l.held.any (fun f => msgKey f.dest f.vc f.hdr == p.2.1 && f.isLast)))).map (fun p =>
    (⟨p.2.1 % 65536, p.1 / 4, p.1 % 4, 5, setFld p.2.2 1 1 1, 0, []⟩ : Flit))
  let conts := continuations l
  let keys := (conts.map (fun fs => fs.map (fun f => msgKey f.dest f.vc f.hdr))).flatten
  let w3 := w.setLink k { l with retry := [], partials := .empty, owe := .empty, downAt := some w.now, retrySince := none,
                                 held := l.held ++ truncs.filter (fun f => f.dest != w.self) }
  let w4 := w3.upFabric (fun s => { s with
    waiting := conts.flatten ++ s.waiting,
    -- 24 is no link: a message all of whose flits were acknowledged goes on as a continuation too
    paths := (s.paths.filter (fun p => !keys.elem p.1)).map (fun p => if p.2.1 = k then (p.1, (24, p.2.2)) else p),
    assembling := s.assembling.mapVals (fun _ r => if truncs.any (fun f => f.dest == w.self
      && msgKey f.dest f.vc f.hdr == msgKey w.self r.vc r.hdr) then { r with truncated := true } else r) })
  ((w4.inc oFabricTruncated truncs.length).inc oFabricContinuations conts.length).pump

/-- Send a message. -/
def sendMsg (w : World) (m : Msg) : World := (w.post m).pump

/-- Build and send a message. -/
def sendTo (w : World) (dest vc sh dh kind addr : Nat) (payload : List Byte) : World :=
  let (m, w1) := w.message dest vc sh dh kind addr 0 payload
  w1.sendMsg m

/-- Down directions of this node, as LINK_STATUS tells them. -/
def downMask (w : World) : Nat := (List.range 6).foldl (fun m d => if (w.activeLinks d).isEmpty then m + 2 ^ d else m) 0

/-- LINK_STATUS to every neighbour, R358: the down directions in the first byte. -/
def sendLinkStatus (w : World) : World :=
  (List.range 6).foldl (fun w d => match neighbour w.dims w.self d with
    | some n => if (w.openLinks d).isEmpty then w else w.sendTo n 0 0 0 0x43 0 (leBytes 1 w.downMask)
    | none => w) { w with dev := { w.dev with fabric := { w.dev.fabric with lastStatus := w.now } } }

/-- The ACTIVE links begin to drain, R370; the neighbours are told (R358). -/
def linksDrain (w : World) : World :=
  ((w.each (List.range 24) (fun w k => if w.rd (oLinkState k) = 3 then w.wr (oLinkState k) 6 else w)).upFabric (fun f =>
    { f with drainSince := some w.now })).sendLinkStatus

/-- Can a node be reached from here: some way leads toward it? -/
def reachable (w : World) (dest : Nat) : Bool :=
  dest == w.self || (match w.hop w.self dest 7 0 none with
    | .link _ _ => true
    | .unreachable => false)

end World

end Sys2Proof.Machine
end

