-- ==== Sys2Proof/Machine/Flags.lean ====
section
/-! DEFINITION. The flags the block raises: MSI-X and ALERT_N (R432, R438), fault records (R446 to R462), and the
beginning of every reset with the first step of its sequence (R470, R474). Written once; every command that detects an
error or asks for a reset goes through `reportFault` or `beginReset`. -/
namespace Sys2Proof.Machine

/-- Precedence of an error event under R33. -/
def faultPrecedence (f : FaultReport) : Nat :=
  if 0x010 ≤ f.source.toNat ∧ f.source.toNat ≤ 0x01E ∧ f.cls ≠ 1 then 1
  else if 0x020 ≤ f.source.toNat ∧ f.source.toNat ≤ 0x067 ∧ f.cls ≠ 1 then 2
  else if f.cls = 3 then 4
  else if f.cls = 2 then 5
  else 7

/-- The steps of the ladder that run after this one fails, R462; 0: none. -/
def nextStep (action : Nat) (shared : Bool) : Nat :=
  match action with
  | 1 => if shared then 2 else 3
  | 2 => if shared then 4 else 3
  | 3 => if shared then 4 else 0
  | 4 => 5
  | 5 => 6
  | _ => 0

/-- Is the unit a master names shared by several husks (R458)? -/
def sharedUnit (m : Nat) : Bool := masterType m == 0x3 || masterType m == 0xA || masterType m == 0xD || masterType m == 0xE

/-- Rank of a scope, R466. -/
def scopeRank (scope : Nat) : Nat :=
  match scope with
  | 1 => 1
  | 2 => 2
  | 3 => 3
  | 4 => 4
  | 7 => 4
  | _ => 0

/-- Reason a reset of a scope gives the operations it ends, R423. -/
def scopeReason (scope : Nat) : Nat :=
  match scope with
  | 1 => 0x0901
  | 2 => 0x0902
  | 3 => 0x0903
  | _ => 0x0904

/-- The third word of a reset record, R476. -/
def resetWord3 (r : ResetSeq) : Nat :=
  (if r.deferred then 1 else 0) + r.restarts * 16 + r.scope * 256 + r.source * 4096 + r.faultSource * 65536
    + r.master * 2 ^ 32 + r.cause * 2 ^ 48

/-- The key of a reset sequence: husk h at h, the module at 16, port p at 17 + p, the controller at 19. -/
def resetKey (scope target : Nat) : Nat :=
  match scope with
  | 1 => target
  | 5 => 17 + target
  | 6 => 19
  | _ => 16

namespace World

/-- Change the fault state. -/
def upFaults (w : World) (f : FaultSt → FaultSt) : World := { w with dev := { w.dev with faults := f w.dev.faults } }
/-- Change the reset controller. -/
def upResets (w : World) (f : ResetSt → ResetSt) : World := { w with dev := { w.dev with resets := f w.dev.resets } }
/-- The record of a source. -/
def faultRec (w : World) (src : Nat) : FaultRec := w.dev.faults.recs.getD src FaultRec.init
/-- Set the record of a source. -/
def setRec (w : World) (src : Nat) (r : FaultRec) : World :=
  w.upFaults (fun f => { f with recs := f.recs.put src r })

/-- Send an MSI-X notification, R432: masked sets the pending bit; at most one message in 1,000 ticks per vector. -/
def msix (w : World) (fn vec : Nat) : World :=
  let k := fn * 8 + vec
  let m := w.dev.msix.getD k ⟨none, false, true⟩
  let setM (w : World) (m : Msix) : World := { w with dev := { w.dev with msix := w.dev.msix.put k m } }
  if m.masked then setM w { m with pending := true }
  else if !(w.dev.busMaster.elem fn) then w
  else match m.lastSent with
    | some t => if w.now < t + 1000 then w
      else setM { w with dev := { w.dev with msixSent := ⟨fn, vec, w.now⟩ :: w.dev.msixSent } } { m with lastSent := some w.now }
    | none => setM { w with dev := { w.dev with msixSent := ⟨fn, vec, w.now⟩ :: w.dev.msixSent } } { m with lastSent := some w.now }

/-- A device-wide notification: the physical function of each port (R432). -/
def msixPf (w : World) (vec : Nat) : World := (w.msix 0 vec).msix 32 vec

/-- A notification of husk h: the physical functions and the husk's virtual functions (R432). -/
def msixHusk (w : World) (h vec : Nat) : World := ((w.msixPf vec).msix (h + 1) vec).msix (32 + h + 1) vec

/-- A PLDM event becomes pending, R438. -/
def pldmEvent (w : World) (e : PldmEvent) : World := { w with dev := { w.dev with pldm := e :: w.dev.pldm } }

/-- Is ALERT_N asserted (R438): a PLDM event is pending or a fault record awaits acknowledgement? -/
def alertLow (w : World) : Bool :=
  !w.dev.pldm.isEmpty || w.dev.faults.recs.vals.any (fun r => r.valid && !r.acked)

/-- Does a ladder step reach the source, R455? -/
def stepCovers (w : World) (st : LadderStep) (src : Nat) : Bool :=
  match st.action with
  | 2 => src == st.target
  | 3 => src == huskSource st.target
      || (decide (0x100 ≤ src) && decide (src < 0x180) && (w.slicesOf st.target).elem ((src - 0x100) / 8))
  | 4 => decide (0x100 ≤ src) && decide (src < 0x1C2) || src == 0x1FA || src == 0x1FB
  | 5 => decide (0x100 ≤ src) && decide (src < 0x1FC)
  | 6 => decide (0x011 ≤ src) && decide (src < 0x01F) || (decide (0x100 ≤ src) && decide (src < 0x1FC))
  | _ => false

/-- The steps in whose recovery period the source stands, R455, by rising action. -/
def recovering (w : World) (src : Nat) : List LadderStep :=
  w.dev.faults.steps.vals.filter (fun st => w.stepCovers st src && (match st.quiet with
    | none => true
    | some t => decide (w.now < t)))

/-- Is the source's part being brought up after a warm or cold reset or a power-up (R455; log entry 80)? -/
def startingUp (w : World) (src : Nat) : Bool :=
  match w.dev.resets.seqs.get? 16 with
  | none => false
  | some r =>
    if r.scope = 2 then w.stepCovers ⟨4, 0, 0, 0, none, false⟩ src
    else (r.scope == 3 || r.scope == 4) && w.stepCovers ⟨5, 0, 0, 0, none, false⟩ src

/-- Is the source in counting mode (R455)? -/
def counting (w : World) (src : Nat) : Bool :=
  w.rd oFaultTestMode == 1 || w.startingUp src || !(w.recovering src).isEmpty

/-- Begin a ladder step (R455, R461); a bound of 0 stands for none stated in ticks. -/
def beginStep (w : World) (action target bound : Nat) : World :=
  w.upFaults (fun f => { f with steps := f.steps.put (action * 65536 + target) ⟨action, target, w.now, bound, none, false⟩ })

/-- A ladder step completes: its quiet period runs for FaultQuietTicks (R455). -/
def endStep (w : World) (action target : Nat) : World :=
  match w.dev.faults.steps.get? (action * 65536 + target) with
  | none => w
  | some st => w.upFaults (fun f => { f with
      steps := f.steps.put (action * 65536 + target) { st with quiet := some (w.now + w.rd oFaultQuietTicks) } })

/-- A ladder step has failed, R462: its recovery period goes on, and it fails once. -/
def stepFails (w : World) (st : LadderStep) : World :=
  w.upFaults (fun f => { f with steps := f.steps.put (st.action * 65536 + st.target) { st with failed := true } })

/-- Unfinished steps that a reset of a scope overtakes (R470): those of every reset, for a module's reset, and the
re-initialisations it reaches, links excepted when it is warm. -/
def stepsOvertaken (w : World) (scope : Nat) : World :=
  let gone (st : LadderStep) : Bool := st.quiet.isNone
    && (3 ≤ st.action || scope != 2 || decide (st.target < 0x1D0) || decide (0x1E8 ≤ st.target))
  if scope = 1 ∨ scope = 5 ∨ scope = 6 then w else w.upFaults (fun f => { f with steps := f.steps.delIf (fun _ st => gone st) })

/-- Is the unit of a source being re-initialised (R460)? -/
def reinitRuns (w : World) (src : Nat) : Bool := (w.dev.faults.steps.get? (2 * 65536 + src)).any (fun st => st.quiet.isNone)

/-- Fence the domain of the failing unit, R462 and R526: nothing when it lies in no switched domain. -/
def fence (w : World) (src : Nat) : World :=
  match unitDomain (w.faultRec src).master with
  | none => w
  | some d =>
    let w1 := w.setRec src { w.faultRec src with fenced := true }
    let w2 := w1.wr oFaultFencedDomains (setFld (w1.rd oFaultFencedDomains) d 1 1)
    w2.wr oDomainPowered (setFld (w2.rd oDomainPowered) d 1 0)

/-! ### Resets: records and first steps -/

/-- Write the three words of a reset record at its beginning, R476. -/
def resetRecord (w : World) (key : Nat) (r : ResetSeq) : World :=
  let (a, b, c) :=
    if key < 16 then (oResetRecordHusk (3 * key), oResetRecordHusk (3 * key + 1), oResetRecordHusk (3 * key + 2))
    else if key = 17 ∨ key = 18 then
      (oResetRecordPort (3 * (key - 17)), oResetRecordPort (3 * (key - 17) + 1), oResetRecordPort (3 * (key - 17) + 2))
    else (oResetRecordModule 0, oResetRecordModule 1, oResetRecordModule 2)
  ((w.wr a r.start).wr b 0).wr c (resetWord3 r)

/-- The tick at which a reset's last step completed, word 2 of its record. -/
def resetRecordEnd (w : World) (key : Nat) : World :=
  let b := if key < 16 then oResetRecordHusk (3 * key + 1)
    else if key = 17 ∨ key = 18 then oResetRecordPort (3 * (key - 17) + 1) else oResetRecordModule 1
  w.wr b w.now

/-- An epoch increments, over 0x0000 to 0xFFFE (R366). -/
def bumpEpoch (w : World) (k : OKey) : World := w.wr k ((w.rd k + 1) % 65535)

/-- Stop the escalation timer of husk h's source (R457). -/
def stopTimer (w : World) (h : Nat) : World :=
  let r := w.faultRec (huskSource h)
  if r.deadline = 0 then w else w.setRec (huskSource h) { r with deadline := 0 }

/-- The epoch notice of husk h to one node, R367: VC 0; ADDR carries the new epoch in [15:0] and the husk in [19:16]
(log entry 19). -/
def epochNotice (w : World) (h node : Nat) : World := w.sendTo node 0 h h 0x40 (w.rd (oFabricHuskEpoch h) + h * 65536) []

/-- The nodes told of husk h's new epoch, R367: those of its running collectives, its POD_FORWARD peers, its turn's
participants. -/
def peerSet (w : World) (h : Nat) : List Nat :=
  let node (p : Nat) : Nat := fld p 0 16
  let colls := ((w.dev.coll.runs.vals.filter (fun r => r.husk == h)).map (fun r => r.parts.map node)).flatten
  let pods := ((w.dev.pods.peers.items.filter (fun p => p.1 / 65536 == h)).map (fun p => p.2.2.map (fun d => d.1))).flatten
  let turns := match w.dev.turns.get? h with
    | some t => if t.stage = 8 then [] else t.parts.map node
    | none => []
  (colls ++ pods ++ turns).foldl (fun l n => if n = w.self then l else setInsert n l) []

/-- A reset ends a turn that has not committed, R316: a husk reset does not keep the old layout. -/
def turnAbandon (w : World) (h reason : Nat) : World :=
  match w.dev.turns.get? h with
  | none => w
  | some t =>
    if t.stage = 8 then w
    else
      let w1 := { w with dev := { w.dev with turns := w.dev.turns.put h { t with stage := 9 } } }
      if reason = 0x0901 ∧ t.stage ≠ 5 then (w1.wr (oHuskLayoutCurrent h) 0).wr (oHuskTurnIdCurrent h) 0 else w1

/-- Step H1 of R474 for husk h: its epoch counts, its peers are told, its turn is abandoned, its timer stops; an
enabled husk is RESETTING (or keeps DISABLING) and its notification goes out. -/
def huskFirstStep (w0 : World) (h reason : Nat) : World :=
  let w := w0.turnAbandon h reason
  let w1 := w.bumpEpoch (oFabricHuskEpoch h)
  let w2 := w1.each (w1.peerSet h) (fun w n => w.epochNotice h n)
  let w3 := (w2.abandonOp (oTurnStatus h 0) reason).stopTimer h
  let st := w3.huskState h
  if st = hsDisabled then w3
  else (if st = hsDisabling then w3 else w3.wr (oHuskState h) hsResetting).msixHusk h 1

/-- A firmware update ends without a bootable bank, R443: the inactive bank is invalid, none is pending. -/
def fwDrop (w : World) : World :=
  let b := 1 - w.rd oFirmwareActiveBank
  let f := w.dev.firmware
  let spoiled := f.update.any (fun u => decide (2 ≤ u.stage))
  ({ w with dev := { w.dev with t3 := w.dev.t3.delIf (fun _ a => a.user == 6), firmware := { f with
      update := none, booting := false,
      banks := if spoiled then f.banks.modify b ⟨false, 0, 0, []⟩ (fun x => { x with valid := false }) else f.banks } } }).wr
    oFirmwarePendingBank 0xFF

/-- The first step W1 or C1 of a module reset (R474): every husk as H1, the module epoch, the long operations that
R420 says it ends; a cold reset drains the fabric ports (R370). -/
def moduleFirstStep (w : World) (scope : Nat) : World :=
  let reason := scopeReason scope
  let was := allHusks.filter (fun h => w.huskState h == hsActive || w.huskState h == hsEnabling || w.huskState h == hsResetting)
  let w1 := w.upResets (fun r => { r with
    wasActive := was.foldl (fun l h => setInsert h l) r.wasActive,
    seqs := r.seqs.delIf (fun k _ => k < 16) })
  let w2 := w1.each allHusks (fun w h => w.huskFirstStep h reason)
  let w3 := ((w2.bumpEpoch oFabricModuleEpoch).abandonOp (oAcornInstallStatus 0) reason).abandonOp (oAcornRefreshStatus 0) reason
  let w3 := { w3 with dev := { w3.dev with snapshot := if w3.dev.snapshot = some (w3.now + 1) then none else w3.dev.snapshot } }
  if scope = 2 then w3
  else (((if w3.dev.firmware.update.isSome then w3.fwDrop else w3).abandonOp (oFirmwareUpdateStatus 0) reason)).linksDrain

/-- The first steps of a reset of a scope. -/
def firstStep (w : World) (scope target : Nat) : World :=
  match scope with
  | 1 => w.huskFirstStep target 0x0901
  | 5 => w.wr (oHostCxlActive target) 0
  | 6 => w
  | _ =>
    let w1 := w.moduleFirstStep scope
    if scope = 4 ∨ scope = 7 then
      ((w1.wr oPowerState 3).wr oPowerStage 0xFF).upResets (fun r => { r with
        power := { r.power with dir := 2, after := (if scope = 4 then 1 else 0), since := w.now } })
    else w1

/-- Start a reset's sequence from its first step, with its record; `restarts` from an earlier run of the same. -/
def startSeq (w : World) (scope target source master cause faultSource restarts : Nat) (deferred : Bool) : World :=
  let r : ResetSeq := ⟨scope, source, master, cause, faultSource, w.now, restarts, deferred⟩
  let key := resetKey scope target
  let w1 := (w.upResets (fun s => { s with seqs := s.seqs.put key r })).resetRecord key r
  let w2 := (w1.stepsOvertaken scope).firstStep scope target
  if source = 4 ∨ source = 6 ∨ source = 7 ∨ source = 13 ∨ (source = 9 ∧ scope = 4) then match scope with
  | 1 => w2.beginStep 3 target 200000
  | 2 => w2.beginStep 4 0 5000000
  | 3 => w2.beginStep 5 0 300000000
  | 4 => w2.beginStep 6 0 (w.rd oPowerOffHold + 400000000)
  | _ => w2
  else w2

/-- A write pulse is in progress on some acorn stack (R471). -/
def pulseInProgress (w : World) : Bool := !w.dev.acorn.pulse.items.isEmpty

/-- Begin a reset, R470: a reset of lower rank than one in progress is held and merges with one held already; one of
the same or higher rank starts its own sequence from the first step. A husk reset of a DISABLED husk, and a husk, warm, cold or
port reset while the rails are OFF or FAILED, reaches nothing (log entry 81). -/
def beginReset (w : World) (scope target source master cause faultSource : Nat) : World :=
  let rs := w.dev.resets
  let modRank := match rs.seqs.get? 16 with
    | some m => scopeRank m.scope
    | none => 0
  let key := resetKey scope target
  let hold : World :=
    if rs.held.any (fun x => x.scope == scope && x.target == target) then w
    else w.upResets (fun r => { r with held := r.held ++ [⟨scope, target, source, master, cause, faultSource⟩] })
  let restarts := match rs.seqs.get? key with
    | some m => Nat.min 15 (m.restarts + 1)
    | none => 0
  let unpowered := (w.rd oPowerState == 0 || w.rd oPowerState == 4) && (rs.seqs.get? 16).isNone
  if (scope = 1 ∧ w.huskState target = hsDisabled) ∨ (unpowered ∧ (scope ≤ 3 ∨ scope = 5)) then w
  else if scope = 6 then w.startSeq scope target source master cause faultSource restarts false
  else if scope = 5 then (if 3 ≤ modRank then hold else w.startSeq scope target source master cause faultSource restarts false)
  else if scopeRank scope < modRank then hold
  else w.startSeq scope target source master cause faultSource restarts (scope != 1 && w.pulseInProgress)

/-- The husk that owns the failing unit: the record's husk, else the owner of the unit's slice. -/
def failingHusk (w : World) (src : Nat) : Option Nat :=
  let r := w.faultRec src
  if r.husk < 16 then some r.husk
  else match unitDomain r.master with
    | some d => if d < 16 then w.ownerOf d else none
    | none => none

/-- The next step of the ladder after `action` failed on the unit of source `src`, R462 and R463. -/
def climb (w : World) (action src : Nat) : World :=
  let m := (w.faultRec src).master
  let shared := sharedUnit m || src == 0x1FA || src == 0x1FB
  if action = 2 ∧ masterType m = 0xC then
    let k := masterIndex m
    let open' := w.linkOpen k
    let w1 := (w.wr (oLinkState k) 0).wr (oLinkReason k) (w.faultRec src).reason
    if open' then (w1.linkDropped k).sendLinkStatus else w1
  else
    let n := nextStep action shared
    if n = 0 ∨ w.rd oFaultAutoCeiling < n then w.fence src
    else
      let w1 := w.setRec src { w.faultRec src with action := n }
      match n with
      | 2 => w1.beginStep 2 src 0
      | 3 => (match w.failingHusk src with
        | some h => w1.beginReset 1 h 13 0 0x0804 src
        | none => w1)
      | 4 => w1.beginReset 2 0 13 0 0x0804 src
      | 5 => w1.beginReset 3 0 13 0 0x0804 src
      | _ => w1.beginReset 4 0 13 0 0x0804 src

/-- A source becomes SEVERE, R456 and R462: the highest step in whose recovery period it stands fails, once; of a husk source
the husk's job fails instead, and its husk reset is the step taken. -/
def severeAction (w : World) (src : Nat) : World :=
  if 0x1B0 ≤ src ∧ src < 0x1C0 then
    if w.huskState (src - 0x1B0) = hsDisabled then w
    else (w.setRec src { w.faultRec src with action := 3 }).beginReset 1 (src - 0x1B0) 13 0 0x0804 src
  else match (w.recovering src).getLast? with
    | some st => if st.failed then w else (w.stepFails st).climb st.action src
    | none => w

/-- The action of a fatal event in service, R458. -/
def fatalAction (w : World) (src : Nat) : World :=
  let warm := (decide (0x1A0 ≤ src) && decide (src < 0x1A8)) || src == 0x1FA || src == 0x1FB
  let w1 := w.setRec src { w.faultRec src with action := if warm then 4 else 5 }
  w1.beginReset (if warm then 2 else 3) 0 7 0 0x0803 src

/-- An error event, R450 to R458: it captures the source's record or merges into it, is counted, and takes its class's
action; in counting mode it counts toward SEVERE instead. -/
def reportFault (w : World) (f : FaultReport) : World :=
  let src := f.source.toNat
  let r := w.faultRec src
  let cnt := w.counting src
  let timer := f.cls == 2 && !cnt && f.husk.toNat < 16
  let dl := w.now + w.rd oFaultEscalateContained
  let w1 := w.inc (oFaultTotals (f.cls - 1)) 1
  let w2 :=
    if r.valid then
      -- of the events of one tick the first in the order of R33 and R34 captures, whichever came first here
      let first := r.tick == w.now && (decide (faultPrecedence f < r.precedence)
        || (faultPrecedence f == r.precedence && decide (f.master.toNat < r.master)))
      let start := timer && (first || (r.cls < 2 && r.deadline == 0 && r.husk < 16))
      let r := if first then { r with
          address := f.address.toNat, master := f.master.toNat, access := f.access.toNat, reason := f.reason.toNat,
          precedence := faultPrecedence f, husk := f.husk.toNat, deadline := if f.cls = 3 ∧ !cnt then 0 else r.deadline } else r
      w1.setRec src { r with
        count := Nat.min 0xFFFFFFFF (r.count + 1), lastTick := w.now, merged := true, cls := Nat.max r.cls f.cls,
        counted := r.counted || cnt, conds := r.conds + (if f.condition then 1 else 0),
        cleared := r.cleared && !f.condition, deadline := if start then dl else r.deadline }
    else
      let w2 := w1.setRec src { FaultRec.init with
        lastTick := w.now, count := 1, deadline := if timer then dl else 0, tick := w.now, address := f.address.toNat,
        master := f.master.toNat, access := f.access.toNat, reason := f.reason.toNat,
        precedence := faultPrecedence f, cls := f.cls, husk := f.husk.toNat, source := src,
        seq := (r.seq + 1) % 65536, valid := true, counted := cnt, conds := if f.condition then 1 else 0 }
      let w3 := w2.pldmEvent (.fault src)
      if f.husk.toNat < 16 then w3.msixHusk f.husk.toNat 0 else w3.msixPf 0
  if cnt then
    let win := (w.dev.faults.windows.getD src [])
    let n := w.rd oFaultCountN
    let w3 := w2.upFaults (fun x => { x with windows := x.windows.put src ((w.now :: win).take 16) })
    match win[n - 2]? with
    | none => w3
    | some t =>
      if w.now < t + w.rd oFaultCountWindow then
        ((w3.setRec src { w3.faultRec src with cls := 4 }).inc (oFaultTotals 3) 1).severeAction src
      else w3
  else if f.cls = 3 ∧ (!r.valid ∨ r.cls < 3) then w2.fatalAction src
  else w2

/-- An uncorrected contained error of husk h, recorded in its source (R447). -/
def contained (w : World) (h master access reason address : Nat) : World :=
  w.reportFault ⟨BitVec.ofNat 16 (huskSource h), 2, BitVec.ofNat 16 reason, BitVec.ofNat 16 master, BitVec.ofNat 64 address,
    BitVec.ofNat 8 access, BitVec.ofNat 5 h, false⟩

/-- A contained error of no husk, recorded in the source of the unit that detected it (R447). -/
def containedUnit (w : World) (src master access reason address : Nat) : World :=
  w.reportFault ⟨BitVec.ofNat 16 src, 2, BitVec.ofNat 16 reason, BitVec.ofNat 16 master, BitVec.ofNat 64 address,
    BitVec.ofNat 8 access, 0x1F, false⟩

/-- A corrected event of a source. -/
def corrected (w : World) (src master access reason address : Nat) : World :=
  w.reportFault ⟨BitVec.ofNat 16 src, 1, BitVec.ofNat 16 reason, BitVec.ofNat 16 master, BitVec.ofNat 64 address,
    BitVec.ofNat 8 access, 0x1F, false⟩

/-- A corrected event for which the spec names no reason: REASON is a value it does not state (log entry 15). -/
def correctedOpen (w : World) (src master access address : Nat) : World :=
  let (n, w1) := w.fresh
  w1.corrected src master access (openReason n) address

/-- A read of one copy of a structure that the module reserve holds twice, R142: a line that fails correction is rewritten from
the other copy, whose place `other` gives, with a corrected event of its stack; one that fails in both is a fatal error of the
stack that holds the west copy, with that copy's address. -/
def mirrorHeal (w : World) (a n : Nat) (other : Nat → Nat) : World :=
  w.each ((List.range ((a + n + 63) / 64 - a / 64)).map (fun i => a / 64 + i)) (fun w l =>
    if !w.lineBad l then w
    else if w.lineBad (other (l * 64) / 64) then
      let west := Nat.min (l * 64) (other (l * 64))
      let i := hbmStack west
      w.reportFault ⟨BitVec.ofNat 16 (0x1A0 + i), 3, 0x020A, BitVec.ofNat 16 (masterId 0xE i), BitVec.ofNat 64 west, 1, 0x1F, false⟩
    else
      let i := hbmStack (l * 64)
      ({ w with dev := { w.dev with badLines := setErase l w.dev.badLines } }).correctedOpen (0x1A0 + i) (masterId 0xE i) 1 (l * 64))

/-- The place of the repair table's second copy, in the other die's reserve (R142; log entry 62). -/
def otherReserve (a : Nat) : Nat := if a < 0x13000000000 then a + 0x3000000000 else a - 0x3000000000

/-- A detected error of an HBM line as its FAULT_EVENT shows it, R143: a line that the code corrected is counted; one that it
could not correct reads poisoned from then on. -/
def hbmEvent (w : World) (f : FaultReport) : World :=
  let src := f.source.toNat
  let a := f.address.toNat
  if f.cls = 1 ∧ 0x1A0 ≤ src ∧ src < 0x1A8 then w.inc (oHbmCorrected (src - 0x1A0)) 1
  else if f.cls ≠ 1 ∧ f.reason = 0x020A ∧ regionOf a = .hbm then
    { w with dev := { w.dev with badLines := setInsert (a / 64) w.dev.badLines } }
  else w

/-- An event of no husk that is a condition (R452), of class `cls`; a REASON that the spec does not state is a free value
(log entry 15). -/
def condition (w : World) (cls src master access : Nat) (reason : Option Nat) (address : Nat) : World :=
  let go (w : World) (rs : Nat) : World :=
    w.reportFault ⟨BitVec.ofNat 16 src, cls, BitVec.ofNat 16 rs, BitVec.ofNat 16 master, BitVec.ofNat 64 address,
      BitVec.ofNat 8 access, 0x1F, true⟩
  match reason with
  | some rs => go w rs
  | none => go w.fresh.2 (openReason w.fresh.1)

/-- A contained error of a husk when there is one, else of the unit. -/
def containedOf (w : World) (husk : Option Nat) (master access reason address : Nat) : World :=
  match husk with
  | some h => w.contained h master access reason address
  | none => w.containedUnit (unitSource master) master access reason address

end World

end Sys2Proof.Machine
end

