-- ==== Sys2Proof/Machine/Tiles.lean ====
section
/-! DEFINITION. Stored tiles (R105 to R110, R121, R122, R125): their layout and place, and a read of one by an NMU, a window
read or the scrubber, with its counts, its poison and its record. -/
namespace Sys2Proof.Machine

/-- One step of CRC-32C over a bit-reflected register. -/
def crcBit (c : Nat) : Nat := if c % 2 = 1 then (c / 2) ^^^ 0x82F63B78 else c / 2
/-- The register after one byte. -/
def crcByte (c : Nat) (b : Byte) : Nat := crcBit (crcBit (crcBit (crcBit (crcBit (crcBit (crcBit (crcBit (c ^^^ b.toNat))))))))
/-- The register after some bytes; each value is computed before the next byte is taken, so that the kernel can follow. -/
def crcBytes : List Byte → Nat → Nat
  | [], c => c
  | b :: t, c => match crcByte c b with
    | 0 => crcBytes t 0
    | n + 1 => crcBytes t (n + 1)
/-- CRC-32C over bytes, R107. -/
def crc32c (l : List Byte) : Nat := crcBytes l 0xFFFFFFFF ^^^ 0xFFFFFFFF

/-- Payload bytes of a tile format, R105: four groups. -/
def tilePayload (f : Fmt) : Nat := 4 * f.groupBytes
/-- Tile stride, R105: header, payload and checksum, padded to 64 bytes. -/
def tileStride (f : Fmt) : Nat := (16 + tilePayload f + 4 + 63) / 64 * 64
/-- Is it a tile format (R106)? -/
def isTileFmt (code : Nat) : Bool := decide (5 ≤ code) && decide (code ≤ 9)

/-- The header of R106 as a number. -/
def tileHeader (image matrix tr tc fmt : Nat) : Nat :=
  1 + fmt * 16 + image * 2 ^ 32 + tc * 2 ^ 64 + tr * 2 ^ 80 + matrix * 2 ^ 96

/-- Is a slot's checksum right, R107? -/
def tileSumOk (f : Fmt) (data : List Byte) : Bool :=
  crc32c (data.take (16 + tilePayload f)) == leNat ((data.drop (16 + tilePayload f)).take 4)

/-- A band entry of a matrix record, R108. -/
def bandOf (v : Nat) : Band := ⟨fld v 40 24, fld v 24 16, fld v 8 16, fld v 0 3⟩

/-- A matrix record from its 128 bytes, R108: BANDS entries, at most the eight it has words for. -/
def matrixRecOf (b : BitVec 1024) : MatrixRec :=
  let v := b.toNat
  ⟨fld v 0 32, fld v 32 32, fld v 64 32, fld v 96 4, fld v 104 8,
    (List.range (Nat.min 8 (fld v 100 4))).map (fun i => bandOf (fld v (128 + 64 * i) 64))⟩

/-- BANDS of a record, 1 to 8 (R108). -/
def bandsOk (b : BitVec 1024) : Bool := decide (1 ≤ fld b.toNat 100 4) && decide (fld b.toNat 100 4 ≤ 8)

/-- Tile columns and rows of a matrix, R110. -/
def matTcn (r : MatrixRec) : Nat := (r.cols + 63) / 64
/-- Tile rows. -/
def matTrn (r : MatrixRec) : Nat := (r.rows + 63) / 64
/-- The band that holds a tile row. -/
def matBand (r : MatrixRec) (tr : Nat) : Option Band :=
  r.bands.find? (fun b => decide (b.tr0 ≤ tr) && decide (tr < b.tr0 + b.trCount))

/-- NMU (a × 256 + j) and physical address of a tile, R110. -/
def tilePlace (info : ImageInfo) (r : MatrixRec) (tr tc : Nat) : Option (Nat × Nat) :=
  match matBand r tr, Fmt.ofCode r.fmt with
  | some b, some f =>
    let cpn := (matTcn r + 255) / 256
    let j := (r.nmu0 + tc) % 256
    let off := info.base + 64 * b.offset + ((tr - b.tr0) * cpn + tc / 256) * tileStride f
    some (b.stack * 256 + j, 0x20000000000 + b.stack * 0x1800000000 + j * 0x18000000 + off)
  | _, _ => none

/-- A tile as a product uses it: values row by row (64 × 64), or the reason of its poison. -/
structure Tile where
  vals : List Val
  reason : Option Nat
  deriving DecidableEq, Repr

namespace World

/-- Change the acorn state. -/
def upAcorn (w : World) (f : AcornSt → AcornSt) : World := { w with dev := { w.dev with acorn := f w.dev.acorn } }
/-- State of an image slot, R125. -/
def slotState (w : World) (i : Nat) : Nat := fld (w.rd (oAcornImageSlot i)) 60 4
/-- Image identifier of a slot. -/
def slotImage (w : World) (i : Nat) : Nat := fld (w.rd (oAcornImageSlot i)) 0 32
/-- Set a slot's state. -/
def setSlotState (w : World) (i st : Nat) : World := w.wr (oAcornImageSlot i) (setFld (w.rd (oAcornImageSlot i)) 60 4 st)
/-- The image of a slot. -/
def imageInfo (w : World) (i : Nat) : ImageInfo := w.dev.acorn.images.getD i ⟨0, 0, [], [], []⟩

/-- The slot of the husk's active image, R126. -/
def activeSlot (w : World) (h : Nat) : Option Nat :=
  let i := w.rd (oHuskActiveImage h)
  if i < 16 then some i else none

/-- Bit errors in a codeword of each line of a slot, R121. -/
def lineErrs (w : World) (pa n : Nat) : List (Nat × Nat) :=
  (List.range (n / 64)).map (fun i => (pa / 64 + i, w.dev.acorn.cellErrs.getD (pa / 64 + i) 0))

/-- Most bit errors in a codeword of the lines of a slot, R121. -/
def worstLine (w : World) (pa n : Nat) : Nat := ((w.lineErrs pa n).map (fun p => p.2)).foldl Nat.max 0

/-- Rereads with a shifted sense reference that a slot takes, R121: 0 when every codeword can be corrected, else up to the
reread at which the last of the others first comes out clean; 4 when one never does. -/
def rereadsOf (w : World) (pa n : Nat) : Nat :=
  (((w.lineErrs pa n).filter (fun p => decide (4 < p.2))).map (fun p =>
    match w.dev.acorn.rereads.get? p.1 with
    | some k => if 1 ≤ k ∧ k ≤ 3 then k else 4
    | none => 4)).foldl Nat.max 0

/-- A detection of poison in a stored tile, R122: the list entry and the contained error, once. -/
def tilePoisoned (w : World) (e : PoisonEnt) (husk : Option Nat) (master acc pa : Nat) : World :=
  let w1 := w.upAcorn (fun a => { a with poison := e :: a.poison })
  w1.containedOf husk master acc 0x0401 pa

/-- Read a stored tile, R121 and R122: `master` is the reader named in the record. -/
def readStoredTile (w : World) (slot : Nat) (r : MatrixRec) (tr tc pa : Nat) (husk : Option Nat) (master acc : Nat) : Tile × World :=
  match Fmt.ofCode r.fmt with
  | none => (⟨[], some 0x0401⟩, w)
  | some f =>
    let e : PoisonEnt := ⟨slot, w.slotImage slot, r.id, tr, tc⟩
    let a := (pa - 0x20000000000) / 0x1800000000
    if w.dev.acorn.poison.elem e then (⟨[], some 0x0401⟩, w.wr oAcornPoisonCount (fit 32 (w.rd oAcornPoisonCount + 1)))
    else
      let tries := w.rereadsOf pa (tileStride f)
      let data := w.bytes pa (tileStride f)
      let good := tileSumOk f data && leNat (data.take 16) == tileHeader (w.slotImage slot) r.id tr tc r.fmt
      let w1 := if 0 < tries then w.inc (oAcornReadRetries a) (Nat.min 3 tries)
        else if 0 < w.worstLine pa (tileStride f) && good then w.inc (oAcornEccCorrected a) 1 else w
      if tries = 4 || !good then (⟨[], some 0x0401⟩, (w1.inc (oAcornUncorrectable a) 1).tilePoisoned e husk master acc pa)
      else (⟨(List.range 4096).map (fun i => f.valAt ((data.drop 16).take (tilePayload f)) i), none⟩, w1)

/-- The stored tiles of the complete images (R125) whose slots meet a range: slot, record, tile row and column, NMU,
address and stride. -/
def windowTiles (w : World) (a n : Nat) : List (Nat × MatrixRec × Nat × Nat × Nat × Nat × Nat) :=
  ((List.range 16).map (fun slot =>
    if w.slotState slot = 3 ∨ w.slotState slot = 4 then
      ((w.imageInfo slot).records.map (fun r => match Fmt.ofCode r.fmt with
        | none => []
        | some f => ((List.range (matTrn r)).map (fun tr => (List.range (matTcn r)).filterMap (fun tc =>
          match tilePlace (w.imageInfo slot) r tr tc with
          | some (j, pa) => if pa < a + n ∧ a < pa + tileStride f then some (slot, r, tr, tc, j, pa, tileStride f) else none
          | none => none))).flatten)).flatten
    else [])).flatten

/-- Bytes of the acorn window with the poison of the tiles at these places (address and length). -/
def windowBytes (w : World) (a n : Nat) (bad : List (Nat × Nat)) : Rd :=
  ⟨(w.readStored a n 0).data,
   (List.range n).map (fun i => bad.any (fun t => decide (t.1 ≤ a + i) && decide (a + i < t.1 + t.2))),
   if bad.isEmpty then [] else [0x0401]⟩

/-- A read of the acorn window, R121: every stored tile it meets is read by its NMU, and a poisoned one is poisoned in it. -/
def readWindow (w : World) (husk : Option Nat) (acc a n : Nat) : Rd × World :=
  let (bad, w1) := (w.windowTiles a n).foldl (fun (st : List (Nat × Nat) × World) t =>
    let (slot, r, tr, tc, j, pa, k) := t
    let (x, w1) := st.2.readStoredTile slot r tr tc pa husk (masterId 0x3 j) acc
    (if x.reason.isSome then st.1 ++ [(pa, k)] else st.1, w1)) ([], w)
  (w1.windowBytes a n bad, w1)

/-- The same bytes from a line that a cache holds: poisoned where their tile is listed. -/
def windowCached (w : World) (a n : Nat) : Rd :=
  w.windowBytes a n (((w.windowTiles a n).filter (fun t =>
    w.dev.acorn.poison.elem ⟨t.1, w.slotImage t.1, t.2.1.id, t.2.2.1, t.2.2.2.1⟩)).map (fun t => t.2.2.2.2.2))

end World

end Sys2Proof.Machine
end

