-- ==== Sys2Proof/Machine/Access.lean ====
section
/-! DEFINITION. Address translation (R41 to R45, R328) and the accesses that units make through it or past it. Every
unit's read or write of memory goes through here, so that faults, poison and keys are treated in one place. -/
namespace Sys2Proof.Machine

/-- What an access needs of a page, R43. -/
inductive Need where
  | rd | wr | atomic | exec
  deriving DecidableEq, Repr

/-- Does the page-table entry give what the access needs (RD bit 2, W bit 3, X bit 4)? -/
def pteAllows (pte : Nat) : Need → Bool
  | .rd => bitAt pte 2
  | .wr => bitAt pte 3
  | .atomic => bitAt pte 2 && bitAt pte 3
  | .exec => bitAt pte 4

/-- A table walk's outcome: a leaf with its level, or a fault with the access code and reason of a poisoned table
entry (0, 0 otherwise), R44. -/
inductive Walk where
  | leaf (pte level : Nat)
  | fault (access reason : Nat)
  deriving DecidableEq, Repr

/-- A translation's outcome. -/
inductive Tr where
  | ok (pa : Nat) (enc nc : Bool)
  | fault (access reason : Nat)
  deriving DecidableEq, Repr

/-- The four levels of R42: level, lowest address bit, index bits. -/
def walkLevels : List (Nat × Nat × Nat) := [(1, 39, 9), (2, 30, 9), (3, 21, 9), (4, 16, 5)]

/-- Page size of a leaf at a level, R42. -/
def leafSize (level : Nat) : Nat :=
  match level with
  | 2 => 0x40000000
  | 3 => 0x200000
  | _ => 0x10000

/-- The SIZE code of a leaf at a level, R44. -/
def leafCode (level : Nat) : Nat :=
  match level with
  | 2 => 3
  | 3 => 2
  | 4 => 1
  | _ => 0

namespace World

/-- The walk from a table address down the remaining levels, R42 and R44. DESIGN CHOICE (log entry 142): a table that lies outside
scratch and HBM, where R36 places no table's bytes that the walker could read, reads as poisoned. -/
def walkFrom (w : World) (h va : Nat) : List (Nat × Nat × Nat) → Nat → Walk
  | [], _ => .fault 0 0
  | (lv, sh, n) :: rest, table =>
    let r := match regionOf (table + fld va sh n * 8) with
      | .scratch _ => w.readStored (table + fld va sh n * 8) 8 0
      | .hbm => w.readStored (table + fld va sh n * 8) 8 0
      | _ => Rd.poison (table + fld va sh n * 8) 8 []
    if r.anyBad then .fault 5 r.reason
    else
      let pte := r.nat
      if !bitAt pte 0 || fld pte 48 4 != h then .fault 0 0
      else if fld pte 10 2 = 0 then
        (if lv = 4 then .fault 0 0 else walkFrom w h va rest (fld pte 16 32 * 0x10000))
      else if lv = 1 ∨ fld pte 10 2 ≠ leafCode lv then .fault 0 0
      else .leaf pte lv

/-- Is a page at a control-space address one of the husk's own queue or doorbell pages (R45, R80, R342)? -/
def ownControlPage (w : World) (h base : Nat) : Bool :=
  if base < 0x40000000 then false
  else
    let p := (base - 0x40000000) / 0x10000
    if p < 16 then w.mayRun h p
    else if p = 0x10 ∨ p = 0x11 then
      (List.range 8).any (fun i => w.rd (oSliceFillerHusk ((p - 0x10) * 8 + i)) == h)
    else false

/-- The checks on a leaf that a translation reaches, R37, R40, R44, R45, R144 and R328. -/
def checkLeaf (w : World) (h va pte level : Nat) (need : Need) : Tr :=
  let size := leafSize level
  let base := fld pte 16 32 * 0x10000
  let pa := base + va % size
  if !pteAllows pte need || base % size != 0 then .fault 0 0
  else
    let enc := bitAt pte 9
    let bad := match regionOf pa with
      | .scratch _ => enc
      | .l2 _ => true
      | .ctrl => enc || size != 0x10000 || !w.ownControlPage h base
      | .hbm => w.frameOwner (frameOf pa) != h + 1
      | .acorn _ => enc || bitAt pte 3
      | .tier3 _ => enc || !w.tier3Offered pa
      | .reserved => true
    if bad then .fault 0 0 else .ok pa enc (bitAt pte 5)

/-- Key of the translation caches: husk and 64 KiB page. -/
def tlbKey (h va : Nat) : Nat := h * 2 ^ 32 + va / 0x10000

/-- Translate a virtual address of husk h, R41 to R45: a cached leaf that differs from the table may be used or not
(a free choice), and is not used where it would fault; only walks that succeed are cached. -/
def translate (w : World) (h va : Nat) (need : Need) : Tr × World :=
  if 2 ^ 48 ≤ va then (.fault 0 0, w)
  else
    let fresh := w.walkFrom h va walkLevels (w.rd (oHuskPageTableBase h))
    let useFresh (w : World) : Tr × World := match fresh with
      | .fault a r => (.fault a r, w)
      | .leaf pte lv => match w.checkLeaf h va pte lv need with
        | .ok pa e n => (.ok pa e n, { w with dev := { w.dev with tlb := w.dev.tlb.put (tlbKey h va) ⟨pte, lv⟩ } })
        | .fault a r => (.fault a r, w)
    match w.dev.tlb.get? (tlbKey h va) with
    | none => useFresh w
    | some c =>
      if fresh = .leaf c.pte c.level then (w.checkLeaf h va c.pte c.level need, w)
      else
        let (n, w1) := w.fresh
        match Config.cacheHit n, w1.checkLeaf h va c.pte c.level need with
        | true, .ok pa e nc => (.ok pa e nc, w1)
        | _, _ => useFresh w1

/-- The husk's key serial, R330. -/
def huskKey (w : World) (h : Nat) : Nat := w.dev.keys.getD h 0

/-- An uncorrectable HBM line met in a read is a contained error of the page's husk, R143. -/
def reportBadLines (w : World) (husk : Option Nat) (master acc a n : Nat) : World :=
  match ((List.range ((a + n + 63) / 64 - a / 64)).map (fun i => a / 64 + i)).find? (fun l => w.lineBad l) with
  | none => w
  | some l => w.containedOf husk master acc 0x020A (l * 64)

/-- A read of a physical range inside one region, R36 to R40, R143 and R146. -/
def readPiece (w : World) (husk : Option Nat) (master acc a n key : Nat) : Rd × World :=
  match regionOf a with
  | .scratch _ => (w.readStored a n 0, w)
  | .hbm => (w.readStored a n key, w.reportBadLines husk master acc a n)
  | .acorn _ => w.readWindow husk acc a n
  | .l2 _ => if masterType master = 0 then (w.readStored a n 0, w)
    else (Rd.poison a n [], w.containedOf husk master acc 0 a)
  | .tier3 p =>
    if !w.tier3Offered a then (Rd.poison a n [], w.containedOf husk master acc 0 a)
    else if w.portCarries p then (w.readStored a n 0, w)
    else (Rd.poison a n [0x0209], (w.containedOf husk master acc 0x0209 a).inc (oTier3Poisoned p) 1)
  | _ => (Rd.poison a n [], w.containedOf husk master acc 0 a)

/-- A write of a physical range inside one region: to a reserved range or the acorn window it is discarded and recorded (R39,
R40); one that a port cannot carry is discarded and not acknowledged (`false`), which its issuer is told and no fault record is
(R146). -/
def writePiece (w : World) (husk : Option Nat) (master acc a : Nat) (data : List Byte) (bad : List Bool) (key : Nat) : Bool × World :=
  match regionOf a with
  | .scratch _ => (true, w.writeStored a data bad 0)
  | .hbm => (true, w.writeStored a data bad key)
  | .l2 _ => (true, if masterType master = 0 then w.writeStored a data bad 0 else w.containedOf husk master acc 0 a)
  | .tier3 p =>
    if !w.tier3Offered a then (true, w.containedOf husk master acc 0 a)
    else if w.portCarries p then (true, w.writeStored a data bad 0)
    else (false, w)
  | _ => (true, w.containedOf husk master acc 0 a)

/-- The pieces of a virtual range inside 64 KiB pages: address and length. -/
def pages : Nat → Nat → Nat → List (Nat × Nat)
  | 0, _, _ => []
  | f + 1, va, n =>
    if n = 0 then []
    else
      let k := Nat.min n (0x10000 - va % 0x10000)
      (va, k) :: pages f (va + k) (n - k)

/-- How many pages a range can touch. -/
def pageFuel (n : Nat) : Nat := n / 0x10000 + 2

/-- The parts of a physical range that lie each in one region, or in one part of a Tier 3 window (offered or not): every
boundary of R36 and R144 is a multiple of 64 KiB. -/
def regionRuns (w : World) (a n : Nat) : List (Nat × Nat) :=
  ((pages (pageFuel n) a n).foldl (fun (acc : List (Nat × Nat)) p => match acc with
    | x :: t => if regionOf x.1 = regionOf p.1 ∧ w.tier3Offered x.1 = w.tier3Offered p.1 then (x.1, x.2 + p.2) :: t else p :: x :: t
    | [] => [p]) []).reverse

/-- A read at a physical address: each part by the region that it lies in. -/
def readPhys (w : World) (husk : Option Nat) (master acc a n key : Nat) : Rd × World :=
  (w.regionRuns a n).foldl (fun st p =>
    let (r, w1) := st.2.readPiece husk master acc p.1 p.2 key
    (st.1.append r, w1)) (⟨[], [], []⟩, w)

/-- A write at a physical address: each part by the region that it lies in; `false` when a part was not acknowledged. -/
def writePhys (w : World) (husk : Option Nat) (master acc a : Nat) (data : List Byte) (bad : List Bool) (key : Nat) : Bool × World :=
  (w.regionRuns a data.length).foldl (fun st p =>
    let (ok, w1) := st.2.writePiece husk master acc p.1 ((data.drop (p.1 - a)).take p.2) ((bad.drop (p.1 - a)).take p.2) key
    (st.1 && ok, w1)) (true, w)

/-- Translate and record a fault as a contained error of the husk: the access's own code, or 0x05 with the reason for
a poisoned table entry (R44). -/
def reach (w : World) (h master acc : Nat) (need : Need) (va : Nat) : Option (Nat × Bool) × World :=
  match w.translate h va need with
  | (.ok pa enc _, w1) => (some (pa, enc), w1)
  | (.fault a r, w1) => (none, w1.contained h master (if a = 0 then acc else a) r va)

/-- A read through the page table of husk h, with `ok` false when a walk faulted. -/
def readVirt (w : World) (h master acc va n : Nat) : (Rd × Bool) × World :=
  (pages (pageFuel n) va n).foldl (fun st p =>
    match st.2.reach h master acc .rd p.1 with
    | (none, w1) => ((st.1.1.append (Rd.poison p.1 p.2 []), false), w1)
    | (some (pa, enc), w1) =>
      let (r, w2) := w1.readPiece (some h) master acc pa p.2 (if enc then w1.huskKey h else 0)
      ((st.1.1.append r, st.1.2), w2)) ((⟨[], [], []⟩, true), w)

/-- A write through the page table of husk h, with `ok` false when a walk faulted or a port could not carry a part (R146);
pages that translate are written. -/
def writeVirt (w : World) (h master acc va : Nat) (data : List Byte) (bad : List Bool) : Bool × World :=
  let n := data.length
  (pages (pageFuel n) va n).foldl (fun st p =>
    match st.2.reach h master acc .wr p.1 with
    | (none, w1) => (false, w1)
    | (some (pa, enc), w1) =>
      let o := p.1 - va
      let (ok, w2) := w1.writePiece (some h) master acc pa ((data.drop o).take p.2) ((bad.drop o).take p.2)
        (if enc then w1.huskKey h else 0)
      (st.1 && ok, w2)) (true, w)

/-- Write clean bytes through the page table. -/
def putVirt (w : World) (h master acc va : Nat) (data : List Byte) : World :=
  (w.writeVirt h master acc va data (List.replicate data.length false)).2

/-- The physical address of a virtual one where it translates, with nothing recorded: for the checks of addresses
(R75), whose faulting walk `noteWalk` records. -/
def peek (w : World) (h va : Nat) (need : Need) : Option Nat :=
  match (w.translate h va need).1 with
  | .ok pa _ _ => some pa
  | .fault _ _ => none

/-- The physical address and the ENC bit of a virtual one where it translates, with nothing recorded. -/
def peekLeaf (w : World) (h va : Nat) (need : Need) : Option (Nat × Bool) :=
  match (w.translate h va need).1 with
  | .ok pa enc _ => some (pa, enc)
  | .fault _ _ => none

/-- A virtual range that a check walks: its address, its length and what it needs of its pages. -/
abbrev Span := Nat × Nat × Need

/-- The checks of a command's addresses, or of a ring's, walk the pages that they name; the first walk that faults is recorded
as a contained error of the husk, with the access code of a translation walk (R44, R449; log entry 140). -/
def noteWalk (w : World) (h master : Nat) (l : List Span) : World :=
  let walks := (l.map (fun x => (pages (pageFuel x.2.1) x.1 x.2.1).map (fun p => (p.1, x.2.2)))).flatten
  match walks.find? (fun p => (w.peek h p.1 p.2).isNone) with
  | some p => (w.reach h master 5 p.2 p.1).2
  | none => w

/-- Does a whole virtual range translate into the scratch of slice s, to consecutive places? -/
def inScratch (w : World) (h s va n : Nat) (need : Need) : Bool :=
  (pages (pageFuel n) va (Nat.max n 1)).all (fun p => match w.peek h p.1 need with
    | some pa => regionOf pa == .scratch s && regionOf (pa + p.2 - 1) == .scratch s
    | none => false)

/-- Does a whole virtual range translate? -/
def mapped (w : World) (h va n : Nat) (need : Need) : Bool :=
  (pages (pageFuel n) va (Nat.max n 1)).all (fun p => (w.peek h p.1 need).isSome)

/-- Does a whole virtual range translate into HBM? -/
def inHbm (w : World) (h va n : Nat) (need : Need) : Bool :=
  (pages (pageFuel n) va (Nat.max n 1)).all (fun p => match w.peek h p.1 need with
    | some pa => regionOf pa == .hbm
    | none => false)

end World

end Sys2Proof.Machine
end

