-- ==== Sys2Proof/Machine/Queues.lean ====
section
/-! DEFINITION. Command queues (R80 to R84, R373, R525): their registers, how a unit takes the command at the head of a
ring, and how its completion record is written. -/
namespace Sys2Proof.Machine

/-- Storage key of a ring's register image. -/
def ringKey : RingRef → Nat
  | .slice s q h => (s.val * 16 + q.val) * 16 + h.val
  | .filler s u => 0x10000 + s.val * 2 + (if u.val = 8 then 1 else 0)
  | .coll e h => 0x20000 + e.val * 16 + h.val

/-- Master identifier of the unit that serves a ring, R18 and R80. -/
def ringMaster : RingRef → Nat
  | .slice s q _ =>
    if q.val < 8 then masterId 0x1 (s.val * 8 + q.val)
    else match q.val with
      | 8 => masterId 0x4 s.val
      | 9 => masterId 0x5 s.val
      | 10 => masterId 0x6 s.val
      | 11 => masterId 0x7 s.val
      | 12 => masterId 0xF s.val
      | 13 => masterId 0x9 s.val
      | _ => masterId 0x8 s.val
  | .filler s u => if u.val = 8 then masterId 0x4 s.val else masterId 0x1 (s.val * 8 + u.val)
  | .coll e _ => masterId 0xA e.val

/-- Entries of a ring, R81. -/
def Ring.size (r : Ring) : Nat := 2 ^ r.log2size
/-- Is a ring index in the ring? -/
def Ring.inRange (r : Ring) (v : Nat) : Bool := decide (v < r.size)
/-- (a − b) mod 2^LOG2SIZE. -/
def Ring.dist (r : Ring) (a b : Nat) : Nat := (a + r.size - b % r.size) % r.size
/-- Has the completion ring a free entry beyond the commands already taken (R83)? -/
def Ring.cqFree (r : Ring) : Bool := decide (r.dist r.cqtail r.cqhead + r.taken.length < r.size - 1)

/-- STATE of QSTATUS, R81. -/
def Ring.stateNow (r : Ring) : Nat :=
  if r.state = 5 ∧ (r.enable ∨ !r.taken.isEmpty) then 5
  else if !r.taken.isEmpty then (if r.taken.any (fun t => t.wait == .feed) then 4 else 2)
  else if !r.enable then 0
  else if r.head ≠ r.tail ∧ !r.cqFree then 3
  else 1

/-- QCTRL as it reads. -/
def Ring.qctrl (r : Ring) : Nat := (if r.enable then 1 else 0) + r.log2size * 16 + (if r.producer then 256 else 0)
/-- QSTATUS as it reads. -/
def Ring.qstatus (r : Ring) : Nat := r.stateNow * 2 ^ 60 + r.lastReason * 65536 + r.refused

/-- Count a refused TAIL write or push; the counter saturates (R81). -/
def Ring.refuse (r : Ring) (reason : Nat) : Ring :=
  { r with lastReason := reason, refused := Nat.min 0xFFFF (r.refused + 1) }

namespace World

/-- The register image of a ring. -/
def ring (w : World) (r : RingRef) : Ring :=
  match r with
  | .coll _ _ => { w.dev.rings.getD (ringKey r) Ring.init with producer := true }
  | _ => w.dev.rings.getD (ringKey r) Ring.init
/-- Set a register image. -/
def setRing (w : World) (r : RingRef) (x : Ring) : World :=
  { w with dev := { w.dev with rings := w.dev.rings.put (ringKey r) x } }

/-- The husk of a ring's image: the image's own, the filler husk of the slice, or the ring's husk (R81, R342, R373). -/
def ringHusk (w : World) : RingRef → Nat
  | .slice _ _ h => h.val
  | .filler s _ => w.rd (oSliceFillerHusk s.val)
  | .coll _ h => h.val

/-- Does the image drive its units now: queues 0 to 8 for the husk that runs on the slice, 9 to 14 for its owner
(R334), the domain powered, the husk ACTIVE? -/
def ringLive (w : World) : RingRef → Bool
  | .slice s q h => w.active h.val && w.powered s.val && decide (q.val < 15)
      && (if q.val < 9 then w.running s.val == h.val else w.ownerOf s.val == some h.val)
  | .filler s _ => w.powered s.val && w.active (w.rd (oSliceFillerHusk s.val))
  | .coll _ h => w.active h.val

/-- May the path write the image: the husk's own virtual function, or the physical function (R333, R334, R373)? -/
def ringPath (p : Path) : RingRef → Bool
  | .slice _ _ h => match p with
    | .pf _ => true
    | .vf k _ => k == h
    | _ => false
  | .filler _ _ => match p with
    | .pf _ => true
    | .vf _ _ => true
    | _ => false
  | .coll _ _ => match p with
    | .pf _ => true
    | _ => false

/-- Does the path reach the image, R333, R334 and R342: a queue 0 to 8 of a slice on which the image's husk may run, a queue 9 to 14
of the slice's owner, a filler page of the husk that SliceFillerHusk names? -/
def ringPathOk (w : World) (p : Path) (r : RingRef) : Bool :=
  ringPath p r && (match r, p with
    | .filler s _, .vf k _ => w.rd (oSliceFillerHusk s.val) == k.val
    | .slice s q h, _ => if q.val < 9 then w.mayRun h.val s.val else bitAt (w.rd (oHuskSlices h.val)) s.val
    | _, _ => true)

/-- Does a TAIL write reach the image? The physical function's is answered on every slice: on one that the image's husk may not use
it finds the queue disabled (R82). -/
def tailPathOk (w : World) (p : Path) (r : RingRef) : Bool :=
  w.ringPathOk p r || (match p with
    | .pf _ => ringPath p r
    | _ => false)

/-- Is a module-wide reset of the compute dies running (control space reads all ones, writes are discarded, R473)? -/
def moduleResetting (w : World) : Bool := w.dev.resets.seqs.has 16

/-- Physical base of an engine's descriptor memory, R373. -/
def collMem (e : Nat) : Nat := 0x40400000 + e * 0x80000

/-- Do both rings lie where they must: the scratch of the queue's slice under the husk's page table (R81), or the
engine's 512 KiB descriptor memory (R373)? -/
def ringsPlaced (w : World) (r : RingRef) (x : Ring) : Bool :=
  match r with
  | .coll _ _ => decide (x.qbase + 128 * x.size ≤ 0x80000) && decide (x.cqbase + 16 * x.size ≤ 0x80000)
  | .slice s _ h => w.inScratch h.val s.val x.qbase (128 * x.size) .rd && w.inScratch h.val s.val x.cqbase (16 * x.size) .wr
  | .filler s _ =>
    let h := w.rd (oSliceFillerHusk s.val)
    w.inScratch h s.val x.qbase (128 * x.size) .rd && w.inScratch h s.val x.cqbase (16 * x.size) .wr

/-- The ranges that the check of a ring's place walks: none in an engine's descriptor memory. -/
def ringSpans (r : RingRef) (x : Ring) : List Span :=
  match r with
  | .coll _ _ => []
  | _ => [(x.qbase, 128 * x.size, .rd), (x.cqbase, 16 * x.size, .wr)]

/-- A QCTRL write that sets ENABLE, R81: its checks in order; where one fails the write sets LAST_REASON and nothing else. -/
def ringEnable (w : World) (r : RingRef) (v : Nat) : World :=
  let x := w.ring r
  if x.enable then w.setRing r { x with producer := bitAt v 8 }
  else
    let y := { x with log2size := fld v 4 4, producer := bitAt v 8 }
    if !w.active (w.ringHusk r) then w.setRing r { x with lastReason := 0x0A03 }
    else if y.log2size < 4 ∨ 12 < y.log2size then w.setRing r { x with lastReason := 0x0003 }
    else if !w.ringsPlaced r y then (w.setRing r { x with lastReason := 0x0004 }).noteWalk (w.ringHusk r) (ringMaster r) (ringSpans r y)
    else w.setRing r { y with enable := true, state := 0 }

/-- A QCTRL write that clears ENABLE, R81: no further command is taken; the ring stays. -/
def ringDisable (w : World) (r : RingRef) (v : Nat) : World :=
  let x := w.ring r
  if x.enable then w.setRing r { x with enable := false, producer := bitAt v 8 }
  else w.setRing r { x with log2size := fld v 4 4, producer := bitAt v 8 }

/-- A write to CQHEAD, R81: ignored outside the ring or beyond the records present. -/
def ringCqhead (w : World) (r : RingRef) (v : Nat) : World :=
  let x := w.ring r
  if x.inRange v && decide (x.dist v x.cqhead ≤ x.dist x.cqtail x.cqhead) then w.setRing r { x with cqhead := v } else w

/-- Why a TAIL write is refused, R35, R82, R333 and R473; none: it is accepted. -/
def tailRefusal (w : World) (p : Path) (r : RingRef) (v : Nat) : Option Nat :=
  let x := w.ring r
  let st := w.huskState (w.ringHusk r)
  let viaVf := match p with
    | .vf _ _ => true
    | _ => false
  if w.moduleResetting || st == hsResetting || (!viaVf && st == hsDisabling) then some 0x0302
  else if viaVf && (st == hsDisabled || st == hsDisabling) then some 0x0A03
  else if !w.ringPathOk p r || !x.producer || !x.enable || !x.inRange v || decide (x.dist v x.head < x.dist x.tail x.head) then some 0x0006
  else none

/-- A host write to TAIL, the doorbell of R82. -/
def ringTail (w : World) (p : Path) (r : RingRef) (v : Nat) : World :=
  match w.tailRefusal p r v with
  | some reason => w.setRing r ((w.ring r).refuse reason)
  | none => w.setRing r { w.ring r with tail := v }

/-- A write to a queue register at an offset of its page, R81. -/
def ringRegWrite (w : World) (p : Path) (r : RingRef) (off v : Nat) : World :=
  let x := w.ring r
  match off with
  | 0x000 => if x.enable then w else w.setRing r { x with qbase := v / 4096 * 4096 }
  | 0x008 => if bitAt v 0 then w.ringEnable r v else w.ringDisable r v
  | 0x010 => w.ringTail p r v
  | 0x020 => if x.enable then w else w.setRing r { x with cqbase := v / 4096 * 4096 }
  | 0x028 => w.ringCqhead r v
  | _ => w

/-- A read of a queue register, R81. -/
def ringRegRead (w : World) (r : RingRef) (off : Nat) : Nat :=
  let x := w.ring r
  match off with
  | 0x000 => x.qbase
  | 0x008 => x.qctrl
  | 0x010 => x.tail
  | 0x018 => x.head
  | 0x020 => x.cqbase
  | 0x028 => x.cqhead
  | 0x030 => x.cqtail
  | 0x038 => x.qstatus
  | _ => 0

/-- A master that reads and writes a ring's memory. -/
def ringRead (w : World) (r : RingRef) (va n : Nat) : (Rd × Bool) × World :=
  match r with
  | .coll e _ => ((w.readStored (collMem e.val + va) n 0, true), w)
  | _ => w.readVirt (w.ringHusk r) (ringMaster r) 1 va n

/-- Write to a ring's memory. -/
def ringWrite (w : World) (r : RingRef) (va : Nat) (data : List Byte) : World :=
  match r with
  | .coll e _ => w.store (collMem e.val + va) data
  | _ => w.putVirt (w.ringHusk r) (ringMaster r) 2 va data

end World

/-- The unit, husk and mode in whose name a command runs. -/
structure Ctx where
  ring : RingRef
  slice : Nat
  husk : Nat
  master : Nat
  canonical : Bool
  /-- HuskRngKey as the command was accepted, R67 and R225 -/
  key : Nat
  deriving DecidableEq, Repr

/-- The slice of a ring (collective engines have none). -/
def ringSlice : RingRef → Nat
  | .slice s _ _ => s.val
  | .filler s _ => s.val
  | .coll _ _ => 0

/-- SLICE_MASK and NO_FILL of an entry of the cycle table, R335. -/
def ceMask (e : Nat) : Nat := fld e 48 16
def ceNoFill (e : Nat) : Bool := bitAt e 41

/-- Bank of a matrix-engine command, R75. -/
def cmdBank (cmd : Nat) : Nat := fld cmd 28 1
/-- Opcode and tag of a 128-byte command. -/
def cmdOp (cmd : Nat) : Nat := fld cmd 0 8
def cmdTag (cmd : Nat) : Nat := fld cmd 48 16

/-- The first element that satisfies `f`, changed by `g`. -/
def modFirst {α : Type} (f : α → Bool) (g : α → α) : List α → List α
  | [] => []
  | t :: ts => if f t then g t :: ts else t :: modFirst f g ts

/-- How the entry at the head of a ring reads, R525. -/
inductive Entry where
  | ok (cmd : Nat)
  | unreadable
  | poisoned (tag : Nat)
  deriving DecidableEq, Repr

namespace World

/-- The context of a ring. -/
def ctx (w : World) (r : RingRef) : Ctx :=
  let h := w.ringHusk r
  ⟨r, ringSlice r, h, (ringMaster r), w.rd (oHuskCanonicalMode h) == 1, w.rd (oHuskRngKey h)⟩

/-- The context of a command taken earlier: its husk, and the mode and key it was accepted with (R67, R225). -/
def ctxOf (w : World) (r : RingRef) (t : Taken) : Ctx :=
  { w.ctx r with husk := t.husk, canonical := t.canonical, key := t.key }

/-- Does the slot in force forbid filler on the slice (R335)? -/
def noFill (w : World) (s : Nat) : Bool :=
  w.rd oCycleEnable == 1 && !w.dev.cycle.armed
    && (let e := w.dev.cycle.table.getD (w.rd oCycleCurrentSlot) 0
        ceNoFill e && bitAt (ceMask e) s)

/-- Do the owner's queue and the slot leave an engine to the filler (R342)? -/
def fillerFree (w : World) (s unit : Nat) : Bool :=
  let x := w.ring (.slice (Fin.ofNat 16 s) (Fin.ofNat 16 unit) (Fin.ofNat 16 (w.running s)))
  !w.noFill s && x.head == x.tail && x.taken.isEmpty

/-- May the unit of a ring take another command now (R83, R334, R342)? -/
def canTake (w : World) (r : RingRef) : Bool :=
  let x := w.ring r
  x.enable && x.head != x.tail && x.cqFree && w.ringLive r && (match r with
    | .slice s q _ => (if q.val < 8 then decide (x.taken.length < 2) else x.taken.isEmpty)
        && (decide (9 ≤ q.val) || !w.dev.cycle.lent.has (s.val * 16 + q.val))
    | .filler s u => w.dev.cycle.lent.has (s.val * 16 + u.val) && x.taken.isEmpty && w.fillerFree s.val u.val
    | .coll e _ => decide (x.taken.length < 16) && !w.reinitRuns (0x1C0 + e.val))

/-- Read the entry at the head, with its faults recorded, R525. -/
def headEntry (w : World) (r : RingRef) : Entry × World :=
  let x := w.ring r
  match w.ringRead r (x.qbase + 128 * x.head) 128 with
  | ((_, false), w1) => (.unreadable, w1)
  | ((d, true), w1) =>
    if d.anyBad then (.poisoned (if d.bad.getD 6 false || d.bad.getD 7 false then 0 else cmdTag d.nat), w1)
    else (.ok d.nat, w1)

/-- Does a matrix engine still compute the command: it waits for pieces or for a chain set (R78, R86)? -/
def computing (t : Taken) : Bool := t.wait != .done && t.wait != .chainOut

/-- The entry at the head of a ring whose unit may take it, when it reads cleanly and `want` accepts it; the two
commands of a matrix engine name different banks, and beside one that computes only one that does not compute is taken (R83). -/
def takeEntry (w : World) (r : RingRef) (want : Nat → Bool) : Option (Nat × World) :=
  if !w.canTake r then none
  else match w.headEntry r with
    | (.ok cmd, w1) =>
      let clash := match r with
        | .slice _ q _ => decide (q.val < 8) && (w.ring r).taken.any (fun t =>
            cmdBank t.cmd == cmdBank cmd || (computing t && (cmdOp cmd == 1 || cmdOp cmd == 2)))
        | _ => false
      if want cmd && !clash then some (cmd, w1) else none
    | _ => none

/-- Enter a command as taken: HEAD moves on, and the command waits for what `wait` says. -/
def enterTaken (w : World) (c : Ctx) (t : Taken) : World :=
  let x := w.ring c.ring
  let keep := match c.ring with
    | .filler _ _ => true
    | _ => false
  let w1 := w.setRing c.ring { x with head := if keep then x.head else (x.head + 1) % x.size, taken := x.taken ++ [t] }
  { w1 with dev := { w1.dev with acorn := { w1.dev.acorn with
    pinned := w1.dev.acorn.pinned.filter (fun p => !(p.ring == ringKey c.ring && p.cmd == t.cmd)) } } }

/-- The number of the unit that takes a command from a filler ring. -/
def takerUnit : RingRef → Nat
  | .filler _ u => u.val
  | _ => 0

/-- A taken command with no further wait. -/
def finished (w : World) (c : Ctx) (cmd status reason : Nat) : World :=
  w.enterTaken c ⟨cmd, cmdTag cmd, status, reason, .done, c.husk, c.canonical, c.key, w.now, w.now, takerUnit c.ring, [], []⟩

/-- A command rejected by reason; one rejected for an address records the walk that faulted, `spans` the ranges that its check
walks (R44). -/
def rejected (w : World) (c : Ctx) (cmd reason : Nat) (spans : List Span) : World :=
  (if reason = 0x0004 then w.noteWalk c.husk c.master spans else w).finished c cmd 1 reason

/-- A taken command that waits. -/
def waiting (w : World) (c : Ctx) (cmd : Nat) (wait : Wait) (aux : List Nat) : World :=
  w.enterTaken c ⟨cmd, cmdTag cmd, 0, 0, wait, c.husk, c.canonical, c.key, w.now, w.now, takerUnit c.ring, [], aux⟩

/-- Change the first taken command that satisfies `f`. -/
def modTaken (w : World) (r : RingRef) (f : Taken → Bool) (g : Taken → Taken) : World :=
  w.setRing r { w.ring r with taken := modFirst f g (w.ring r).taken }

/-- Do the units that serve a ring run for its husk now: queues 0 to 8 only for the husk that runs on the slice (R334,
R338)? -/
def ringUnitRuns (w : World) : RingRef → Bool
  | .slice s q h => decide (9 ≤ q.val) || w.running s.val == h.val
  | _ => true

/-- The first taken command that waits so, on a unit that runs for the ring's husk: the command of a pre-empted husk waits on
until its husk runs again (R334, R338). -/
def takenWith (w : World) (r : RingRef) (wait : Wait) : Option Taken :=
  if w.ringUnitRuns r then (w.ring r).taken.find? (fun t => t.wait == wait) else none

/-- A write of husk h's canonical mode or random key takes effect from its tick on (R67, R225): a command accepted earlier in
the same tick that still waits runs in the new mode and with the new key. One that finished in the step that took it has run;
a run whose commands of one tick stand in the order of R33 and R34 has none (log entry 4). -/
def remode (w : World) (h : Nat) : World :=
  let now := w.now
  let m := w.rd (oHuskCanonicalMode h) == 1
  let k := w.rd (oHuskRngKey h)
  let go (x : Ring) : Ring := { x with taken := x.taken.map (fun t =>
    if t.husk = h ∧ t.accepted = now ∧ t.wait ≠ .done then { t with canonical := m, key := k } else t) }
  { w with dev := { w.dev with rings := w.dev.rings.mapVals (fun _ x => go x) } }

/-- The taken command that waits so finishes with this status and reason. -/
def finishWait (w : World) (r : RingRef) (wait : Wait) (status reason : Nat) : World :=
  w.modTaken r (fun t => t.wait == wait) (fun t => { t with wait := .done, status := status, reason := reason })

/-- The 16 bytes of a completion record, R84. -/
def recordBytes (tag reason status tick : Nat) : List Byte :=
  leBytes 8 (tag + reason * 65536 + status * 2 ^ 32) ++ leBytes 8 tick

/-- Write a completion record: CQTAIL moves on even when the slot cannot be written (R525). -/
def putRecord (w : World) (r : RingRef) (tag reason status : Nat) : World :=
  let x := w.ring r
  let w1 := w.ringWrite r (x.cqbase + 16 * x.cqtail) (recordBytes tag reason status w.now)
  let y := w1.ring r
  w1.setRing r { y with cqtail := (y.cqtail + 1) % y.size, lastReason := if status = 1 then reason else y.lastReason }

/-- The opcodes a ring's unit knows; any other is rejected with DESC_FIELD_INVALID (R75, R89, R111 and the others). -/
def knownOp (r : RingRef) (op : Nat) : Bool :=
  match r with
  | .slice _ q _ =>
    if q.val < 8 then decide (op ≤ 4)
    else match q.val with
      | 8 => [0x10, 0x11, 0x12, 0x13, 0x14, 0x15, 0x20, 0x21, 0x22, 0x23, 0x30, 0x31, 0x32, 0x33, 0x40, 0x41, 0x42,
          0x43, 0x44, 0x50, 0x51].elem op
      | 9 => [0x00, 0x01, 0x02].elem op
      | 10 => decide (op ≤ 1)
      | 11 => [0x01, 0x02, 0x03, 0x04, 0x05, 0x06, 0x10].elem op
      | 12 => decide (op ≤ 3)
      | 13 => decide (op ≤ 1)
      | 14 => (decide (0x40 ≤ op) && decide (op ≤ 0x48)) || (decide (1 ≤ op) && decide (op ≤ 8))
      | _ => false
  | .filler _ u => if u.val = 8 then [0x10, 0x11, 0x12, 0x13, 0x14, 0x15, 0x20, 0x21, 0x22, 0x23, 0x30, 0x31, 0x32,
      0x33, 0x40, 0x41, 0x42, 0x43, 0x44, 0x50, 0x51].elem op else decide (op ≤ 4)
  | .coll _ _ => decide (1 ≤ op) && decide (op ≤ 10)

/-- After a completion: an engine whose queue is empty has been idle from this tick on (R342). -/
def noteIdle (w : World) (r : RingRef) : World :=
  match r with
  | .slice s q _ =>
    if q.val < 9 && (w.ring r).taken.isEmpty then
      { w with dev := { w.dev with cycle := { w.dev.cycle with idleSince := w.dev.cycle.idleSince.put (s.val * 16 + q.val) w.now } } }
    else w
  | _ => w

/-- HEAD after the completion of a taken command: a filler command leaves its ring only then (R342). -/
def headAfter (r : RingRef) (x : Ring) : Nat :=
  match r with
  | .filler _ _ => (x.head + 1) % x.size
  | _ => x.head

/-- Complete the oldest taken command of a ring when it has finished, R83 and R84; with none taken, complete an entry
that cannot be executed at all: unreadable, poisoned, or of an opcode its unit does not know (R525). -/
def ringComplete (w : World) (r : RingRef) : World :=
  let x := w.ring r
  match x.taken with
  | t :: ts =>
    if t.wait = .done ∧ w.ringUnitRuns r then
      ((w.setRing r { x with taken := ts, head := headAfter r x }).putRecord r t.tag t.reason t.status).noteIdle r
    else w
  | [] =>
    if !w.canTake r then w
    else
      let skip (w : World) : World := w.setRing r { w.ring r with head := ((w.ring r).head + 1) % x.size }
      match w.headEntry r with
      | (.unreadable, w1) => (skip w1).putRecord r 0 0x0004 1
      | (.poisoned tag, w1) => (skip w1).putRecord r tag 0x0010 1
      | (.ok cmd, w1) => if knownOp r (cmdOp cmd) then w else (skip w1).putRecord r (cmdTag cmd) 0x0003 1

end World

/-- QUEUE_ENABLE, R81. -/
def execQueueEnable (p : Path) (r : RingRef) (v : Word) (s : State) : Host.Outcome State Fault Refusal :=
  s.done (fun w => if w.ringPathOk p r && !w.moduleResetting && bitAt v.toNat 0 then w.ringEnable r v.toNat else w)

/-- QUEUE_DISABLE, R81. -/
def execQueueDisable (p : Path) (r : RingRef) (v : Word) (s : State) : Host.Outcome State Fault Refusal :=
  s.done (fun w => if w.ringPathOk p r && !w.moduleResetting && !bitAt v.toNat 0 then w.ringDisable r v.toNat else w)

/-- CQHEAD_WRITE, R81. -/
def execCqheadWrite (p : Path) (r : RingRef) (v : Word) (s : State) : Host.Outcome State Fault Refusal :=
  s.done (fun w => if w.ringPathOk p r && !w.moduleResetting then w.ringCqhead r v.toNat else w)

/-- TAIL_WRITE, R82: a doorbell. -/
def execTailWrite (p : Path) (r : RingRef) (v : Word) (s : State) : Host.Outcome State Fault Refusal :=
  s.done (fun w => if w.tailPathOk p r then w.ringTail p r v.toNat else w)

end Sys2Proof.Machine
end

