-- ==== Sys2Proof/Machine/Rng.lean ====
section
/-! DEFINITION. The counter-based generator of R222 and the distributions of R227 to R230. -/
namespace Sys2Proof.Machine

/-- Rotate a 32-bit word left, R222. -/
def rotl32 (x n : Nat) : Nat := (x <<< n) % 2 ^ 32 + x >>> (32 - n)

/-- The ten rounds of R222 on the words and the key. -/
def rngRounds : Nat → Nat × Nat × Nat × Nat → Nat → Nat → Nat × Nat × Nat × Nat
  | 0, w, _, _ => w
  | r + 1, (w0, w1, w2, w3), k0, k1 =>
    let a := (w0 ^^^ k0) * 0x10010011 % 2 ^ 32
    let b := (w2 ^^^ k1) * 0x01011001 % 2 ^ 32
    rngRounds r (w1 ^^^ rotl32 b 12, a, w3 ^^^ rotl32 a 20, b) ((k0 + 0x9E3779B9) % 2 ^ 32) ((k1 + 0x6A09E667) % 2 ^ 32)

/-- The block of a key and a 128-bit counter, R222: words w0 to w3. -/
def rngBlock (key ctr : Nat) : Nat × Nat × Nat × Nat :=
  rngRounds 10 (ctr % 2 ^ 32, (ctr >>> 32) % 2 ^ 32, (ctr >>> 64) % 2 ^ 32, (ctr >>> 96) % 2 ^ 32) (key % 2 ^ 32) ((key >>> 32) % 2 ^ 32)

/-- A counter from a stream and a lower half that never carries into it, R223. -/
def rngCtr (stream lower : Nat) : Nat := stream % 2 ^ 64 * 2 ^ 64 + lower % 2 ^ 64

/-- Word i of a block. -/
def rngWord (i : Nat) (b : Nat × Nat × Nat × Nat) : Nat :=
  match i with
  | 0 => b.1
  | 1 => b.2.1
  | 2 => b.2.2.1
  | _ => b.2.2.2

/-- The uniform in [0, 1) from a word, R227. -/
def uniformOf (w : Nat) : F32 := (Val.fin false (w >>> 8) (-24)).f32
/-- The open uniform in (0, 1] from a word, R227. -/
def openOf (w : Nat) : F32 := (Val.fin false ((w >>> 8) + 1) (-24)).f32

/-- 2π in units of 2^−220. -/
def fxTwoPi : Int := 10587146298836635084596781024526858895941211880661792528081340456787

/-- Terms of cos a: `t` the current term, `k` its order, alternating signs. -/
def cosSeries (a2 : Int) : Nat → Nat → Int → Int → Int
  | 0, _, _, s => s
  | n + 1, k, t, s =>
    let u := -((t * a2 / (2 ^ fxBits : Int)) / ((k + 1 : Int) * (k + 2 : Int)))
    cosSeries a2 n (k + 2) u (s + u)

/-- cos(2πx) with a sticky last bit unless exact. -/
def cos2piVal (x : F32) : Val :=
  match valF32 x with
  | .fin _ m e =>
    let q := (scaledInt false m (e + fxBits) 0).toNat % 2 ^ fxBits
    let half := 2 ^ (fxBits - 1)
    let quarter := 2 ^ (fxBits - 2)
    let q1 := if half < q then 2 ^ fxBits - q else q
    let neg := decide (quarter < q1)
    let q2 := if neg then half - q1 else q1
    if q2 = 0 then .fin neg 1 0
    else if q2 = quarter then .fin false 0 0
    else
      let a := fxTwoPi * (q2 : Int) / (2 ^ fxBits : Int)
      let s := cosSeries (a * a / (2 ^ fxBits : Int)) 60 0 (2 ^ fxBits : Int) (2 ^ fxBits : Int)
      .fin neg (2 * s.toNat + 1) (-(fxBits : Int) - 1)
  | _ => .nan

/-- cos2pi_d of R228: within 1 ulp, `Config.cos2piPick` choosing among the FP32 numbers within that bound (log entry
9); exactly 1 at 0. -/
def cos2pi (x : F32) : F32 :=
  if (valF32 x).isZero then f32One
  else
    let v := cos2piVal x
    let t := fmtF32.encode .rtz v
    let exact := match v with
      | .fin _ m _ => decide (m % 2 = 0) || m == 1
      | _ => true
    match Config.cos2piPick x with
    | 0 => BitVec.ofNat 32 t
    | 1 => BitVec.ofNat 32 (t + 1)
    | 2 => if exact && decide (0 < t % 2 ^ 31) then BitVec.ofNat 32 (t - 1) else BitVec.ofNat 32 t

/-- A Box–Muller normal from a block, R228. -/
def boxMuller (b : Nat × Nat × Nat × Nat) : F32 :=
  f32Mul (f32Sqrt (f32Mul 0xC0000000#32 (f32Ln (openOf (rngWord 0 b))))) (cos2pi (uniformOf (rngWord 1 b)))

/-- FP32 bits of xz[0] to xz[256], R229, part 0. -/
def zigX0 : List Nat := [0x407A49DC, 0x4069DDA4, 0x405CC0FA, 0x40547EE4, 0x404E5F70, 0x40497705, 0x4045587E, 0x4041C818, 0x403EA170, 0x403BCCAB, 0x40393948, 0x4036DB5C, 0x4034AA06, 0x40329E74, 0x4030B34E, 0x402EE451, 0x402D2E04, 0x402B8D8D, 0x402A008B, 0x402884FB, 0x40271928, 0x4025BB9D, 0x40246B14, 0x40232672, 0x4021ECC1, 0x4020BD25, 0x401F96DD, 0x401E793E, 0x401D63AC, 0x401C559D, 0x401B4E94, 0x401A4E20, 0x401953DB]
/-- FP32 bits of xz[0] to xz[256], R229, part 1. -/
def zigX1 : List Nat := [0x40185F67, 0x4017706E, 0x401686A2, 0x4015A1BB, 0x4014C176, 0x4013E598, 0x40130DE6, 0x40123A2D, 0x40116A3C, 0x40109DE5, 0x400FD4FE, 0x400F0F60, 0x400E4CE5, 0x400D8D6C, 0x400CD0D3, 0x400C16FC, 0x400B5FCA, 0x400AAB22, 0x4009F8EB, 0x4009490D, 0x40089B70, 0x4007EFFF, 0x400746A6, 0x40069F52, 0x4005F9EF, 0x4005566C, 0x4004B4B8, 0x400414C4, 0x40037681, 0x4002D9E0, 0x40023ED2, 0x4001A54C, 0x40010D40]
/-- FP32 bits of xz[0] to xz[256], R229, part 2. -/
def zigX2 : List Nat := [0x400076A2, 0x3FFFC2CE, 0x3FFE9B07, 0x3FFD75D9, 0x3FFC5330, 0x3FFB32F9, 0x3FFA1520, 0x3FF8F994, 0x3FF7E043, 0x3FF6C91C, 0x3FF5B40E, 0x3FF4A10A, 0x3FF39001, 0x3FF280E5, 0x3FF173A6, 0x3FF06838, 0x3FEF5E8D, 0x3FEE5698, 0x3FED504D, 0x3FEC4BA0, 0x3FEB4885, 0x3FEA46F1, 0x3FE946D9, 0x3FE84832, 0x3FE74AF2, 0x3FE64F0E, 0x3FE5547E, 0x3FE45B37, 0x3FE36330, 0x3FE26C61, 0x3FE176BF, 0x3FE08243, 0x3FDF8EE5]
/-- FP32 bits of xz[0] to xz[256], R229, part 3. -/
def zigX3 : List Nat := [0x3FDE9C9B, 0x3FDDAB5F, 0x3FDCBB28, 0x3FDBCBEE, 0x3FDADDAA, 0x3FD9F055, 0x3FD903E8, 0x3FD8185A, 0x3FD72DA7, 0x3FD643C6, 0x3FD55AB2, 0x3FD47263, 0x3FD38AD4, 0x3FD2A3FD, 0x3FD1BDD9, 0x3FD0D862, 0x3FCFF391, 0x3FCF0F61, 0x3FCE2BCC, 0x3FCD48CD, 0x3FCC665C, 0x3FCB8476, 0x3FCAA314, 0x3FC9C231, 0x3FC8E1C7, 0x3FC801D1, 0x3FC7224B, 0x3FC6432D, 0x3FC56475, 0x3FC4861B, 0x3FC3A81B, 0x3FC2CA71, 0x3FC1ED16]
/-- FP32 bits of xz[0] to xz[256], R229, part 4. -/
def zigX4 : List Nat := [0x3FC11007, 0x3FC0333D, 0x3FBF56B4, 0x3FBE7A68, 0x3FBD9E52, 0x3FBCC26E, 0x3FBBE6B8, 0x3FBB0B2A, 0x3FBA2FBF, 0x3FB95473, 0x3FB87940, 0x3FB79E22, 0x3FB6C313, 0x3FB5E80F, 0x3FB50D11, 0x3FB43214, 0x3FB35713, 0x3FB27C08, 0x3FB1A0EF, 0x3FB0C5C3, 0x3FAFEA7E, 0x3FAF0F1C, 0x3FAE3397, 0x3FAD57E9, 0x3FAC7C0E, 0x3FABA000, 0x3FAAC3BA, 0x3FA9E737, 0x3FA90A70, 0x3FA82D5F, 0x3FA75001, 0x3FA6724D, 0x3FA59440]
/-- FP32 bits of xz[0] to xz[256], R229, part 5. -/
def zigX5 : List Nat := [0x3FA4B5D2, 0x3FA3D6FD, 0x3FA2F7BC, 0x3FA21807, 0x3FA137D9, 0x3FA0572C, 0x3F9F75F7, 0x3F9E9435, 0x3F9DB1DE, 0x3F9CCEEB, 0x3F9BEB56, 0x3F9B0716, 0x3F9A2224, 0x3F993C77, 0x3F985608, 0x3F976ECF, 0x3F9686C3, 0x3F959DDB, 0x3F94B40E, 0x3F93C953, 0x3F92DDA0, 0x3F91F0EC, 0x3F91032C, 0x3F901455, 0x3F8F245D, 0x3F8E3338, 0x3F8D40DB, 0x3F8C4D39, 0x3F8B5846, 0x3F8A61F5, 0x3F896A38, 0x3F887102, 0x3F877642]
/-- FP32 bits of xz[0] to xz[256], R229, part 6. -/
def zigX6 : List Nat := [0x3F8679EB, 0x3F857BEC, 0x3F847C35, 0x3F837AB3, 0x3F827755, 0x3F817208, 0x3F806AB7, 0x3F7EC29C, 0x3F7CAB6D, 0x3F7A8FB3, 0x3F786F3C, 0x3F7649D6, 0x3F741F4A, 0x3F71EF5E, 0x3F6FB9D5, 0x3F6D7E70, 0x3F6B3CE9, 0x3F68F4F8, 0x3F66A650, 0x3F64509D, 0x3F61F388, 0x3F5F8EB1, 0x3F5D21B4, 0x3F5AAC24, 0x3F582D8B, 0x3F55A56B, 0x3F53133B, 0x3F507667, 0x3F4DCE4C, 0x3F4B1A3C, 0x3F485975, 0x3F458B25, 0x3F42AE63]
/-- FP32 bits of xz[0] to xz[256], R229, part 7. -/
def zigX7 : List Nat := [0x3F3FC22D, 0x3F3CC569, 0x3F39B6D7, 0x3F369515, 0x3F335E93, 0x3F30118E, 0x3F2CAC05, 0x3F292BAB, 0x3F258DDA, 0x3F21CF7C, 0x3F1DECF6, 0x3F19E1FE, 0x3F15A972, 0x3F113D14, 0x3F0C9535, 0x3F07A82A, 0x3F026991, 0x3EF99241, 0x3EED617B, 0x3EE00269, 0x3ED11861, 0x3EC00FE7, 0x3EABE5CA, 0x3E92857A, 0x3E5C685F, 0x0]
/-- FP32 bits of xz[0] to xz[256], R229. -/
def zigX : List Nat := zigX0 ++ zigX1 ++ zigX2 ++ zigX3 ++ zigX4 ++ zigX5 ++ zigX6 ++ zigX7
/-- FP32 bits of fz[0] to fz[256], R229, part 0. -/
def zigF0 : List Nat := [0x39FA54A3, 0x3AA5302E, 0x3B2AFCFA, 0x3B8450F8, 0x3BB4F547, 0x3BE70B08, 0x3C0D2C91, 0x3C275CB2, 0x3C420820, 0x3C5D2469, 0x3C78A952, 0x3C8A481A, 0x3C9869C4, 0x3CA6B758, 0x3CB52ED8, 0x3CC3CE8E, 0x3CD294FA, 0x3CE180CC, 0x3CF090D7, 0x3CFFC40F, 0x3D078CC1, 0x3D0F482D, 0x3D1713E7, 0x3D1EEF96, 0x3D26DAE8, 0x3D2ED592, 0x3D36DF4E, 0x3D3EF7DC, 0x3D471F01, 0x3D4F5488, 0x3D57983D, 0x3D5FE9F0, 0x3D684978]
/-- FP32 bits of fz[0] to fz[256], R229, part 1. -/
def zigF1 : List Nat := [0x3D70B6AA, 0x3D793161, 0x3D80DCBD, 0x3D852769, 0x3D8978A7, 0x3D8DD066, 0x3D922E9A, 0x3D969336, 0x3D9AFE2F, 0x3D9F6F79, 0x3DA3E70A, 0x3DA864D8, 0x3DACE8DB, 0x3DB17309, 0x3DB6035C, 0x3DBA99CB, 0x3DBF3650, 0x3DC3D8E5, 0x3DC88184, 0x3DCD3027, 0x3DD1E4CA, 0x3DD69F67, 0x3DDB5FFC, 0x3DE02683, 0x3DE4F2FA, 0x3DE9C55E, 0x3DEE9DAB, 0x3DF37BE0, 0x3DF85FF9, 0x3DFD49F6, 0x3E011CEB, 0x3E0397CA, 0x3E06159A]
/-- FP32 bits of fz[0] to fz[256], R229, part 2. -/
def zigF2 : List Nat := [0x3E089659, 0x3E0B1A07, 0x3E0DA0A5, 0x3E102A31, 0x3E12B6AD, 0x3E154619, 0x3E17D874, 0x3E1A6DC0, 0x3E1D05FD, 0x3E1FA12C, 0x3E223F4E, 0x3E24E063, 0x3E27846D, 0x3E2A2B6D, 0x3E2CD564, 0x3E2F8254, 0x3E32323D, 0x3E34E522, 0x3E379B04, 0x3E3A53E5, 0x3E3D0FC7, 0x3E3FCEAB, 0x3E429094, 0x3E455585, 0x3E481D7E, 0x3E4AE883, 0x3E4DB696, 0x3E5087BA, 0x3E535BF0, 0x3E56333D, 0x3E590DA3, 0x3E5BEB24, 0x3E5ECBC4]
/-- FP32 bits of fz[0] to fz[256], R229, part 3. -/
def zigF3 : List Nat := [0x3E61AF86, 0x3E64966D, 0x3E67807C, 0x3E6A6DB8, 0x3E6D5E23, 0x3E7051C1, 0x3E734896, 0x3E7642A5, 0x3E793FF3, 0x3E7C4084, 0x3E7F445C, 0x3E8125C0, 0x3E82AAF9, 0x3E8431DC, 0x3E85BA6C, 0x3E8744AB, 0x3E88D09A, 0x3E8A5E3E, 0x3E8BED97, 0x3E8D7EAA, 0x3E8F1178, 0x3E90A604, 0x3E923C51, 0x3E93D462, 0x3E956E3A, 0x3E9709DC, 0x3E98A74A, 0x3E9A4689, 0x3E9BE79B, 0x3E9D8A84, 0x3E9F2F47, 0x3EA0D5E7, 0x3EA27E67]
/-- FP32 bits of fz[0] to fz[256], R229, part 4. -/
def zigF4 : List Nat := [0x3EA428CD, 0x3EA5D51B, 0x3EA78354, 0x3EA9337E, 0x3EAAE59C, 0x3EAC99B1, 0x3EAE4FC2, 0x3EB007D4, 0x3EB1C1EA, 0x3EB37E09, 0x3EB53C35, 0x3EB6FC74, 0x3EB8BECA, 0x3EBA833B, 0x3EBC49CD, 0x3EBE1285, 0x3EBFDD69, 0x3EC1AA7C, 0x3EC379C5, 0x3EC54B4A, 0x3EC71F10, 0x3EC8F51D, 0x3ECACD77, 0x3ECCA824, 0x3ECE852B, 0x3ED06492, 0x3ED2465F, 0x3ED42A9A, 0x3ED6114A, 0x3ED7FA75, 0x3ED9E623, 0x3EDBD45C, 0x3EDDC527]
/-- FP32 bits of fz[0] to fz[256], R229, part 5. -/
def zigF5 : List Nat := [0x3EDFB88C, 0x3EE1AE93, 0x3EE3A746, 0x3EE5A2AC, 0x3EE7A0CE, 0x3EE9A1B5, 0x3EEBA56B, 0x3EEDABFA, 0x3EEFB56A, 0x3EF1C1C7, 0x3EF3D11B, 0x3EF5E371, 0x3EF7F8D4, 0x3EFA114E, 0x3EFC2CED, 0x3EFE4BBC, 0x3F0036E4, 0x3F01498F, 0x3F025DE5, 0x3F0373EE, 0x3F048BB1, 0x3F05A534, 0x3F06C081, 0x3F07DD9D, 0x3F08FC92, 0x3F0A1D69, 0x3F0B4029, 0x3F0C64DC, 0x3F0D8B8B, 0x3F0EB440, 0x3F0FDF05, 0x3F110BE5, 0x3F123AEB]
/-- FP32 bits of fz[0] to fz[256], R229, part 6. -/
def zigF6 : List Nat := [0x3F136C21, 0x3F149F94, 0x3F15D551, 0x3F170D63, 0x3F1847D8, 0x3F1984BE, 0x3F1AC424, 0x3F1C0619, 0x3F1D4AAD, 0x3F1E91F1, 0x3F1FDBF5, 0x3F2128CC, 0x3F22788A, 0x3F23CB43, 0x3F25210C, 0x3F2679FA, 0x3F27D627, 0x3F2935AB, 0x3F2A98A0, 0x3F2BFF21, 0x3F2D694D, 0x3F2ED743, 0x3F304925, 0x3F31BF15, 0x3F333939, 0x3F34B7BB, 0x3F363AC5, 0x3F37C286, 0x3F394F30, 0x3F3AE0F8, 0x3F3C781A, 0x3F3E14D4, 0x3F3FB76A]
/-- FP32 bits of fz[0] to fz[256], R229, part 7. -/
def zigF7 : List Nat := [0x3F416028, 0x3F430F60, 0x3F44C56A, 0x3F4682AA, 0x3F48478E, 0x3F4A148E, 0x3F4BEA33, 0x3F4DC914, 0x3F4FB1DF, 0x3F51A558, 0x3F53A45F, 0x3F55AFF8, 0x3F57C952, 0x3F59F1D4, 0x3F5C2B2A, 0x3F5E775A, 0x3F60D8E7, 0x3F6352F6, 0x3F65E99D, 0x3F68A24C, 0x3F6B8490, 0x3F6E9B7D, 0x3F71F88F, 0x3F75BAA3, 0x3F7A2356, 0x3F800000]
/-- FP32 bits of fz[0] to fz[256], R229. -/
def zigF : List Nat := zigF0 ++ zigF1 ++ zigF2 ++ zigF3 ++ zigF4 ++ zigF5 ++ zigF6 ++ zigF7

/-- xz[i] of R229. -/
def zigXAt (i : Nat) : F32 := BitVec.ofNat 32 (zigX.getD i 0)
/-- fz[i] of R229. -/
def zigFAt (i : Nat) : F32 := BitVec.ofNat 32 (zigF.getD i 0)

/-- FP32 x < y. -/
def f32Lt (x y : F32) : Bool := (valF32 x).lt (valF32 y) && !((valF32 x).isZero && (valF32 y).isZero)
/-- −x. -/
def f32Neg (x : F32) : F32 := x ^^^ 0x80000000#32

/-- The attempts of R230; none: 32 attempts failed. -/
def zigguratTry (key ctr : Nat) : Nat → Nat → Option F32
  | 0, _ => none
  | n + 1, t =>
    let b := rngBlock ((key + t) % 2 ^ 64) ctr
    let w0 := rngWord 0 b
    let i := w0 % 256
    let sgn (y : F32) : F32 := if (w0 >>> 8) % 2 = 1 then f32Neg y else y
    let x := f32Mul ((Val.fin false (w0 >>> 9) (-23)).f32) (zigXAt i)
    if f32Lt x (zigXAt (i + 1)) then some (sgn x)
    else if i = 0 then
      let a := f32Div (f32Ln (openOf (rngWord 2 b))) (zigXAt 1)
      let y := f32Neg (f32Ln (openOf (rngWord 3 b)))
      if f32Ge (f32Add y y) (f32Mul a a) then some (sgn (f32Sub (zigXAt 1) a))
      else zigguratTry key ctr n (t + 1)
    else
      let y := f32Add (zigFAt (i + 1)) (f32Mul (uniformOf (rngWord 1 b)) (f32Sub (zigFAt i) (zigFAt (i + 1))))
      if f32Lt y (f32Exp (f32Mul (f32Mul 0xBF000000#32 x) x)) then some (sgn x)
      else zigguratTry key ctr n (t + 1)

/-- A ziggurat normal, R230. -/
def ziggurat (key ctr : Nat) : Option F32 := zigguratTry key ctr 32 0

/-- u of R53 for a counter: w0[15:0] (R227). -/
def stochasticU (key ctr : Nat) : Nat := rngWord 0 (rngBlock key ctr) % 65536

/-- The rounding of one element of a descriptor, R52 and R54. -/
def roundingOf (mode key stream lower : Nat) : Rounding :=
  match mode with
  | 0 => .rne
  | 1 => .rtz
  | _ => .stochastic (stochasticU key (rngCtr stream lower))

end Sys2Proof.Machine
end

