-- ==== Sys2Proof/Machine/Operands.lean ====
section
/-! DEFINITION. Operand forms: rows of elements in any format of R74 read from and written to memory with their poison
(R79), the address rule of R75, and the reasons a command gives. -/
namespace Sys2Proof.Machine

/-- A row of elements as read: values, poison by element, origin reasons met (R524). -/
structure Row where
  vals : List Val
  bad : List Bool
  origins : List Nat
  deriving DecidableEq, Repr

/-- Poison by byte of a row whose elements are poisoned as `bad` says; in a block-scaled format the scale depends on
every element of its block, so the block is poisoned whole (R79, log entry 10). -/
def badBytes (f : Fmt) (bad : List Bool) (len : Nat) : List Bool :=
  (List.range len).map (fun i =>
    if f.block = 0 then
      (if f.bits < 8 then bad.getD (2 * i) false || bad.getD (2 * i + 1) false else bad.getD (i / (f.bits / 8)) false)
    else
      let g := i / f.groupBytes
      let o := i % f.groupBytes
      let b := if o < 32 then o else (o - 32) / (f.block * f.bits / 8)
      ((bad.drop (g * f.groupElems + b * f.block)).take f.block).any id)

/-- Data with its poisoned bytes replaced by what poisoned data holds. -/
def maskBad (a : Nat) (data : List Byte) (bad : List Bool) : List Byte :=
  ((List.range data.length).zip (data.zip bad)).map (fun p => if p.2.2 then Config.poisonByte (a + p.1) else p.2.1)

/-- Blocks of a G8E row whose scale is 0xFF: each group of 544 bytes begins with its 32 scales (R49, R51). -/
def nanBlocks (data : List Byte) : Nat :=
  ((List.range data.length).zip data).foldl (fun n p => if p.1 % 544 < 32 ∧ p.2 = 0xFF#8 then n + 1 else n) 0

namespace World

/-- Consumption of poison that an earlier command wrote is a contained error of the husk (R79, R447; log entry 16):
one event for a row, at its first poisoned byte; poison met at its origin was recorded there. -/
def consumed (w : World) (c : Ctx) (va : Nat) (r : Rd) : World :=
  if r.anyBad && r.origins.isEmpty then w.contained c.husk c.master 1 0x0010 (va + (r.bad.takeWhile (fun b => !b)).length)
  else w

/-- Read `n` elements of a row at a virtual address. -/
def readRow (w : World) (c : Ctx) (f : Fmt) (va n : Nat) : Row × World :=
  let ((r, ok), w0) := w.readVirt c.husk c.master 1 va (f.rowBytes n)
  let w1 := if ok then w0.consumed c va r else w0
  let idx := List.range n
  (⟨idx.map (fun i => f.valAt r.data i), idx.map (fun i => f.elemBad r.bad i), r.origins⟩, w1)

/-- Read rows `ld` × 32 bytes apart. -/
def readRows (w : World) (c : Ctx) (f : Fmt) (va ld rows n : Nat) : List Row × World :=
  (List.range rows).foldl (fun st i =>
    let (r, w1) := st.2.readRow c f (va + i * ld * 32) n
    (st.1 ++ [r], w1)) ([], w)

/-- Write a row of elements at a virtual address, poisoned elements poisoned; G8E blocks of scale 0xFF are counted for the husk
(R51, R272, R280). -/
def writeRow (w : World) (c : Ctx) (f : Fmt) (va : Nat) (vals : List Val) (bad : List Bool) (rs : List Rounding) : World :=
  let data := f.encodeRow vals rs
  let bb := badBytes f bad data.length
  let w1 := if f = .g8e then w.inc (oHuskGradNanBlocks c.husk) (nanBlocks data) else w
  (w1.writeVirt c.husk c.master 2 va (maskBad va data bb) bb).2

/-- Does an operand of `rows` rows satisfy the address rule of R75: 32-byte aligned, every row in the scratch of the
engine's own slice? -/
def operandOk (w : World) (c : Ctx) (f : Fmt) (va ld rows n : Nat) (need : Need) : Bool :=
  va % 32 == 0 && (List.range rows).all (fun i => w.inScratch c.husk c.slice (va + i * ld * 32) (f.rowBytes n) need)

/-- The ranges that this check walks: none where the address is not aligned. -/
def operandSpans (f : Fmt) (va ld rows n : Nat) (need : Need) : List Span :=
  if va % 32 = 0 then (List.range rows).map (fun i => (va + i * ld * 32, f.rowBytes n, need)) else []

/-- The mode of rounding of each element of a row whose first element has this index in the logical destination
(R54, R77). -/
def rowRounds (c : Ctx) (mode stream base n : Nat) : List Rounding :=
  (List.range n).map (fun i => roundingOf mode c.key stream (base + i))

end World

/-- Reason and status of a command that met poison (R79, R524): STATUS 2, the first origin reason or
POISON_CONSUMED; STATUS 0 otherwise. -/
def poisonOutcome (bad : Bool) (origins : List Nat) : Nat × Nat :=
  if bad then (2, (origins.head?).getD 0x0010) else (0, 0)

/-- Every poison mark of a list of rows. -/
def rowsBad (rs : List Row) : Bool := rs.any (fun r => r.bad.any id)
/-- Every origin reason of a list of rows, in order. -/
def rowsOrigins (rs : List Row) : List Nat := (rs.map (fun r => r.origins)).flatten

/-- The first failed check of a list: its reason. -/
def firstFail : List (Bool × Nat) → Option Nat
  | [] => none
  | (ok, reason) :: t => if ok then firstFail t else some reason

/-- Element (m, n) of a list of rows of FP32 values. -/
def f32At (rows : List Row) (m n : Nat) : F32 :=
  match rows[m]? with
  | some r => match r.vals[n]? with
    | some v => v.f32
    | none => f32Zero
  | none => f32Zero

/-- Poison of element (m, n). -/
def badAt (rows : List Row) (m n : Nat) : Bool :=
  match rows[m]? with
  | some r => r.bad.getD n false
  | none => false

end Sys2Proof.Machine
end

