-- ==== Sys2Proof/Machine/Matrix.lean ====
section
/-! DEFINITION. Matrix-engine commands (R70 to R79, R85 to R87): GEMM, DRAIN, CLEAR and NOP, gather-feed and the
sending and taking of chain sets. -/
namespace Sys2Proof.Machine

/-! ### Fields of the command, R75 -/

def gM (c : Nat) : Nat := fld c 32 8 + 1
def gN (c : Nat) : Nat := fld c 40 8 + 1
def gK (c : Nat) : Nat := fld c 64 24
def gKfirst (c : Nat) : Nat := fld c 88 24
def gFmtA (c : Nat) : Option Fmt := Fmt.ofCode (fld c 8 4)
def gFmtB (c : Nat) : Option Fmt := Fmt.ofCode (fld c 12 4)
def gFmtC (c : Nat) : Option Fmt := Fmt.ofCode (fld c 16 4)
def gRound (c : Nat) : Nat := fld c 20 2
def gCinit (c : Nat) : Nat := fld c 22 2
def gOut (c : Nat) : Nat := fld c 24 2
def gGf (c : Nat) : Bool := bitAt c 26
def gPeer (c : Nat) : Nat := fld c 600 16
def gPieces (c : Nat) : Nat := fld c 304 16
def gPieceChunks (c : Nat) : Nat := fld c 368 16
def gFlagAddr (c : Nat) : Nat := fld c 320 48
def gFlagSeq (c : Nat) : Nat := fld c 640 32
def gAddrA (c : Nat) : Nat := fld c 128 48
def gLda (c : Nat) : Nat := fld c 112 16
def gAddrB (c : Nat) : Nat := fld c 192 48
def gLdb (c : Nat) : Nat := fld c 176 16
def gAddrC (c : Nat) : Nat := fld c 256 48
def gLdc (c : Nat) : Nat := fld c 240 16
def gSa (c : Nat) : Nat := fld c 704 48
def gSb (c : Nat) : Nat := fld c 768 48
def gStream (c : Nat) : Nat := fld c 384 64
def gCtr (c : Nat) : Nat := fld c 448 64
def gRow0 (c : Nat) : Nat := fld c 512 32
def gCol0 (c : Nat) : Nat := fld c 544 24
def gLdlog (c : Nat) : Nat := fld c 576 24

/-- The RSVD bits of R75 that must be 0. -/
def gReserved (c : Nat) : Bool :=
  rsvd c 816 208 && rsvd c 752 16 && rsvd c 672 32 && rsvd c 616 24 && rsvd c 568 8 && rsvd c 29 2

/-- Are both operands INT8, so that row scales apply (R50, R76)? -/
def gInt8 (c : Nat) : Bool := gFmtA c == some .int8 && gFmtB c == some .int8

/-- Are the operand formats a pairing of R58? -/
def gPair (c : Nat) : Bool :=
  match gFmtA c, gFmtB c with
  | some a, some b => pairAllowed a b
  | _, _ => false

/-- Format in which C is written: FP32 for OUT = 1, FMT_C for OUT = 2. -/
def gOutFmt (c : Nat) : Fmt := if gOut c = 2 then (gFmtC c).getD .f32 else .f32

namespace World

/-- The matrix engine (or command block) with this master identifier. -/
def engine (w : World) (m : Nat) : Engine := w.dev.engines.getD m ⟨.empty, []⟩
/-- Set an engine. -/
def setEngine (w : World) (m : Nat) (e : Engine) : World :=
  { w with dev := { w.dev with engines := w.dev.engines.put m e } }
/-- A bank of an engine. -/
def bank (w : World) (m b : Nat) : Bank := (w.engine m).banks.getD b ⟨.empty, []⟩
/-- Set a bank. -/
def setBank (w : World) (m b : Nat) (x : Bank) : World :=
  w.setEngine m { w.engine m with banks := (w.engine m).banks.put b x }

/-- Is the slice one the husk owns or holds under a grant of R335 (it runs there now)? -/
def holdsSlice (w : World) (h s : Nat) : Bool := (w.slicesOf h).elem s || w.running s == h

/-- May a command of husk h name this chain peer: an engine of the given type on a slice the husk holds, or a
collective engine (R78)? -/
def peerOk (w : World) (h ty peer : Nat) : Bool :=
  if masterType peer = 0xA then decide (masterIndex peer < 2)
  else if masterType peer ≠ ty then false
  else if ty = 0x1 then w.holdsSlice h (masterIndex peer / 8) && decide (masterIndex peer < 128)
  else decide (masterIndex peer < 16) && w.holdsSlice h (masterIndex peer)

/-- Fields and formats that a GEMM or GEMM_BSTREAM must satisfy before its addresses: reason of the first that fails
(R52, R58, R59, R74, R75, R78, R85, R342). M_MINUS1 runs to 127 only (log entry 43). GF_OPERAND is not read: both operands are
read once every piece is present (log entry 154). -/
def gemmFieldFail (w : World) (c : Ctx) (cmd : Nat) : Option Nat :=
  let filler := match c.ring with
    | .filler _ _ => true
    | _ => false
  firstFail [
    (gReserved cmd, 0x0003),
    (gRound cmd != 3, 0x0003),
    ((gFmtA cmd).isSome && (gFmtB cmd).isSome && (gOut cmd != 2 || (gFmtC cmd).isSome), 0x0003),
    (gK cmd != 0 && decide (gM cmd ≤ 128), 0x0003),
    (gOut cmd != 3 || w.peerOk c.husk 0x1 (gPeer cmd), 0x0003),
    (!filler || (!gGf cmd && (gCinit cmd == 0 || gCinit cmd == 2) && (gOut cmd == 1 || gOut cmd == 2)), 0x0003),
    (!gGf cmd || (gPieces cmd != 0 && gPieceChunks cmd != 0
      && decide (gK cmd ≤ 32 * gPieceChunks cmd * gPieces cmd) && decide (32 * gPieceChunks cmd * (gPieces cmd - 1) < gK cmd)), 0x0003),
    (gPair cmd, 0x0002),
    (!c.canonical || gKfirst cmd % 32 == 0, 0x0001)]

/-- The addresses of C, the scales and the flags (R75). -/
def gemmOutOk (w : World) (c : Ctx) (cmd : Nat) : Bool :=
  let m := gM cmd
  let n := gN cmd
  (gOut cmd == 0 || gOut cmd == 3 || w.operandOk c (gOutFmt cmd) (gAddrC cmd) (gLdc cmd) m n .wr)
    && (!gInt8 cmd || gOut cmd == 0 || gOut cmd == 3
      || (w.operandOk c .f32 (gSa cmd) 0 1 m .rd && w.operandOk c .f32 (gSb cmd) 0 1 n .rd))

/-- The ranges of C, the scales and the flags. -/
def gemmOutSpans (cmd : Nat) : List Span :=
  (if gOut cmd = 1 ∨ gOut cmd = 2 then operandSpans (gOutFmt cmd) (gAddrC cmd) (gLdc cmd) (gM cmd) (gN cmd) .wr
      ++ (if gInt8 cmd then operandSpans .f32 (gSa cmd) 0 1 (gM cmd) .rd ++ operandSpans .f32 (gSb cmd) 0 1 (gN cmd) .rd else [])
    else [])

/-- The ranges of A, of C as it is read, and of the flags. -/
def gemmInSpans (cmd : Nat) : List Span :=
  operandSpans ((gFmtA cmd).getD .f32) (gAddrA cmd) (gLda cmd) (gM cmd) (gK cmd) .rd
    ++ (if gCinit cmd = 2 then operandSpans .f32 (gAddrC cmd) (gLdc cmd) (gM cmd) (gN cmd) .rd else [])
    ++ (if gGf cmd ∧ gFlagAddr cmd % 32 = 0 then [(gFlagAddr cmd, 8 * gPieces cmd, .rd)] else [])

/-- The ranges that the check of a GEMM's addresses walks. -/
def gemmSpans (cmd : Nat) : List Span :=
  operandSpans ((gFmtB cmd).getD .f32) (gAddrB cmd) (gLdb cmd) (gN cmd) (gK cmd) .rd ++ gemmInSpans cmd ++ gemmOutSpans cmd

/-- The addresses of a GEMM. -/
def gemmAddrOk (w : World) (c : Ctx) (cmd : Nat) : Bool :=
  w.operandOk c ((gFmtA cmd).getD .f32) (gAddrA cmd) (gLda cmd) (gM cmd) (gK cmd) .rd
    && w.operandOk c ((gFmtB cmd).getD .f32) (gAddrB cmd) (gLdb cmd) (gN cmd) (gK cmd) .rd
    && (gCinit cmd != 2 || w.operandOk c .f32 (gAddrC cmd) (gLdc cmd) (gM cmd) (gN cmd) .rd)
    && (!gGf cmd || (gFlagAddr cmd % 32 == 0 && w.inScratch c.husk c.slice (gFlagAddr cmd) (8 * gPieces cmd) .rd))
    && w.gemmOutOk c cmd

/-- The flag of gather-feed piece i: its reason when it is present (R85). -/
def flagPresent (w : World) (c : Ctx) (addr seq : Nat) : Option Nat :=
  match w.peek c.husk addr .rd with
  | none => none
  | some pa =>
    let v := w.num pa 8
    if fld v 0 32 = seq then some (fld v 32 16) else none

/-- Write the tile of FP32 values to C as OUT selects, INT8 row scales applied (R50, R76, R77). -/
def writeTile (w : World) (c : Ctx) (cmd : Nat) (vals : Nat → Nat → F32) (bad : Nat → Nat → Bool) : World × List Nat × Bool :=
  let m := gM cmd
  let n := gN cmd
  if gOut cmd = 1 ∨ gOut cmd = 2 then
    let (sa, w1) := if gInt8 cmd then w.readRow c .f32 (gSa cmd) m else (⟨[], [], []⟩, w)
    let (sb, w2) := if gInt8 cmd then w1.readRow c .f32 (gSb cmd) n else (⟨[], [], []⟩, w1)
    let scaled (i j : Nat) : F32 :=
      if gInt8 cmd then f32Mul (f32Mul (vals i j) (f32At [sa] 0 i)) (f32At [sb] 0 j) else vals i j
    let isBad (i j : Nat) : Bool := bad i j || sa.bad.getD i false || sb.bad.getD j false
    let w3 := w2.each (List.range m) (fun w i =>
      let rs := if gOut cmd = 2 then
          World.rowRounds c (gRound cmd) (gStream cmd) (gCtr cmd + (gRow0 cmd + i) * gLdlog cmd + gCol0 cmd) n
        else List.replicate n Rounding.rne
      w.writeRow c (gOutFmt cmd) (gAddrC cmd + i * gLdc cmd * 32) ((List.range n).map (fun j => valF32 (scaled i j)))
        ((List.range n).map (isBad i)) rs)
    (w3, sa.origins ++ sb.origins, sa.bad.any id || sb.bad.any id)
  else (w, [], false)

/-- The values of a tile of a bank, by row. -/
def tileOf (x : Bank) (m n : Nat) : List F32 :=
  ((List.range m).map (fun i => (List.range n).map (fun j => x.vals.getD (i * 256 + j) f32Zero))).flatten

/-- A tile with these elements put into a bank; the other elements stay. -/
def putTile (x : Bank) (m n : Nat) (v : Nat → Nat → F32) (bad : Nat → Nat → Bool) : Bank :=
  let ij := ((List.range m).map (fun i => (List.range n).map (fun j => (i, j)))).flatten
  ij.foldl (fun x p => ⟨x.vals.put (p.1 * 256 + p.2) (v p.1 p.2),
    if bad p.1 p.2 then setInsert (p.1 * 256 + p.2) x.bad else setErase (p.1 * 256 + p.2) x.bad⟩) x

/-- One element of a product: canonical order from c_init; with canonical mode off the pieces of a gather-feed are added
in the order their flags were set, and a received running value is added once to the partial from +0 (R68, R78, R86). -/
def productElem (canonical chained : Bool) (first pieceLen : Nat) (order : List Nat) (ci : F32) (pairs : List (Val × Val)) : F32 :=
  if canonical then canonicalDot ci first pairs
  else
    let start := if chained then f32Zero else ci
    let part := match order with
      | [] => canonicalDot start first pairs
      | _ => order.foldl (fun acc i => canonicalDot acc (first + pieceLen * i) ((pairs.drop (pieceLen * i)).take pieceLen)) start
    if chained then f32Add ci part else part

/-- Compute a product of operand rows into the bank and write it as OUT selects; the command then finishes, or waits
for its chain peer to accept the set (R76 to R79). `ci` is the taken chain set of CINIT = 3. -/
def product (w : World) (c : Ctx) (cmd : Nat) (a b : List Row) (set : Option ChainSet) (pieces : List (Nat × Nat)) :
    World × Nat × Nat :=
  let m := gM cmd
  let n := gN cmd
  let old := w.bank c.master (cmdBank cmd)
  let (crows, w1) := if gCinit cmd = 2 then w.readRows c .f32 (gAddrC cmd) (gLdc cmd) m n else ([], w)
  let ci (i j : Nat) : F32 := match gCinit cmd with
    | 1 => old.vals.getD (i * 256 + j) f32Zero
    | 2 => f32At crows i j
    | 3 => match set with
      | some s => s.values.getD (i * n + j) f32Zero
      | none => f32Zero
    | _ => f32Zero
  let ciBad (i j : Nat) : Bool := match gCinit cmd with
    | 1 => old.bad.elem (i * 256 + j)
    | 2 => badAt crows i j
    | 3 => match set with
      | some s => s.bad.elem (i * n + j)
      | none => false
    | _ => false
  let pieceReason := (pieces.find? (fun p => p.2 != 0)).map (fun p => p.2)
  let order := if gGf cmd then pieces.map (fun p => p.1) else []
  let bad (i j : Nat) : Bool := ciBad i j || pieceReason.isSome
    || ((a[i]?).map (fun r => r.bad.any id)).getD false || ((b[j]?).map (fun r => r.bad.any id)).getD false
  let val (i j : Nat) : F32 := productElem c.canonical (gCinit cmd == 3) (gKfirst cmd) (32 * gPieceChunks cmd) order (ci i j)
    ((((a[i]?).map (fun r => r.vals)).getD []).zip (((b[j]?).map (fun r => r.vals)).getD []))
  let bk := putTile old m n val bad
  let w2 := w1.setBank c.master (cmdBank cmd) bk
  let (w3, o, sbad) := w2.writeTile c cmd (fun i j => bk.vals.getD (i * 256 + j) f32Zero) (fun i j => bk.bad.elem (i * 256 + j))
  let anyBad := sbad || (List.range m).any (fun i => (List.range n).any (fun j => bad i j))
  let (st, rs) := poisonOutcome anyBad (pieceReason.toList ++ rowsOrigins crows ++ rowsOrigins a ++ rowsOrigins b ++ o)
  (w3, st, rs)

/-- The operand rows of a GEMM. -/
def gemmRows (w : World) (c : Ctx) (cmd : Nat) : List Row × List Row × World :=
  let (a, w1) := w.readRows c ((gFmtA cmd).getD .f32) (gAddrA cmd) (gLda cmd) (gM cmd) (gK cmd)
  let (b, w2) := w1.readRows c ((gFmtB cmd).getD .f32) (gAddrB cmd) (gLdb cmd) (gN cmd) (gK cmd)
  (a, b, w2)

/-- What a product command waits for next, given the pieces present and the sets its engine holds. -/
def productWait (w : World) (c : Ctx) (cmd : Nat) (pieces : List (Nat × Nat)) : Wait :=
  if gGf cmd && decide (pieces.length < gPieces cmd) then .feed
  else if gCinit cmd = 3 ∧ (w.engine c.master).sets.isEmpty then .chainIn
  else .done

/-- Run a product whose waits are over, on rows that `rows` gives: take the chain set, reject a set of another size,
compute, and say what the command waits for then (R78). -/
def runProduct (w : World) (c : Ctx) (cmd : Nat) (pieces : List (Nat × Nat))
    (rows : World → List Row × List Row × World) : World × Wait × Nat × Nat :=
  let e := w.engine c.master
  let set := if gCinit cmd = 3 then e.sets.head? else none
  let w1 := if gCinit cmd = 3 then w.setEngine c.master { e with sets := e.sets.drop 1 } else w
  let mismatch := match set with
    | some s => s.m != gM cmd || s.n != gN cmd
    | none => false
  if mismatch then (w1, .done, 1, 0x0003)
  else
    let (a, b, w2) := rows w1
    let (w3, st, rs) := w2.product c cmd a b set pieces
    (w3, if gOut cmd = 3 then .chainOut else .done, st, rs)

/-- Enter a command with the outcome of its computation. -/
def enterProduct (w : World) (c : Ctx) (cmd : Nat) (pieces : List (Nat × Nat)) (wait : Wait) (status reason : Nat) : World :=
  w.enterTaken c ⟨cmd, cmdTag cmd, status, reason, wait, c.husk, c.canonical, c.key, w.now, w.now, masterIndex c.master % 8, pieces, []⟩

/-- The pieces whose flags are present now, in the order in which the flags were set (R86); of those that no collective engine set
the order is not known, and they come first, ascending (log entry 153). -/
def piecesNow (w : World) (c : Ctx) (cmd : Nat) : List (Nat × Nat) :=
  let present := (List.range (gPieces cmd)).filterMap (fun i =>
    (w.flagPresent c (gFlagAddr cmd + 8 * i) (gFlagSeq cmd)).map (fun r => (i, r)))
  let place (i : Nat) : Option Nat := w.peek c.husk (gFlagAddr cmd + 8 * i) .rd
  let set (a : Nat) : List (Nat × Nat) := present.filter (fun p => place p.1 == some a)
  if gGf cmd then
    present.filter (fun p => !(place p.1).any (fun a => w.dev.flagSets.elem a)) ++ (w.dev.flagSets.reverse.map set).flatten
  else []

/-- GEMM taken, R76. -/
def gemmTake (w : World) (c : Ctx) (cmd : Nat) : World :=
  match w.gemmFieldFail c cmd with
  | some r => w.finished c cmd 1 r
  | none =>
    if !w.gemmAddrOk c cmd then w.rejected c cmd 0x0004 (gemmSpans cmd)
    else
      let ps := w.piecesNow c cmd
      match w.productWait c cmd ps with
      | .done =>
        let (w1, wait, st, rs) := w.runProduct c cmd ps (fun w => w.gemmRows c cmd)
        w1.enterProduct c cmd ps wait st rs
      | wait => w.enterProduct c cmd ps wait 0 0

/-- DRAIN taken, R76. -/
def drainTake (w : World) (c : Ctx) (cmd : Nat) : World :=
  let filler := match c.ring with
    | .filler _ _ => true
    | _ => false
  match firstFail [(gReserved cmd, 0x0003), (gRound cmd != 3, 0x0003),
      ((gFmtA cmd).isSome && (gFmtB cmd).isSome && (gOut cmd != 2 || (gFmtC cmd).isSome), 0x0003), (decide (gM cmd ≤ 128), 0x0003),
      (gOut cmd != 3 || w.peerOk c.husk 0x1 (gPeer cmd), 0x0003),
      (!filler || (!gGf cmd && (gCinit cmd == 0 || gCinit cmd == 2) && (gOut cmd == 1 || gOut cmd == 2)), 0x0003),
      (gPair cmd, 0x0002), (w.gemmOutOk c cmd, 0x0004)] with
  | some r => w.rejected c cmd r (gemmOutSpans cmd)
  | none =>
    let bk := w.bank c.master (cmdBank cmd)
    let bad (i j : Nat) : Bool := bk.bad.elem (i * 256 + j)
    let (w1, o, sbad) := w.writeTile c cmd (fun i j => bk.vals.getD (i * 256 + j) f32Zero) bad
    let anyBad := sbad || (gOut cmd != 0 && (List.range (gM cmd)).any (fun i => (List.range (gN cmd)).any (fun j => bad i j)))
    let (st, rs) := poisonOutcome anyBad o
    w1.enterProduct c cmd [] (if gOut cmd = 3 then .chainOut else .done) st rs

/-- CLEAR taken, R76: the bank is +0. -/
def clearTake (w : World) (c : Ctx) (cmd : Nat) : World :=
  if !gReserved cmd then w.finished c cmd 1 0x0003
  else (w.setBank c.master (cmdBank cmd) ⟨.empty, []⟩).finished c cmd 0 0

/-- NOP taken, R75: nothing is computed; a set RSVD bit, which `clear` finds, rejects it (R522; a NOP uses no
other field). -/
def nopTake (clear : Nat → Bool) (w : World) (c : Ctx) (cmd : Nat) : World :=
  if clear cmd then w.finished c cmd 0 0 else w.finished c cmd 1 0x0003

/-- The ring serves a matrix engine. -/
def isMatrixRing : RingRef → Bool
  | .slice _ q _ => decide (q.val < 8)
  | .filler _ u => decide (u.val < 8)
  | .coll _ _ => false

/-- Take the command at the head of a matrix-engine ring when its opcode is `op`. -/
def meTake (w : World) (r : RingRef) (op : Nat) (f : World → Ctx → Nat → World) : World :=
  if !isMatrixRing r then w
  else match w.takeEntry r (fun cmd => cmdOp cmd == op) with
    | none => w
    | some (cmd, w1) => f w1 (w1.ctx r) cmd

/-- A missing gather-feed piece passes ComputeFeedTimeout, R87. -/
def gfTimeout (w : World) (r : RingRef) : World :=
  match w.takenWith r .feed with
  | none => w
  | some t =>
    if w.now < t.since + w.rd oComputeFeedTimeout then w
    else (w.finishWait r .feed 1 0x0005).contained t.husk (ringMaster r) 0x21 0x0005 (gFlagAddr t.cmd)

end World

/-- ME_NOP, R75. -/
def execMeNop (r : RingRef) (s : State) : Host.Outcome State Fault Refusal :=
  s.done (fun w => w.meTake r 0 (World.nopTake gReserved))

/-- GEMM, R76. -/
def execGemm (r : RingRef) (s : State) : Host.Outcome State Fault Refusal :=
  s.done (fun w => w.meTake r 1 World.gemmTake)

/-- DRAIN, R76. -/
def execDrain (r : RingRef) (s : State) : Host.Outcome State Fault Refusal :=
  s.done (fun w => w.meTake r 3 World.drainTake)

/-- CLEAR, R76. -/
def execClear (r : RingRef) (s : State) : Host.Outcome State Fault Refusal :=
  s.done (fun w => w.meTake r 4 World.clearTake)

/-- FEED_TIMEOUT, R87. -/
def execFeedTimeout (r : RingRef) (s : State) : Host.Outcome State Fault Refusal :=
  s.done (fun w => w.gfTimeout r)

end Sys2Proof.Machine
end

