-- ==== Sys2Proof/Machine/Nmu.lean ====
section
/-! DEFINITION. Stored tiles and the products made from them (R105 to R122): the tiles they use,
overlays, NMU commands and GEMM_BSTREAM. -/
namespace Sys2Proof.Machine

namespace World

/-- Read an overlay tile, R120: poisoned with OVERLAY_TILE_INVALID when its checksum or header fails. -/
def readOverlayTile (w : World) (h : Nat) (e : OverlayEnt) (r : MatrixRec) (master acc : Nat) : Tile × World :=
  match Fmt.ofCode r.fmt with
  | none => (⟨[], some 0x040C⟩, w)
  | some f =>
    let (d, w1) := if e.kind = 0 then
        (let ((d, ok), w1) := w.readVirt h master acc e.addr (tileStride f)
         ((if ok then d else Rd.poison e.addr (tileStride f) []), w1))
      else ((if inReserve e.addr then w.mirrorHeal e.addr (tileStride f) otherReserve else w).readPhys (some h) master acc e.addr (tileStride f) 0)
    if d.anyBad then (⟨[], some (if d.origins.isEmpty then 0x040C else d.reason)⟩, w1)
    else if tileSumOk f d.data && leNat (d.data.take 16) == tileHeader e.image r.id e.tr e.tc r.fmt then
      (⟨(List.range 4096).map (fun i => f.valAt ((d.data.drop 16).take (tilePayload f)) i), none⟩, w1)
    else (⟨[], some 0x040C⟩, w1)

/-- The tile that a command of husk h uses, R120: a TRAINED entry, a REPAIR entry, else the stored tile. -/
def useTile (w : World) (h slot : Nat) (r : MatrixRec) (acc : Nat) (t : Nat × Nat) : Tile × World :=
  let hit (l : List OverlayEnt) := l.find? (fun e => e.valid && e.image == w.slotImage slot && e.matrix == r.id && e.tr == t.1 && e.tc == t.2)
  match tilePlace (w.imageInfo slot) r t.1 t.2 with
  | none => (⟨[], some 0x0401⟩, w)
  | some (n, pa) =>
    match hit (w.dev.acorn.overlays.getD h []) with
    | some e => w.readOverlayTile h e r (masterId 0x3 n) acc
    | none => match hit w.dev.acorn.repair with
      | some e => w.readOverlayTile h e r (masterId 0x3 n) acc
      | none => w.readStoredTile slot r t.1 t.2 pa (some h) (masterId 0x3 n) acc

/-- Read every tile of a list once; the results stand in the list's order. -/
def useTiles (w : World) (h slot : Nat) (r : MatrixRec) (acc : Nat) (ts : List (Nat × Nat)) : List Tile × World :=
  ts.foldl (fun st t =>
    let (x, w1) := st.2.useTile h slot r acc t
    (st.1 ++ [x], w1)) ([], w)

/-- Run `f` for a command that waited under the tables it was accepted under, R119. -/
def underTables {α : Type} (w : World) (r : RingRef) (cmd h : Nat) (f : World → World × α) : World × α :=
  match w.dev.acorn.pinned.find? (fun p => p.ring == ringKey r && p.cmd == cmd) with
  | none => f w
  | some p =>
    let (w1, x) := f (w.upAcorn (fun a => { a with overlays := a.overlays.put h p.overlays, repair := p.repair }))
    (w1.upAcorn (fun a => { a with overlays := w.dev.acorn.overlays, repair := w.dev.acorn.repair }), x)

/-- Before newer tables take effect: the waiting commands (of one husk, or of all) keep those they were accepted under. -/
def pinTables (w : World) (h : Option Nat) : World :=
  let old (k : Nat) (t : Taken) : Bool := w.dev.acorn.pinned.any (fun p => p.ring == k && p.cmd == t.cmd)
  let waits (k : Nat) (t : Taken) : Bool :=
    (t.wait == .chainIn || t.wait == .feed) && (h == none || h == some t.husk) && !t.aux.isEmpty && t.accepted != w.now && !old k t
  let new := (w.dev.rings.items.map (fun x => (x.2.taken.filter (waits x.1)).map (fun t =>
    (⟨x.1, t.cmd, w.dev.acorn.overlays.getD t.husk [], w.dev.acorn.repair⟩ : TablePin)))).flatten
  w.upAcorn (fun a => { a with pinned := a.pinned ++ new })

/-- Are the stacks that hold these tile rows powered (R103)? -/
def stacksUp (w : World) (r : MatrixRec) (tr0 n : Nat) : Bool :=
  r.bands.all (fun b => decide (tr0 + n ≤ b.tr0) || decide (b.tr0 + b.trCount ≤ tr0) || w.powered (16 + b.stack))

/-- Is the logic of stack a being re-initialised (R460): commands for it are held? -/
def stackReinit (w : World) (a : Nat) : Bool := w.reinitRuns (0x180 + 4 * a + 1)
/-- Does a command on these tile rows wait for a stack that is re-initialised? -/
def stacksHeld (w : World) (r : MatrixRec) (tr0 n : Nat) : Bool :=
  r.bands.any (fun b => decide (b.tr0 < tr0 + n) && decide (tr0 < b.tr0 + b.trCount) && w.stackReinit b.stack)

end World

/-- The element at a logical place of tiles read over `tr0..`, `tc0..`, `tcn` columns wide. -/
def tileVal (tiles : List Tile) (tcn : Nat) (n k : Nat) : Val :=
  match tiles[(n / 64) * tcn + k / 64]? with
  | some t => (t.vals[(n % 64) * 64 + k % 64]?).getD (.fin false 0 0)
  | none => .fin false 0 0

/-- The poison of that element. -/
def tileBad (tiles : List Tile) (tcn : Nat) (n k : Nat) : Option Nat :=
  match tiles[(n / 64) * tcn + k / 64]? with
  | some t => t.reason
  | none => none

/-- Rows `n < rows`, `k < cols` of the tiles as operand rows; `flip` reads columns (transposed). -/
def tileRows (tiles : List Tile) (tcn rows cols : Nat) (flip : Bool) : List Row :=
  (List.range rows).map (fun n => ⟨(List.range cols).map (fun k => if flip then tileVal tiles tcn k n else tileVal tiles tcn n k),
    (List.range cols).map (fun k => (if flip then tileBad tiles tcn k n else tileBad tiles tcn n k).isSome),
    ((List.range cols).filterMap (fun k => if flip then tileBad tiles tcn k n else tileBad tiles tcn n k)).take 1⟩)

/-! ### NMU commands, R111 -/

def nV (c : Nat) : Nat := fld c 32 7 + 1
def nMatrix (c : Nat) : Nat := fld c 64 32
def nTr0 (c : Nat) : Nat := fld c 96 16
def nTrCount (c : Nat) : Nat := fld c 112 16
def nTc0 (c : Nat) : Nat := fld c 128 16
def nTcCount (c : Nat) : Nat := fld c 144 16
def nLdx (c : Nat) : Nat := fld c 160 16
def nLdy (c : Nat) : Nat := fld c 176 16
def nX (c : Nat) : Nat := fld c 192 48
def nLdc (c : Nat) : Nat := fld c 240 16
def nY (c : Nat) : Nat := fld c 256 48
def nC (c : Nat) : Nat := fld c 320 48
def nC2 (c : Nat) : Nat := fld c 640 48
def nLdc2 (c : Nat) : Nat := fld c 688 16
/-- The RSVD bits of R111. -/
def nReserved (c : Nat) : Bool :=
  rsvd c 704 320 && rsvd c 368 16 && rsvd c 304 16 && rsvd c 39 9 && rsvd c 26 6 && rsvd c 568 8 && rsvd c 616 24
/-- The output format. -/
def nOutFmt (c : Nat) : Fmt := if gOut c = 2 then (gFmtC c).getD .f32 else .f32
/-- May the input be this format for tiles of this format (R58, R111)? -/
def nFmtOk (code tile : Nat) : Bool :=
  [0x3, 0x5, 0x6, 0x9].elem code && (match Fmt.ofCode code, Fmt.ofCode tile with
    | some a, some b => pairAllowed a b
    | _, _ => false)

/-- One vector's results of one orientation: chain values with poison. -/
structure NmuOut where
  vals : List (List F32)
  bad : List (List Bool)
  deriving DecidableEq, Repr

/-- y[v][n] (or g[v][k]) over tile rows `b`, R112: canonical order; with canonical mode off a received running value is
added once to the partial from +0 (R78), and the block sums are added in ascending order, one of the orders that R68 allows
(log entry 147). -/
def nmuProduct (canonical chained : Bool) (first : Nat) (x b : List Row) (ci : Nat → Nat → F32) (ciBad : Nat → Nat → Bool) : NmuOut :=
  let iv := (List.range x.length).zip x
  let jb := (List.range b.length).zip b
  ⟨iv.map (fun p => jb.map (fun q => World.productElem canonical chained first 0 [] (ci p.1 q.1) (p.2.vals.zip q.2.vals))),
   iv.map (fun p => jb.map (fun q => ciBad p.1 q.1 || p.2.bad.any id || q.2.bad.any id))⟩

namespace World

/-- Write one orientation's output, R77 and R112; the index n of R77 counts from the command's first output (log entry 148). -/
def nmuWrite (w : World) (c : Ctx) (cmd addr ld : Nat) (fmt : Fmt) (o : NmuOut) : World :=
  w.each ((List.range o.vals.length).zip (o.vals.zip o.bad)) (fun w p =>
    let n := p.2.1.length
    let rs := if gOut cmd = 2 then
        World.rowRounds c (gRound cmd) (gStream cmd) (gCtr cmd + (gRow0 cmd + p.1) * gLdlog cmd + gCol0 cmd) n
      else List.replicate n Rounding.rne
    w.writeRow c fmt (addr + p.1 * ld * 32) (p.2.1.map valF32) p.2.2 rs)

/-- Why an NMU command is rejected, R75, R78, R103, R111 and R114, and the image and matrix it runs on; a count of 0 tile rows
or columns is DESC_FIELD_INVALID (log entry 149). -/
def nmuCheck (w : World) (c : Ctx) (cmd : Nat) : Sum Nat (Nat × MatrixRec) :=
  let op := cmdOp cmd
  let both := op == 3
  match firstFail [
      (nReserved cmd, 0x0003), (gRound cmd != 3, 0x0003), (gOut cmd != 0, 0x0003), (gCinit cmd != 1, 0x0003),
      (gOut cmd != 2 || (gFmtC cmd).isSome, 0x0003), (nTrCount cmd != 0 && nTcCount cmd != 0, 0x0003),
      (gOut cmd != 3 || w.peerOk c.husk 0xF (gPeer cmd), 0x0003)] with
  | some r => .inl r
  | none =>
    match w.activeSlot c.husk with
    | none => .inl 0x040A
    | some slot =>
      match (w.imageInfo slot).records.find? (fun r => r.id == nMatrix cmd) with
      | none => .inl 0x0408
      | some r =>
        let nN := 64 * nTrCount cmd
        let kN := 64 * nTcCount cmd
        let fx := (Fmt.ofCode (fld cmd 8 4)).getD .f32
        let fy := (Fmt.ofCode (fld cmd 12 4)).getD .f32
        let f := nOutFmt cmd
        match firstFail [
          (decide (nTr0 cmd + nTrCount cmd ≤ matTrn r) && decide (nTc0 cmd + nTcCount cmd ≤ matTcn r) && (!both || decide (nV cmd ≤ 64)), 0x0409),
          (nFmtOk (fld cmd 8 4) r.fmt && (!both || nFmtOk (fld cmd 12 4) r.fmt), 0x0002),
          (w.stacksUp r (nTr0 cmd) (nTrCount cmd), 0x0302),
          (w.operandOk c fx (nX cmd) (nLdx cmd) (nV cmd) (if op = 2 then nN else kN) .rd, 0x0004),
          (!both || w.operandOk c fy (nY cmd) (nLdy cmd) (nV cmd) nN .rd, 0x0004),
          (gOut cmd == 3 || w.operandOk c f (nC cmd) (nLdc cmd) (nV cmd) (if op = 2 then kN else nN) .wr, 0x0004),
          (gCinit cmd != 2 || w.operandOk c .f32 (nC cmd) (nLdc cmd) (nV cmd) (if op = 2 then kN else nN) .rd, 0x0004),
          (!both || w.operandOk c f (nC2 cmd) (nLdc2 cmd) (nV cmd) kN .wr, 0x0004)] with
        | some e => .inl e
        | none => .inr (slot, r)

/-- A running value and whether it is poisoned, as a command that sends it keeps them; and back. -/
def keptVal (v : F32 × Bool) : Nat := v.1.toNat + (if v.2 then 2 ^ 32 else 0)
def keptF32 (n : Nat) : F32 := BitVec.ofNat 32 n
/-- The places of the poisoned ones. -/
def keptBad (l : List Nat) : List Nat := (List.range l.length).filter (fun i => decide (2 ^ 32 ≤ l.getD i 0))

/-- Compute an accepted NMU command (R112, R113, R122): its status and reason, and the values of the forward (or
transposed) set that OUT = 3 sends. The transposed product of NMU_BOTH starts from +0 and is written to C2 (log entry 20). -/
def nmuCompute (w : World) (c : Ctx) (cmd slot : Nat) (r : MatrixRec) (set : Option ChainSet) : World × Nat × Nat × List Nat :=
  let op := cmdOp cmd
  let tcn := nTcCount cmd
  let rows := 64 * nTrCount cmd
  let cols := 64 * tcn
  let ts := ((List.range (nTrCount cmd)).map (fun i => (List.range tcn).map (fun j => (nTr0 cmd + i, nTc0 cmd + j)))).flatten
  let (tiles, w1) := w.useTiles c.husk slot r (if op = 2 then 0x11 else 0x10) ts
  let fx := (Fmt.ofCode (fld cmd 8 4)).getD .f32
  let fy := (Fmt.ofCode (fld cmd 12 4)).getD .f32
  let (x, w2) := w1.readRows c fx (nX cmd) (nLdx cmd) (nV cmd) (if op = 2 then rows else cols)
  let (y, w3) := if op = 3 then w2.readRows c fy (nY cmd) (nLdy cmd) (nV cmd) rows else ([], w2)
  let outN := if op = 2 then cols else rows
  let (cr, w4) := if gCinit cmd = 2 then w3.readRows c .f32 (nC cmd) (nLdc cmd) (nV cmd) outN else ([], w3)
  let ci (v n : Nat) : F32 := match gCinit cmd with
    | 2 => f32At cr v n
    | 3 => match set with
      | some s => s.values.getD (v * outN + n) f32Zero
      | none => f32Zero
    | _ => f32Zero
  let ciBad (v n : Nat) : Bool := match gCinit cmd with
    | 3 => match set with
      | some s => s.bad.elem (v * outN + n)
      | none => false
    | _ => badAt cr v n
  let chained := gCinit cmd == 3
  let o1 := if op = 2 then nmuProduct c.canonical chained (64 * nTr0 cmd) x (tileRows tiles tcn cols rows true) ci ciBad
    else nmuProduct c.canonical chained (64 * nTc0 cmd) x (tileRows tiles tcn rows cols false) ci ciBad
  let w5 := if gOut cmd = 3 then w4 else w4.nmuWrite c cmd (nC cmd) (nLdc cmd) (nOutFmt cmd) o1
  let o2 := nmuProduct c.canonical false (64 * nTr0 cmd) y (tileRows tiles tcn cols rows true) (fun _ _ => f32Zero) (fun _ _ => false)
  let w6 := if op = 3 then w5.nmuWrite c cmd (nC2 cmd) (nLdc2 cmd) (nOutFmt cmd) o2 else w5
  let bad := o1.bad.any (fun l => l.any id) || (op == 3 && o2.bad.any (fun l => l.any id))
  let (st, rs) := poisonOutcome bad (tiles.filterMap (fun t => t.reason) ++ rowsOrigins x ++ rowsOrigins y ++ rowsOrigins cr)
  (w6, st, rs, (o1.vals.flatten.zip o1.bad.flatten).map keptVal)

/-- Run an NMU command whose chain set, if it takes one, is there: its wait, status, reason and the values to send. -/
def nmuRun (w : World) (c : Ctx) (cmd slot : Nat) (r : MatrixRec) : World × Wait × Nat × Nat × List Nat :=
  let e := w.engine c.master
  let set := if gCinit cmd = 3 then e.sets.head? else none
  let w1 := if gCinit cmd = 3 then w.setEngine c.master { e with sets := e.sets.drop 1 } else w
  let outN := 64 * (if cmdOp cmd = 2 then nTcCount cmd else nTrCount cmd)
  let mismatch := match set with
    | some s => s.m != nV cmd || s.n != outN
    | none => false
  if mismatch then (w1, .done, 1, 0x0003, [])
  else
    let (w2, st, rs, vs) := w1.nmuCompute c cmd slot r set
    (w2, if gOut cmd = 3 then .chainOut else .done, st, rs, if gOut cmd = 3 then slot :: vs else [slot])

/-- The ring of the NMU command block of a slice: queue 12 for the slice's owner. -/
def blockRing (w : World) (s : Fin 16) (q : Fin 16) : RingRef := .slice s q (Fin.ofNat 16 ((w.ownerOf s.val).getD 0))

/-- Take the command at the head of a queue of a slice's owner when its opcode is `op` (R334). -/
def blockTake (w : World) (s : Fin 16) (q : Fin 16) (op : Nat) (f : World → Ctx → Nat → World) : World :=
  let r := w.blockRing s q
  match w.takeEntry r (fun cmd => cmdOp cmd == op) with
  | none => w
  | some (cmd, w1) => f w1 (w1.ctx r) cmd

/-- The ranges that the check of an NMU command's addresses walks. -/
def nmuSpans (cmd : Nat) : List Span :=
  let op := cmdOp cmd
  let nN := 64 * nTrCount cmd
  let kN := 64 * nTcCount cmd
  operandSpans ((Fmt.ofCode (fld cmd 8 4)).getD .f32) (nX cmd) (nLdx cmd) (nV cmd) (if op = 2 then nN else kN) .rd
    ++ (if op = 3 then operandSpans ((Fmt.ofCode (fld cmd 12 4)).getD .f32) (nY cmd) (nLdy cmd) (nV cmd) nN .rd else [])
    ++ (if gOut cmd = 3 then [] else operandSpans (nOutFmt cmd) (nC cmd) (nLdc cmd) (nV cmd) (if op = 2 then kN else nN) .wr)
    ++ (if gCinit cmd = 2 then operandSpans .f32 (nC cmd) (nLdc cmd) (nV cmd) (if op = 2 then kN else nN) .rd else [])
    ++ (if op = 3 then operandSpans (nOutFmt cmd) (nC2 cmd) (nLdc2 cmd) (nV cmd) kN .wr else [])

/-- NMU_FWD, NMU_TRN and NMU_BOTH taken, R112; `aux` keeps the image slot and what a chain send carries. -/
def nmuTake (w : World) (c : Ctx) (cmd : Nat) : World :=
  match w.nmuCheck c cmd with
  | .inl r => w.rejected c cmd r (nmuSpans cmd)
  | .inr (slot, r) =>
    if w.stacksHeld r (nTr0 cmd) (nTrCount cmd) then w
    else if gCinit cmd = 3 ∧ (w.engine c.master).sets.isEmpty then w.waiting c cmd .chainIn [slot]
    else
      let (w1, wait, st, rs, aux) := w.nmuRun c cmd slot r
      w1.enterTaken c ⟨cmd, cmdTag cmd, st, rs, wait, c.husk, c.canonical, c.key, w.now, w.now, 0, [], aux⟩

/-! ### GEMM_BSTREAM, R116 -/

/-- The tile slot that B_ADDR names, by physical address: image slot, matrix, tile row and column. -/
def tileAt (w : World) (pa : Nat) : Option (Nat × MatrixRec × Nat × Nat) :=
  (List.range 16).findSome? (fun slot =>
    let info := w.imageInfo slot
    info.records.findSome? (fun r =>
      (List.range (matTrn r)).findSome? (fun tr => (List.range (matTcn r)).findSome? (fun tc =>
        match tilePlace info r tr tc with
        | some (_, a) => if a = pa then some (slot, r, tr, tc) else none
        | none => none))))

/-- Tiles a GEMM_BSTREAM covers: rows and columns of tiles from (tr0, tc0). -/
def bTiles (cmd tr0 tc0 : Nat) : List (Nat × Nat) × Nat :=
  let a := (gN cmd + 63) / 64
  let b := (gK cmd + 63) / 64
  let (nr, nc) := if bitAt cmd 31 then (b, a) else (a, b)
  (((List.range nr).map (fun i => (List.range nc).map (fun j => (tr0 + i, tc0 + j)))).flatten, nc)

/-- The operand rows of a GEMM_BSTREAM on an image slot: A from scratch, B from tiles. -/
def bstreamRows (w : World) (c : Ctx) (cmd slot : Nat) (r : MatrixRec) (tr0 tc0 : Nat) : List Row × List Row × World :=
  let (a, w1) := w.readRows c ((gFmtA cmd).getD .f32) (gAddrA cmd) (gLda cmd) (gM cmd) (gK cmd)
  let (ts, tcn) := bTiles cmd tr0 tc0
  let (tiles, w2) := w1.useTiles c.husk slot r 0x12 ts
  (a, tileRows tiles tcn (gN cmd) (gK cmd) (bitAt cmd 31), w2)

/-- Is a physical address in the acorn window? -/
def acornPa (pa : Nat) : Bool := decide (0x20000000000 ≤ pa) && decide (pa < 0x2C000000000)

/-- The header that the slot at a physical address holds: image, matrix, tile row and column; none where its checksum fails or
a codeword of it cannot be read (R107, R121). -/
def slotHeader (w : World) (pa : Nat) : Option (Nat × Nat × Nat × Nat) :=
  let hd := w.num pa 16
  let f := (Fmt.ofCode (fld hd 4 4)).getD .f32
  if isTileFmt (fld hd 4 4) && tileSumOk f (w.bytes pa (tileStride f)) && decide (w.rereadsOf pa (tileStride f) < 4) then
    some (fld hd 32 32, fld hd 96 32, fld hd 80 16, fld hd 64 16)
  else none

/-- Does an overlay or repair entry in force replace a tile for the husk (R120)? -/
def tileReplaced (w : World) (h slot : Nat) (r : MatrixRec) (tr tc : Nat) : Bool :=
  (w.dev.acorn.overlays.getD h [] ++ w.dev.acorn.repair).any (fun e =>
    e.valid && e.image == w.slotImage slot && e.matrix == r.id && e.tr == tr && e.tc == tc)

/-- What B_ADDR names, or why the command is rejected (R58, R75, R116): the physical address must lie in the acorn window, the
image must be the husk's active one, its matrix known, A's format paired with the tile's, K_FIRST and the range in place. The
tile that an overlay replaces in the active image is named by its place, whatever its slot holds (R116, R120). A last
`false` marks a first slot that cannot be read: its image slot, record, tile row and column. -/
def bstreamCheck (w : World) (c : Ctx) (cmd : Nat) : Sum Nat (Nat × MatrixRec × Nat × Nat × Bool) :=
  match w.peek c.husk (gAddrB cmd) .rd with
  | none => .inl 0x0004
  | some pa =>
    if !acornPa pa || gAddrB cmd % 32 != 0 then .inl 0x0004
    else match w.activeSlot c.husk with
      | none => .inl 0x040A
      | some slot =>
        let place := w.tileAt pa
        let covered : Bool := match place with
          | some (s, r, tr, tc) => s == slot && w.tileReplaced c.husk slot r tr tc
          | none => false
        let listed : Bool := match place with
          | some (s, r, tr, tc) => w.dev.acorn.poison.elem ⟨s, w.slotImage s, r.id, tr, tc⟩
          | none => false
        let header := match place with
          | some (_, r, tr, tc) => if covered then some (w.slotImage slot, r.id, tr, tc) else if listed then none else w.slotHeader pa
          | none => w.slotHeader pa
        match header with
        | none => (match place with
          | some (s, r, tr, tc) => .inr (s, r, tr, tc, false)
          | none => .inr (slot, ⟨0, 0, 0, 5, 0, []⟩, 0, 0, false))
        | some (image, id, tr, tc) =>
          if image ≠ w.slotImage slot then .inl 0x040A
          else match (w.imageInfo slot).records.find? (fun r => r.id == id) with
            | none => .inl 0x0408
            | some r =>
              let tb := bitAt cmd 31
              let first := 64 * (if tb then tr else tc)
              let nLim := if tb then r.cols - 64 * tc else r.rows - 64 * tr
              let kLim := if tb then r.rows - 64 * tr else r.cols - 64 * tc
              if !((Fmt.ofCode r.fmt).any (fun f => (gFmtA cmd).any (fun a => pairAllowed a f))) then .inl 0x0002
              else if gKfirst cmd ≠ first ∨ nLim < gN cmd ∨ kLim < gK cmd ∨ (gK cmd % 64 ≠ 0 ∧ gK cmd ≠ kLim) then .inl 0x0409
              else if !w.stacksUp r tr (((if tb then gK cmd else gN cmd) + 63) / 64) then .inl 0x0302
              else .inr (slot, r, tr, tc, true)

/-- The addresses of a GEMM_BSTREAM but B. -/
def bstreamAddrOk (w : World) (c : Ctx) (cmd : Nat) : Bool :=
  w.operandOk c ((gFmtA cmd).getD .f32) (gAddrA cmd) (gLda cmd) (gM cmd) (gK cmd) .rd
    && (gCinit cmd != 2 || w.operandOk c .f32 (gAddrC cmd) (gLdc cmd) (gM cmd) (gN cmd) .rd)
    && (!gGf cmd || (gFlagAddr cmd % 32 == 0 && w.inScratch c.husk c.slice (gFlagAddr cmd) (8 * gPieces cmd) .rd))
    && w.gemmOutOk c cmd

/-- The rows of a GEMM or, by the tiles its `aux` names, of a GEMM_BSTREAM; an `aux` that names the image slot only is that of
one whose first slot could not be read: every element of B is poisoned (R116). -/
def anyRows (w : World) (c : Ctx) (cmd : Nat) (aux : List Nat) : List Row × List Row × World :=
  if cmdOp cmd = 2 then
    if aux.length = 1 then
      let (a, w1) := w.readRows c ((gFmtA cmd).getD .f32) (gAddrA cmd) (gLda cmd) (gM cmd) (gK cmd)
      (a, List.replicate (gN cmd) ⟨List.replicate (gK cmd) (.fin false 0 0), List.replicate (gK cmd) true, [0x0401]⟩, w1)
    else match (w.imageInfo (aux.getD 0 0)).records.find? (fun r => r.id == aux.getD 1 0) with
      | some r => w.bstreamRows c cmd (aux.getD 0 0) r (aux.getD 2 0) (aux.getD 3 0)
      | none => w.gemmRows c cmd
  else w.gemmRows c cmd

/-- The read of a first slot that cannot be read, R121 and R122: an address that is no tile slot of an image is no tile to
list, and its read is counted only. -/
def firstSlotRead (w : World) (c : Ctx) (cmd slot : Nat) (r : MatrixRec) (tr tc : Nat) : World :=
  let pa := (w.peek c.husk (gAddrB cmd) .rd).getD 0
  let a := (pa - 0x20000000000) / 0x1800000000
  let n := masterId 0x3 (a * 256 + (pa - 0x20000000000) % 0x1800000000 / 0x18000000)
  if (w.tileAt pa).isSome then (w.readStoredTile slot r tr tc pa (some c.husk) n 0x12).2
  else w.inc (oAcornUncorrectable a) 1

/-- GEMM_BSTREAM taken, R116. -/
def bstreamTake (w : World) (c : Ctx) (cmd : Nat) : World :=
  match w.gemmFieldFail c cmd with
  | some r => w.finished c cmd 1 r
  | none =>
    if !w.bstreamAddrOk c cmd then w.rejected c cmd 0x0004 (gemmInSpans cmd ++ gemmOutSpans cmd)
    else match w.bstreamCheck c cmd with
      | .inl r => w.rejected c cmd r [(gAddrB cmd, 1, .rd)]
      | .inr (slot, r, tr, tc, good) =>
        if good && w.stacksHeld r tr (((if bitAt cmd 31 then gK cmd else gN cmd) + 63) / 64) then w else
        let aux := if good then [slot, r.id, tr, tc] else [(w.activeSlot c.husk).getD slot]
        let w0 := if good then w else w.firstSlotRead c cmd slot r tr tc
        let ps := w0.piecesNow c cmd
        let enter (w : World) (wait : Wait) (st rs : Nat) : World :=
          w.enterTaken c ⟨cmd, cmdTag cmd, st, rs, wait, c.husk, c.canonical, c.key, w.now, w.now, masterIndex c.master % 8, ps, aux⟩
        match w0.productWait c cmd ps with
        | .done =>
          let (w1, wait, st, rs) := w0.runProduct c cmd ps (fun w => w.anyRows c cmd aux)
          enter w1 wait st rs
        | wait => enter w0 wait 0 0

/-- A gather-feed piece becomes present, R86: the waiting command computes it; with all pieces present (and its chain
set, for CINIT = 3) the command runs. -/
def gfPiece (w : World) (r : RingRef) (piece : Nat) : World :=
  match w.takenWith r .feed with
  | none => w
  | some t =>
    let c := w.ctxOf r t
    if piece < gPieces t.cmd ∧ !(t.pieces.any (fun p => p.1 == piece)) then
      match w.flagPresent c (gFlagAddr t.cmd + 8 * piece) (gFlagSeq t.cmd) with
      | none => w
      | some reason =>
        let ps := t.pieces ++ [(piece, reason)]
        let upd (w : World) (wait : Wait) (st rs : Nat) : World :=
          w.modTaken r (fun u => u.wait == .feed) (fun u => { u with pieces := ps, wait := wait, status := st, reason := rs, since := w.now })
        match w.productWait c t.cmd ps with
        | .done =>
          let (w1, wait, st, rs) := w.underTables r t.cmd t.husk (fun w => w.runProduct c t.cmd ps (fun w => w.anyRows c t.cmd t.aux))
          upd w1 wait st rs
        | wait => upd w wait 0 0
    else w

end World

/-- GEMM_BSTREAM, R116. -/
def execGemmBstream (r : RingRef) (s : State) : Host.Outcome State Fault Refusal :=
  s.done (fun w => w.meTake r 2 World.bstreamTake)

/-- GF_PIECE_PRESENT, R86. -/
def execGfPiecePresent (r : RingRef) (piece : Nat) (s : State) : Host.Outcome State Fault Refusal :=
  s.done (fun w => w.gfPiece r piece)

/-- NMU_NOP, R111. -/
def execNmuNop (sl : Fin 16) (s : State) : Host.Outcome State Fault Refusal :=
  s.done (fun w => w.blockTake sl 12 0 (World.nopTake nReserved))

/-- NMU_FWD, R112. -/
def execNmuFwd (sl : Fin 16) (s : State) : Host.Outcome State Fault Refusal :=
  s.done (fun w => w.blockTake sl 12 1 World.nmuTake)

/-- NMU_TRN, R112. -/
def execNmuTrn (sl : Fin 16) (s : State) : Host.Outcome State Fault Refusal :=
  s.done (fun w => w.blockTake sl 12 2 World.nmuTake)

/-- NMU_BOTH, R112. -/
def execNmuBoth (sl : Fin 16) (s : State) : Host.Outcome State Fault Refusal :=
  s.done (fun w => w.blockTake sl 12 3 World.nmuTake)

end Sys2Proof.Machine
end

