-- ==== Sys2Proof/Machine/OdOps.lean ====
section
/-! DEFINITION. Dictionary requests (R407 to R415): who may read and write what, which values an object holds, and how a
request ends. A command that is a write of one object gives its own effect to `odCommand`. -/
namespace Sys2Proof.Machine

/-- Bits a type holds, R407. -/
def odBits : OdType → Nat
  | .bool => 1
  | .u8 => 8
  | .u16 => 16
  | .u32 => 32
  | .u64 => 64
  | .i32 => 32
  | .i64 => 64
  | .f32 => 32
  | .str => 0
  | .dom => 0

/-- Bytes of a scalar of the type, R407. -/
def odBytes : OdType → Nat
  | .bool => 1
  | .u8 => 1
  | .u16 => 2
  | .u32 => 4
  | .u64 => 8
  | .i32 => 4
  | .i64 => 8
  | .f32 => 4
  | .str => 0
  | .dom => 0

/-- Type code, R407. -/
def odTypeCode : OdType → Nat
  | .bool => 1
  | .u8 => 2
  | .u16 => 3
  | .u32 => 4
  | .u64 => 5
  | .i32 => 6
  | .i64 => 7
  | .f32 => 8
  | .str => 9
  | .dom => 10

/-- Is the type a STRING or DOMAIN? -/
def odIsBlob : OdType → Bool
  | .str => true
  | .dom => true
  | _ => false

/-- Does the 64-bit value hold the zero extension of an unsigned value of the type, or the sign extension of a signed
one (R409)? -/
def odFits (t : OdType) (v : Word) : Bool :=
  match t with
  | .i32 => v == BitVec.signExtend 64 (v.truncate 32)
  | .i64 => true
  | .u64 => true
  | t => decide (v.toNat < 2 ^ odBits t)

/-- Is the value inside the range and alignment that the object's defining text states (R409)? -/
def odInRange (r : OdRow) (v : Nat) : Bool :=
  decide (r.min ≤ v) && (r.max == 0 || decide (v ≤ r.max)) && v % r.align == 0

/-- Is the index in the husk range of h (R412)? -/
def huskRange (h index : Nat) : Bool := index / 256 == 0x30 + h || index == 0x6010 + h

/-- The husk an index of the husk range names. -/
def indexHusk (index : Nat) : Option Nat := if 0x3000 ≤ index ∧ index < 0x4000 then some (index / 256 % 16) else none

/-- The virtual function's husk, when the path is one. -/
def pathVf : Path → Option Nat
  | .vf h _ => some h.val
  | _ => none

/-- Key of a request's reply: the function for a host window; 128 for the field network, 129 for MCTP. -/
def pathFn : Path → Nat
  | .pf p => p.val * 32
  | .vf h p => p.val * 32 + h.val + 1
  | .fieldNet => 128
  | .mctp => 129

namespace World

/-- The window of a host function, R414. -/
def window (w : World) (fn : Nat) : Window := w.dev.windows.getD fn ⟨0, 0, false, 0, 0, []⟩

/-- A request ends, R414: the window's COUNT and REASON (and what was read), or the reply over the network. -/
def odFinish (w : World) (p : Path) (reason : Nat) (data : Word) (bytes : List Byte) (read : Bool) : World :=
  let rs := BitVec.ofNat 16 reason
  match p with
  -- a module whose GA[3] is 1 does not transmit (R433)
  | .fieldNet => if w.rd oFieldNetState = 2 then w else { w with dev := { w.dev with replies := w.dev.replies.put 128 ⟨rs, data, bytes⟩ } }
  | .mctp => { w with dev := { w.dev with replies := w.dev.replies.put 129 ⟨rs, data, bytes⟩ } }
  | _ =>
    let x := w.window (pathFn p)
    let y := { x with busy := false, count := x.count + 1, reason := rs,
                      data := if read && reason == 0 then data else x.data,
                      buffer := if read && reason == 0 && !bytes.isEmpty then bytes else x.buffer }
    { w with dev := { w.dev with windows := w.dev.windows.put (pathFn p) y } }

/-- May the path write the object in principle, R408, R411 and R412? -/
def odMayWrite (p : Path) (index sub : Nat) (r : OdRow) : Bool :=
  r.acc != .const && r.acc != .ro && (match p with
    | .fieldNet => r.writers != .pf
    | .pf _ => r.writers != .net
    | .mctp => (index == 0x2090 && sub == 1) || (index == 0x2091 && sub == 1)
    | .vf h _ => r.writers == .any && huskRange h.val index)

/-- WO objects that the always-on domain serves whatever the dies do: the configuration store, firmware, time, resets and
power, fault acknowledgement, injection and unfencing, snapshots. -/
def alwaysServed (index sub : Nat) : Bool :=
  index == 0x1010 || index == 0x1030 || index == 0x2010 || index == 0x2090 || index == 0x2091 || index == 0x7000
    || (index == 0x7002 && sub == 3) || index == 0x7006 || index == 0x7800
    || (index / 4096 == 3 && index % 256 == 0xD0)

/-- Why a path may not write the object now, R411, R412, R333, R35 and R473: a reason, or none. -/
def odWriteRefusal (w : World) (p : Path) (index sub : Nat) (r : OdRow) : Option Nat :=
  let hidden := match pathVf p with
    | some h => !huskRange h index
    | none => false
  let shut := match pathVf p with
    | some h => w.huskState h == hsDisabled || w.huskState h == hsDisabling
    | none => false
  let off := w.dev.resets.seqs.has 16 || w.rd oPowerState != 2
  if hidden then some 0x000A
  else if shut then some 0x0A03
  else if !odMayWrite p index sub r then some 0x000B
  else match indexHusk index with
    | none => if off && r.acc == .wo && !alwaysServed index sub then some 0x0302 else none
    | some h =>
      let st := w.huskState h
      let control := index % 256 == 0x00 && sub == 2 && st != hsDisabled
      if (off || st == hsResetting) && r.acc == .wo && !alwaysServed index sub && !control then some 0x0302
      else none

/-- Save an RWS value, R408 and R410; a failed save leaves the saved value and gives OD_SAVE_FAILED. -/
def odSave (w : World) (key : Nat) (v : Word) (ok : Bool) : Nat × World :=
  if ok then
    (0, ({ w with dev := { w.dev with saved := w.dev.saved.put key v } }).wr oNvConfigWrites (fit 32 (w.rd oNvConfigWrites + 1)))
  else (0x000F, w)

/-- A request whose outcome is not known yet: its window stays busy (R414), and `odFinish` ends it later. -/
def odPending : Nat := 0x10000

/-- The request executes on. -/
def odBusy (w : World) (p : Path) : World :=
  match p with
  | .fieldNet => w
  | .mctp => w
  | _ => { w with dev := { w.dev with windows := w.dev.windows.put (pathFn p) { w.window (pathFn p) with busy := true } } }

/-- A request reaches its window, R414 and R474: ignored while the window is BUSY; held while the controller restarts;
otherwise it executes. -/
def odGate (w : World) (x : OdHeld) (go : World → World) : World :=
  let fn := pathFn x.path
  let host := decide (fn < 128)
  if host && (w.window fn).busy then w
  else
    let word := BitVec.ofNat 64 (x.req.segment.toNat * 2 ^ 36 + x.req.length.toNat * 2 ^ 24 + x.req.index.toNat * 256 + x.req.sub.toNat)
    let w1 := if !host then w else
      { w with dev := { w.dev with windows := w.dev.windows.put fn { w.window fn with
          request := word,
          data := if x.kind = 1 then x.value else (w.window fn).data,
          buffer := if x.kind = 1 && !x.data.isEmpty then x.data else (w.window fn).buffer } } }
    if w1.dev.resets.seqs.has 19 then ({ w1 with dev := { w1.dev with odHeld := w1.dev.odHeld ++ [x] } }).odBusy x.path
    else go w1

/-- A write of HuskSeqCancel is refused: HuskSeqLastReason says why (R235); to a virtual function of another husk the object is
absent (R412). -/
def noteCancelRefused (w : World) (index sub reason : Nat) : World :=
  if index / 4096 = 3 ∧ index % 256 = 0x60 ∧ sub = 0x10 ∧ reason ≠ 0x000A then
    w.wr (oHuskSeqLastReason (index / 256 % 16)) reason
  else w

/-- A write of a scalar object, R408 to R412: the checks, then `effect` with the value, then the save of an RWS object, then
the end of the request. -/
def odScalar (w : World) (p : Path) (index sub : Nat) (v : Word) (saveOk : Bool) (effect : World → Nat → Nat × World) : World :=
  match odLookup index sub with
  | none => w.odFinish p 0x000A 0 [] false
  | some r =>
    match w.odWriteRefusal p index sub r with
    | some reason => (w.noteCancelRefused index sub reason).odFinish p reason 0 [] false
    | none =>
      if odIsBlob r.ty then w.odFinish p 0x000C 0 [] false
      else if !odFits r.ty v || !odInRange r v.toNat then (w.noteCancelRefused index sub 0x000D).odFinish p 0x000D 0 [] false
      else
        let (reason, w1) := effect w v.toNat
        if reason = odPending then w1.odBusy p
        else if reason = 0 && r.acc == .rws then
          let (rs, w2) := w1.odSave (index * 256 + sub) v saveOk
          w2.odFinish p rs 0 [] false
        else w1.odFinish p reason 0 [] false

/-- A command that is a write of one scalar object over a path. -/
def odCommand (w : World) (p : Path) (index sub : Nat) (v : Word) (saveOk : Bool) (effect : World → Nat → Nat × World) : World :=
  w.odGate ⟨1, p, ⟨BitVec.ofNat 16 index, BitVec.ofNat 8 sub, 0, 0⟩, v, [], none, saveOk⟩
    (fun w => w.odScalar p index sub v saveOk effect)

/-- The plain effect: the object takes the value. -/
def odPlain (key : Nat) (w : World) (v : Nat) : Nat × World := (0, w.wr ⟨key, 0⟩ v)

/-- An effect that acts on a value of 1 and ignores 0 (a BOOL that triggers an action, R408). -/
def onOne (f : World → Nat × World) (w : World) (v : Nat) : Nat × World := if v = 1 then f w else (0, w)

end World

end Sys2Proof.Machine
end

