-- ==== Sys2Proof/Machine/Acorn.lean ====
section
/-! DEFINITION. The acorn stacks beside their products (R117 to R138): overlay and repair tables, scrubbing and refresh,
images and their selection, installation and the writing of cells. -/
namespace Sys2Proof.Machine

/-! ### Overlay and repair tables, R117 to R119 and R123 -/

/-- An overlay entry from its 32 bytes, R117. -/
def overlayOf (v : Nat) : OverlayEnt :=
  ⟨fld v 176 48, fld v 128 32, fld v 96 32, fld v 80 16, fld v 64 16, fld v 4 4, bitAt v 0⟩

/-- The sort key of an entry, R119. -/
def overlayKey (e : OverlayEnt) : Nat := ((e.image * 2 ^ 32 + e.matrix) * 65536 + e.tr) * 65536 + e.tc

/-- Are the keys in strictly ascending order? -/
def keysRise : List OverlayEnt → Bool
  | [] => true
  | [_] => true
  | a :: b :: t => decide (overlayKey a < overlayKey b) && keysRise (b :: t)

namespace World

/-- HuskOverlayCommit, R118: the next table is being validated and the request goes on. -/
def overlayCommit (w : World) (p : Path) (h : Nat) : Nat × World :=
  (odPending, w.upAcorn (fun a => { a with overlayPending := a.overlayPending.put h p }))

/-- AcornRepairCommit, R118 and R123: through the physical function only. -/
def repairCommit (w : World) (p : Path) : Nat × World :=
  (odPending, w.upAcorn (fun a => { a with repairPending := some p }))

/-- The entries of husk h's next table, and whether every one reads cleanly. -/
def nextOverlays (w : World) (h : Nat) : Option (List OverlayEnt) × World :=
  let base := w.rd (oHuskOverlayTableBase h)
  (List.range (w.rd (oHuskOverlayTableCount h))).foldl (fun st i =>
    let ((d, ok), w1) := st.2.readVirt h (masterId 0x0 0) 1 (base + 32 * i) 32
    (if ok && !d.anyBad then st.1.map (fun l => l ++ [overlayOf d.nat]) else none, w1)) (some [], w)

/-- Is a husk's next table valid, R119? -/
def overlaysValid (w : World) (h : Nat) (l : List OverlayEnt) : Bool :=
  decide (w.rd (oHuskOverlayTableCount h) ≤ 1048576) && keysRise l
    && l.all (fun e => e.addr % 64 == 0 && e.kind == 0 && w.inHbm h e.addr 64 .rd)

/-- The validation of husk h's next table ends: it takes effect, or is refused with OVERLAY_TABLE_INVALID (R119). -/
def overlayEffect (w : World) (h : Nat) : World :=
  match w.dev.acorn.overlayPending.get? h with
  | none => w
  | some p =>
    let w0 := w.upAcorn (fun a => { a with overlayPending := a.overlayPending.del h })
    match w0.nextOverlays h with
    | (some l, w1) =>
      if w1.overlaysValid h l then
        (((w1.pinTables (some h)).upAcorn (fun a => { a with overlays := a.overlays.put h l })).wr (oHuskOverlayGeneration h)
          (fit 32 (w1.rd (oHuskOverlayGeneration h) + 1))).odFinish p 0 0 [] false
      else w1.odFinish p 0x040B 0 [] false
    | (none, w1) => w1.odFinish p 0x040B 0 [] false

/-- The entries of the next repair table. -/
def nextRepair (w : World) : Rd × List OverlayEnt :=
  let base := w.rd oAcornRepairTableBase
  let n := w.rd oAcornRepairTableCount
  let d := w.readStored base (32 * n) 0
  (d, (List.range n).map (fun i => overlayOf (leNat ((d.data.drop (32 * i)).take 32))))

/-- The validation of the next repair table ends, R119. -/
def repairEffect (w : World) : World :=
  match w.dev.acorn.repairPending with
  | none => w
  | some p =>
    let w0 := w.upAcorn (fun a => { a with repairPending := none })
    let w0 := w0.mirrorHeal (w.rd oAcornRepairTableBase) (32 * w.rd oAcornRepairTableCount) otherReserve
    let (d, l) := w0.nextRepair
    let ok := !d.anyBad && decide (w.rd oAcornRepairTableCount ≤ 65536) && inReserve (w.rd oAcornRepairTableBase) && keysRise l
      && l.all (fun e => e.addr % 64 == 0 && e.kind == 1 && regionOf e.addr == .hbm)
    if ok then
      (((w0.pinTables none).upAcorn (fun a => { a with repair := l })).wr oAcornRepairGeneration
        (fit 32 (w0.rd oAcornRepairGeneration + 1))).odFinish p 0 0 [] false
    else w0.odFinish p 0x040B 0 [] false

/-! ### Images, R125 to R127 -/

/-- Is a taken command of the ring with this key one that runs on an image: GEMM_BSTREAM of a matrix engine, or an NMU command? -/
def imageCommand (key : Nat) (t : Taken) : Bool :=
  if key < 0x10000 then
    (if key / 16 % 16 < 8 then cmdOp t.cmd == 2 else key / 16 % 16 == 12 && cmdOp t.cmd != 0)
  else decide (key < 0x20000) && key % 2 == 0 && cmdOp t.cmd == 2

/-- Does some husk name the slot, or a command accepted under a binding to it still lack its completion record (R126)? -/
def slotUsed (w : World) (i : Nat) : Bool :=
  allHusks.any (fun h => w.rd (oHuskActiveImage h) == i)
    || w.dev.rings.items.any (fun p => p.2.taken.any (fun t => imageCommand p.1 t && t.aux.head? == some i))

/-- Slots that no husk names and no outstanding command uses return to RESIDENT, R126. -/
def imagesSettle (w : World) : World :=
  w.each (List.range 16) (fun w i => if w.slotState i = 4 ∧ !w.slotUsed i then w.setSlotState i 3 else w)

/-- A write to HuskActiveImage, R126. -/
def bindImage (w : World) (h v : Nat) : Nat × World :=
  if v = 0xFF then (0, (w.wr (oHuskActiveImage h) v).imagesSettle)
  else if v < 16 ∧ (w.slotState v = 3 ∨ w.slotState v = 4) then (0, ((w.wr (oHuskActiveImage h) v).setSlotState v 4).imagesSettle)
  else (0x040A, w)

/-- A write to AcornImageRelease, R127. -/
def releaseImage (w : World) (i : Nat) : Nat × World :=
  let w1 := w.imagesSettle
  if w1.slotState i = 4 ∨ w1.slotState i = 1 then (0x0405, w1)
  else (0, (w1.wr (oAcornImageSlot i) 0).upAcorn (fun a => { a with images := a.images.del i }))

/-! ### Blocks and the write controller, R134 to R138 -/

/-- Blocks of one NMU region that a chunk touches. -/
def chunkBlocks (base : Nat) (c : ChunkEnt) : List Nat :=
  if c.length = 0 then []
  else
    let lo := (base + c.offset) / 0x100000
    let hi := (base + c.offset + c.length - 1) / 0x100000
    (List.range (hi + 1 - lo)).map (fun i => lo + i)

/-- The blocks of one NMU region that an image covers on stack a. -/
def imageBlocks (info : ImageInfo) (a : Nat) : List Nat :=
  ((info.chunks.filter (fun c => c.stack == a)).map (chunkBlocks info.base)).flatten.foldl (fun l b => setInsert b l) []

/-- Is block b of NMU j of stack a complete: every chunk that touches it written there? -/
def blockDone (info : ImageInfo) (a j b : Nat) : Bool :=
  ((List.range info.chunks.length).zip info.chunks).all (fun p =>
    p.2.stack != a || !(chunkBlocks info.base p.2).elem b || info.written.elem (p.1 * 256 + j))

/-- Blocks complete on stack a. -/
def blocksDone (info : ImageInfo) (a : Nat) : Nat :=
  ((List.range 256).map (fun j => ((imageBlocks info a).filter (fun b => blockDone info a j b)).length)).foldl (· + ·) 0

/-- Blocks of stack a. -/
def blocksAll (info : ImageInfo) (a : Nat) : Nat := 256 * (imageBlocks info a).length

/-- Is every part of the file written? -/
def imageDone (info : ImageInfo) : Bool :=
  ((List.range info.chunks.length).zip info.chunks).all (fun p =>
    p.2.length == 0 || (List.range 256).all (fun j => info.written.elem (p.1 * 256 + j)))

/-- Change the installation. -/
def upInstall (w : World) (f : InstallSt → InstallSt) : World := w.upAcorn (fun a => { a with install := f a.install })

/-- Is the installation running? -/
def installing (w : World) : Bool := stState (w.rd (oAcornInstallStatus 0)) == 2
/-- Is a refresh running? -/
def refreshing (w : World) : Bool := stState (w.rd (oAcornRefreshStatus 0)) == 2

/-- The partial records and PROGRESS of the installation, R130 and R131. -/
def installProgress (w : World) : World :=
  let i := w.dev.acorn.install
  match i.manifest with
  | none => w
  | some mf =>
    let info := w.imageInfo i.slot
    let done (a : Nat) : Nat := blocksDone info a - i.before.getD a 0
    let all (a : Nat) : Nat := blocksAll info a - i.before.getD a 0
    let w1 := w.each (List.range 8) (fun w a =>
      w.wr (oAcornInstallStatus (a + 1)) (i.reasons.getD a 0 * 2 ^ 48 + done a * 2 ^ 24 + all a))
    let w2 := w1.wr (oAcornInstallStatus 9) i.remapped
    let down := w.rd oAcornInstallDownstream != 0xFFFF
    let w3 := if down then w2.wr (oAcornInstallStatus 10) ((if i.downLost then 0x040E * 2 ^ 48 else 0) + i.forwarded * 2 ^ 24 + mf.chunks.length) else w2
    let d := ((List.range 8).map done).foldl (· + ·) 0
    let n := ((List.range 8).map all).foldl (· + ·) 0
    w3.setOpProgress (oAcornInstallStatus 0) (if n = 0 then (if imageDone info then 1000 else 0) else 1000 * d / n) (if down then 10 else 9)

/-- The installation ends in a state with a reason; an unfinished slot is INCOMPLETE, its writes are dropped. -/
def installEnd (w : World) (state reason : Nat) : World :=
  let i := w.dev.acorn.install
  let w1 := w.setOpState (oAcornInstallStatus 0) state reason
  let w2 := if w1.slotState i.slot = 1 then w1.setSlotState i.slot 2 else w1
  w2.upAcorn (fun a => { a with
    queues := a.queues.mapVals (fun _ l => l.filter (fun j => j.refresh)), install := InstallSt.init, started := [], remapped := [],
    pulse := a.pulse.delIf (fun s _ => (a.queues.getD s []).head?.any (fun j => !j.refresh)) })

/-- Was a tile of the slot written in this installation, any of its bytes (R130)? -/
def tileRewritten (w : World) (e : PoisonEnt) : Bool :=
  let info := w.imageInfo e.slot
  let old := w.dev.acorn.install.old
  match info.records.find? (fun r => r.id == e.matrix) with
  | none => true
  | some r => match tilePlace info r e.tr e.tc with
    | none => true
    | some (n, pa) =>
      let lo := (pa - 0x20000000000) % 0x18000000 - info.base
      let hi := lo + tileStride ((Fmt.ofCode r.fmt).getD .f32)
      ((List.range info.chunks.length).zip info.chunks).any (fun c =>
        c.2.stack == n / 256 && decide (c.2.offset < hi) && decide (lo < c.2.offset + c.2.length) && !old.elem (c.1 * 256 + n % 256))

/-- The installation completes, R130: the slot is RESIDENT and the entries of rewritten tiles leave AcornPoisonList. -/
def installDone (w : World) : World :=
  let i := w.dev.acorn.install
  let w1 := w.installProgress.setSlotState i.slot 3
  let w2 := w1.upAcorn (fun a => { a with poison := a.poison.filter (fun e => e.slot != i.slot || !w1.tileRewritten e) })
  (w2.setOpProgress (oAcornInstallStatus 0) 1000 0).installEnd 4 (if i.downLost then 0x040E else 0)

/-- The slot whose extent holds a block. -/
def blockSlot (w : World) (block : Nat) : Option Nat :=
  (List.range 16).find? (fun i => w.slotState i != 0 && decide ((w.imageInfo i).base ≤ block % 384 * 0x100000)
    && decide (block % 384 * 0x100000 < (w.imageInfo i).base + (w.imageInfo i).extent))

/-- A journal entry in both copies, R137; a block is begun from its STARTED to its COMPLETE. -/
def journal (w : World) (block state : Nat) : World :=
  let slot := (w.blockSlot block).getD w.dev.acorn.install.slot
  let e : JournalEnt := ⟨w.slotImage slot, block, state, slot, w.now⟩
  w.upAcorn (fun a => { a with
    journal := e :: a.journal, journalCopy := e :: a.journalCopy,
    started := if state = 1 then setInsert block a.started else setErase block a.started })

/-- Take a spare for a block, R134: none when its NMU has used all eight. -/
def takeSpare (w : World) (block : Nat) : Option World :=
  let n := block / 384
  let used := w.dev.acorn.spares.getD n 0
  if used < 8 then
    let k := oAcornSpareBlocksFree (n / 256)
    let w1 := w.wr k (w.rd k - 1)
    some ((w1.upAcorn (fun a => { a with spares := a.spares.put n (used + 1), programs := a.programs.put block 0 })).journal block 3)
  else none

/-- May a write pulse start: not under PWRFAIL_N (R136), in a module reset (R135), while the controller restarts (R474), or without
VPUMP (R481)? -/
def mayPulse (w : World) : Bool :=
  w.dev.resets.power.pwrfail.isNone && !w.dev.resets.seqs.has 16 && !w.dev.resets.seqs.has 19 && w.rd (oRailState 8) == 2

/-- An operation that writes cells fails, R124 and R134: the refresh, or the installation. -/
def cellsFail (w : World) (refresh : Bool) (a reason : Nat) : World :=
  if refresh then (w.setOpState (oAcornRefreshStatus 0) 5 reason).upAcorn (fun x => { x with
      queues := x.queues.mapVals (fun _ l => l.filter (fun q => !q.refresh)), pulse := x.pulse.del a, refreshCancel := false })
  else w.installProgress.installEnd 5 reason

/-- REASON of a stack's last event in its partial record, R131; of a refresh as well (R134). -/
def stackReason (w : World) (refresh : Bool) (a reason : Nat) : World :=
  if refresh then w.wr (oAcornRefreshStatus (a + 1)) (setFld (w.rd (oAcornRefreshStatus (a + 1))) 48 16 reason)
  else w.upInstall (fun i => { i with reasons := i.reasons.put a reason })

/-- Start the next write of a stack: STARTED is journalled and the block's program counter counts before its first
pulse (R137, R138); a block that has reached 100,000 is retired for a spare, and with none free the operation ends (R134). -/
def startPulse (w : World) (a : Nat) : World :=
  match w.dev.acorn.queues.getD a [] with
  | [] => w
  | j :: _ =>
    if w.dev.acorn.pulse.has a || !w.mayPulse then w
    else
      let first := !w.dev.acorn.started.elem j.block
      let spare := if first && decide (100000 ≤ w.dev.acorn.programs.getD j.block 0) then
          (w.takeSpare j.block).map (fun w => if j.refresh then w else w.upInstall (fun i => { i with remapped := i.remapped + 1 }))
        else some w
      match spare with
      | none => w.cellsFail j.refresh a 0x0407
      | some w0 =>
        let m := w0.dev.acorn.programs.getD j.block 0 + 1
        let w1 := if first then (w0.journal j.block 1).upAcorn (fun x => { x with programs := x.programs.put j.block m }) else w0
        let w2 := if first && w1.rd (oAcornEnduranceMax a) < m then w1.wr (oAcornEnduranceMax a) m else w1
        let w3 := if first && m == 90000 then w2.correctedOpen (unitSource (masterId 0xD a)) (masterId 0xD a) 0x13 j.addr else w2
        w3.upAcorn (fun x => { x with pulse := x.pulse.put a 1 })

/-- Put writes at the end of a stack's queue. -/
def addJobs (w : World) (a : Nat) (js : List WriteJob) : World :=
  (w.upAcorn (fun x => { x with queues := x.queues.put a (x.queues.getD a [] ++ js) })).startPulse a

/-- Do flits of a chunk's message to the successor still wait to be sent (R132)? -/
def chunkLeaving (w : World) (n : Nat) : Bool :=
  w.dev.fabric.waiting.any (fun f => fld f.hdr 48 8 == 0x44 && fld f.hdr 112 48 == n)

/-- Chunks that stay staged: written or forwarded only in part (R132). -/
def chunksStaged (w : World) : AMap Nat :=
  w.dev.acorn.install.staged.delIf (fun n _ =>
    !(w.dev.acorn.queues.vals.flatten).any (fun q => !q.refresh && q.chunk == n) && !w.chunkLeaving n)

/-- The page that a write's next pulses program, R134: the bytes from `pos` on up to the next multiple of 4 KiB. -/
def jobPage (j : WriteJob) : Nat := Nat.min (j.len - j.pos) (4096 - (j.addr + j.pos) % 4096)

/-- A whole write has been verified: its block may be complete. -/
def jobDone (w : World) (a : Nat) (j : WriteJob) : World :=
  let w1 := w.upAcorn (fun x => { x with queues := x.queues.put a ((x.queues.getD a []).drop 1), pulse := x.pulse.del a })
  if j.refresh then
    let k := oAcornRefreshPending a
    let w2 := ((w1.journal j.block 2).upAcorn (fun x => { x with flagged := setErase j.block x.flagged })).wr k (w1.rd k - 1)
    let flagged0 := w2.dev.acorn.refreshStart.getD a 0
    let left := (w2.dev.acorn.queues.getD a []).length
    let k1 := oAcornRefreshStatus (a + 1)
    let w3 := w2.wr k1 (fld (w2.rd k1) 48 16 * 2 ^ 48 + (flagged0 - left) * 2 ^ 24 + flagged0)
    let tot := ((List.range 8).map (fun s => w3.dev.acorn.refreshStart.getD s 0)).foldl (· + ·) 0
    let rest := ((List.range 8).map (fun s => ((w3.dev.acorn.queues.getD s []).filter (fun j => j.refresh)).length)).foldl (· + ·) 0
    let w4 := w3.setOpProgress (oAcornRefreshStatus 0) (if tot = 0 then 1000 else 1000 * (tot - rest) / tot) 8
    if rest = 0 then
      (w4.setOpState (oAcornRefreshStatus 0) (if w4.dev.acorn.refreshCancel then 6 else 4) 0).upAcorn (fun x => { x with
        refreshCancel := false, remapped := [] })
    else w4
  else
    let i := w1.dev.acorn.install
    let part := j.chunk * 256 + j.block / 384 % 256
    let info := w1.imageInfo i.slot
    let more := (w1.dev.acorn.queues.vals.flatten).any (fun q => !q.refresh && q.chunk == j.chunk && q.block / 384 == j.block / 384)
    let info' := if more then info else { info with written := setInsert part info.written }
    let w2 := w1.upAcorn (fun x => { x with images := x.images.put i.slot info' })
    let w3 := if blockDone info' a (j.block / 384 % 256) (j.block % 384) then w2.journal j.block 2 else w2
    let w4 := (w3.upInstall (fun i => { i with staged := w3.chunksStaged })).installProgress
    if imageDone info' then w4.installDone
    else if i.cancelling && (w4.dev.acorn.queues.vals.flatten).all (fun q => q.refresh) then w4.installEnd 6 0
    else w4

/-- A page has been verified, R134: the cells hold its bytes, its lines are whole again; the next page of the write follows, or
the write is done. A staged line that cannot be read fails its chunk as its digest would (R142). -/
def pageDone (w : World) (a : Nat) (j : WriteJob) : World :=
  let n := jobPage j
  let r := w.readStored (j.src + j.pos) n 0
  if !j.refresh && r.anyBad then w.installProgress.installEnd 5 0x0404
  else
    let lo := (j.addr + j.pos) / 64
    let k := (n + 63) / 64
    let w1 := (if j.refresh then w else w.store (j.addr + j.pos) r.data).upAcorn (fun x => { x with
      cellErrs := x.cellErrs.delIf (fun l _ => decide (lo ≤ l) && decide (l < lo + k)),
      rereads := x.rereads.delIf (fun l _ => decide (lo ≤ l) && decide (l < lo + k)) })
    if j.len ≤ j.pos + n then w1.jobDone a j
    else w1.upAcorn (fun x => { x with
      pulse := x.pulse.del a, queues := x.queues.put a ({ j with pos := j.pos + n } :: (x.queues.getD a []).drop 1) })

/-- A page fails after its 2.0 µs pulse, R134: its block is remapped to a spare and written again; a remapped block
that fails, or no spare, ends the operation. -/
def jobFails (w : World) (a : Nat) (j : WriteJob) : World :=
  let w0 := w.stackReason j.refresh a 0x0402
  if w.dev.acorn.remapped.elem j.block then w0.cellsFail j.refresh a 0x0402
  else match w0.takeSpare j.block with
    | none => w0.cellsFail j.refresh a 0x0407
    | some w1 =>
      let again := (w1.dev.acorn.queues.getD a []).map (fun q => if q.block = j.block then { q with pos := 0 } else q)
      let w2 := w1.upAcorn (fun x => { x with
        queues := x.queues.put a again, pulse := x.pulse.del a, remapped := setInsert j.block x.remapped })
      (if j.refresh then w2 else (w2.upInstall (fun i => { i with remapped := i.remapped + 1 })).installProgress).startPulse a

/-- A write pulse of stack a ends, R134 and R135: under a reset no verify follows and no pulse starts; otherwise the
verify passes, or the next longer pulse is applied, or the block fails. -/
def pulseEnd (w : World) (a : Nat) (verified : Bool) : World :=
  match w.dev.acorn.pulse.get? a, (w.dev.acorn.queues.getD a []) with
  | some n, j :: _ =>
    if w.dev.resets.seqs.has 16 then w.upAcorn (fun x => { x with pulse := x.pulse.del a })
    else if verified then (w.pageDone a j).startPulse a
    else if n < 3 then w.upAcorn (fun x => { x with pulse := if w.mayPulse then x.pulse.put a (n + 1) else x.pulse.del a })
    else w.jobFails a j
  | _, _ => w.upAcorn (fun x => { x with pulse := x.pulse.del a })

/-- A block whose last journal entry is STARTED: its slot is INCOMPLETE and the pieces that touch it are to be written again
(R130, R137). -/
def blockOpen (w : World) (b : Nat) : World :=
  match w.blockSlot b with
  | none => w
  | some slot =>
    let info := w.imageInfo slot
    let touches (p : Nat) : Bool := p % 256 == b / 384 % 256 && (match info.chunks[p / 256]? with
      | some c => c.stack == b / 384 / 256 && (chunkBlocks info.base c).elem (b % 384)
      | none => false)
    (w.setSlotState slot 2).upAcorn (fun a => { a with images := a.images.put slot { info with written := info.written.filter (fun p => !touches p) } })

/-- After a module reset or a power-up: writes in progress are gone, unfinished slots are INCOMPLETE, and blocks whose
last journal entry is STARTED are counted (R133, R135, R137). -/
def acornAfterReset (w : World) : World :=
  let w1 := w.each (List.range 16) (fun w i => if w.slotState i = 1 then w.setSlotState i 2 else if w.slotState i = 4 ∧ !(w.slotUsed i) then w.setSlotState i 3 else w)
  let blocks := (w1.dev.acorn.journal.map (fun e => e.block)).foldl (fun l b => setInsert b l) []
  let open_ := blocks.filter (fun b => (w1.dev.acorn.journal.find? (fun e => e.block == b)).any (fun e => e.state == 1))
  let w2 := w1.each (List.range 8) (fun w a => w.wr (oAcornJournalIncomplete a) (open_.filter (fun b => b / 384 / 256 == a)).length)
  let w3 := w2.upAcorn (fun a => { a with queues := .empty, pulse := .empty, install := InstallSt.init, started := [], remapped := [] })
  let w4 := w3.each open_ (fun w b => w.blockOpen b)
  w4.upAcorn (fun a => { a with overlayPending := .empty, repairPending := none, refreshCancel := false })

/-! ### Installation, R128 to R133 -/

/-- May an installation start into a slot: one that is EMPTY, or INCOMPLETE with the IMAGE_ID of the file (R130)? Of a file
that comes from upstream the IMAGE_ID is known with its manifest only (log entry 18). -/
def slotTakes (w : World) (s : Nat) : Bool :=
  let src := w.rd oAcornInstallSource
  decide (s < 16) && (w.slotState s == 0
    || (w.slotState s == 2 && (src == 0 || Config.fileImage (w.bytes src 4096) == w.slotImage s)))

/-- AcornInstallStart, R130. -/
def installStart (w : World) : Nat × World :=
  let s := w.rd oAcornInstallSlot
  if !stIdleOrTerminal (w.rd (oAcornInstallStatus 0)) || !w.slotTakes s then (0x0405, w)
  else (0, (w.startOp oAcornInstallStatus 0x081 2).upInstall (fun _ => { InstallSt.init with slot := s, lastData := w.now }))

/-- Do a record's bands cover its tile rows once, in ascending order, on different stacks (R109)? -/
def recordValid (r : MatrixRec) : Bool :=
  let covered := r.bands.foldl (fun (st : Bool × Nat) b => (st.1 && b.tr0 == st.2, b.tr0 + b.trCount)) (true, 0)
  let stackSet := (r.bands.map (fun b => b.stack)).foldl (fun l s => setInsert s l) []
  decide (1 ≤ r.bands.length) && decide (r.bands.length ≤ 8) && isTileFmt r.fmt && covered == (true, matTrn r)
    && stackSet.length == r.bands.length && stackSet.all (fun s => decide (s < 8))

/-- Bytes of one NMU region that a record's tiles need. -/
def recordExtent (r : MatrixRec) : Nat :=
  match Fmt.ofCode r.fmt with
  | some f => (r.bands.map (fun b => 64 * b.offset + b.trCount * ((matTcn r + 255) / 256) * tileStride f)).foldl Nat.max 0
  | none => 0

/-- The matrix records of a manifest, R108. -/
def manifestRecords (m : Manifest) : List MatrixRec := m.records.map matrixRecOf

/-- Are a manifest's records and chunk table consistent (R108, R109, R128)? -/
def manifestValid (m : Manifest) : Bool :=
  let rs := manifestRecords m
  let ids := (rs.map (fun r => r.id)).foldl (fun l i => setInsert i l) []
  m.records.all bandsOk && rs.all recordValid && rs.all (fun r => decide (recordExtent r ≤ m.extent)) && ids.length == rs.length
    && m.chunks.all (fun c => decide (c.stack < 8) && decide (c.length ≤ 0x40000) && decide (c.offset + c.length ≤ m.extent))

/-- The lowest free 1 MiB-aligned extent of a size in the user regions, beside the extents of other slots (R125; log
entry 21). -/
def freeExtent (w : World) (slot size : Nat) : Option Nat :=
  let taken := ((List.range 16).filter (fun i => i != slot && w.slotState i != 0)).map (fun i => ((w.imageInfo i).base, (w.imageInfo i).extent))
  ((List.range 384).map (fun b => b * 0x100000)).find? (fun b =>
    decide (b + size ≤ 0x18000000) && taken.all (fun t => decide (b + size ≤ t.1) || decide (t.1 + t.2 ≤ b)))

/-- The 48-byte digests of a DOMAIN of digests. -/
def digestsOf : Nat → List Byte → List Nat
  | 0, _ => []
  | f + 1, l => if l.length < 48 then [] else leNat (l.take 48) :: digestsOf f (l.drop 48)

/-- Does AcornSigningKey list the digest (R129)? -/
def signerListed (w : World) (d : Nat) : Bool :=
  let l := w.dev.blobs.getD 0x808001 []
  (digestsOf (l.length / 48) l).elem d

/-- The root of trust has read the manifest and its signature, R130; the manifest result stands in subindex 9 (R131). -/
def manifestVerified (w : World) (manifest signature : List Byte) : World :=
  let i := w.dev.acorn.install
  if !w.installing || i.manifest.isSome then w
  else
    let m := Config.manifestOf manifest
    let fail (reason : Nat) : World := (w.wr (oAcornInstallStatus 9) (reason * 2 ^ 48)).installEnd 5 reason
    let resume := w.slotState i.slot == 2
    if !w.signerListed (Config.sha384 m.key) || !Config.p384Verify m.key (Config.sha384 manifest) signature then fail 0x0403
    else if !manifestValid m then fail 0x040F
    else if resume && w.slotImage i.slot != m.image then fail 0x0405
    else match (if resume then some (w.imageInfo i.slot).base else w.freeExtent i.slot m.extent) with
      | none => fail 0x0406
      | some base =>
        let info : ImageInfo := ⟨base, m.extent, manifestRecords m, m.chunks, if resume then (w.imageInfo i.slot).written else []⟩
        let before : AMap Nat := ⟨(List.range 8).map (fun a => (a, blocksDone info a))⟩
        let w1 := (w.wr (oAcornImageSlot i.slot) (2 ^ 60 + m.image)).upAcorn (fun a => { a with images := a.images.put i.slot info })
        let w2 := (w1.upInstall (fun i => { i with manifest := some m, before := before, old := info.written, lastData := w.now })).installProgress
        if imageDone info then w2.installDone else w2

/-- Where the 16 chunks of R130 are staged: 64 MiB each, in the west die's reserve (R141; log entry 150). -/
def stagingBase : Nat := 0x12F40000000

/-- The writes of a checked chunk staged at `src`: its piece for each NMU region not yet written there, cut at block
boundaries. -/
def chunkJobs (info : ImageInfo) (n : Nat) (c : ChunkEnt) (src : Nat) : List WriteJob :=
  ((List.range 256).map (fun j =>
    if info.written.elem (n * 256 + j) then []
    else (chunkBlocks info.base c).map (fun b =>
      let lo := Nat.max (info.base + c.offset) (b * 0x100000)
      let hi := Nat.min (info.base + c.offset + c.length) ((b + 1) * 0x100000)
      ({ refresh := false, block := (c.stack * 256 + j) * 384 + b, chunk := n,
         addr := 0x20000000000 + c.stack * 0x1800000000 + j * 0x18000000 + lo,
         src := src + j * c.length + (lo - info.base - c.offset), len := hi - lo, pos := 0 } : WriteJob)))).flatten

/-- Is there room to stage one more chunk, R130 and R132: 16 at most, those that are being received among them? -/
def stagingRoom (w : World) : Bool :=
  let coming := (w.dev.fabric.assembling.vals.filter (fun r => fld r.hdr 48 8 == 0x44)).length
    + (w.dev.fabric.inbox.filter (fun m => m.kind == 0x44#8)).length
  decide (w.chunksStaged.items.length + coming < 16)

/-- The first of the 16 places in which no chunk is staged. -/
def stagingPlace (w : World) : Option Nat :=
  (List.range 16).find? (fun k => !(w.chunksStaged.vals.elem k))

/-- A chunk received in full, R130 and R132: staged in the module reserve when there is a place for it, forwarded to the
successor, its digest checked as it stands there, and then written. -/
def chunkReceived (w : World) (n : Nat) (data : List Byte) : World :=
  let i := w.dev.acorn.install
  match i.manifest, w.stagingPlace with
  | some m, some place =>
    (match m.chunks[n]? with
    | none => w
    | some c =>
      if !w.installing || i.cancelling || i.received.elem n || data.length != 256 * c.length then w
      else
        let src := stagingBase + place * 0x4000000
        let w0 := (w.store src data).upInstall (fun i => { i with
          received := setInsert n i.received, lastData := w.now, staged := w.chunksStaged.put n place })
        let down := w.rd oAcornInstallDownstream
        let w1 := if down = 0xFFFF ∨ i.downLost then w0
          else if w0.reachable down then
            (w0.sendTo down 7 0 0 0x44 n data).upInstall (fun i => { i with forwarded := i.forwarded + 1 })
          else w0.upInstall (fun i => { i with downLost := true })
        let r := w1.readStored src data.length 0
        if r.anyBad || Config.sha384 r.data != c.digest then w1.installEnd 5 0x0404
        else (w1.addJobs c.stack (chunkJobs (w1.imageInfo i.slot) n c src)).installProgress)
  | _, _ => w

/-- A cancel is written, R425: it takes effect, or is refused, in the next tick. -/
def cancelDue (w : World) (a : DueAct) : Nat × World := (odPending, { w with dev := { w.dev with due := w.dev.due ++ [a] } })

/-- AcornInstallCancel takes effect, R133 and R425: the blocks in progress are completed, and no other starts. -/
def installCancel (w : World) : Nat × World :=
  if stIdleOrTerminal (w.rd (oAcornInstallStatus 0)) then (0x000E, w)
  else
    let keep (a : Nat) (l : List WriteJob) : List WriteJob :=
      match l.head? with
      | some j => if w.dev.acorn.pulse.has a then l.filter (fun q => q.refresh || q.block == j.block) else l.filter (fun q => q.refresh)
      | none => []
    let w1 := (w.upAcorn (fun a => { a with queues := a.queues.mapVals keep })).upInstall (fun i => { i with cancelling := true })
    if (w1.dev.acorn.queues.vals.flatten).all (fun q => q.refresh) then (0, w1.installEnd 6 0) else (0, w1)

/-- No upstream data for AcornInstallTimeout, R133. -/
def installTimeout (w : World) : World :=
  let i := w.dev.acorn.install
  let all := match i.manifest with
    | some m => i.received.length == m.chunks.length
    | none => false
  if w.installing && w.rd oAcornInstallSource == 0 && !all && decide (i.lastData + w.rd oAcornInstallTimeout ≤ w.now) then
    w.installProgress.installEnd 5 0x040D
  else w

/-! ### Scrub and refresh, R124 -/

/-- The physical addresses of every stored tile of the resident images. -/
def storedTiles (w : World) : List Nat :=
  ((List.range 16).map (fun slot =>
    if w.slotState slot = 3 ∨ w.slotState slot = 4 then
      let info := w.imageInfo slot
      (info.records.map (fun r => ((List.range (matTrn r)).map (fun tr => (List.range (matTcn r)).filterMap (fun tc =>
        (tilePlace info r tr tc).map (fun p => p.2)))).flatten)).flatten
    else [])).flatten

/-- The block (NMU × 384 + block of the region) that holds a byte of the acorn window. -/
def blockOf (pa : Nat) : Nat :=
  let o := pa - 0x20000000000
  (o / 0x1800000000 * 256 + o % 0x1800000000 / 0x18000000) * 384 + o % 0x18000000 / 0x100000

/-- A block is flagged for refresh and counted, R124. -/
def flagBlock (w : World) (b : Nat) : World :=
  if w.dev.acorn.flagged.elem b then w
  else (w.upAcorn (fun x => { x with flagged := setInsert b x.flagged })).inc32 (oAcornRefreshPending (b / 384 / 256)) 1

/-- The scrubber reads one stored tile, R124: a codeword corrected with 3 or 4 bits flags its block, poison is handled as R122
has it with the stack logic as master, and a pass ends when every stored tile has been read. -/
def scrub (w : World) (pa : Nat) : World :=
  match w.tileAt pa with
  | none => w
  | some (slot, r, tr, tc) =>
    if w.rd oAcornScrubPeriod = 0 ∨ !(w.slotState slot = 3 ∨ w.slotState slot = 4) then w
    else
      let a := (pa - 0x20000000000) / 0x1800000000
      let weak := (w.lineErrs pa (tileStride ((Fmt.ofCode r.fmt).getD .f32))).filter (fun p => p.2 == 3 || p.2 == 4)
      let w1 := (w.readStoredTile slot r tr tc pa none (masterId 0xD a) 0x14).2
      let w2 := w1.each weak (fun w p => w.flagBlock (blockOf (p.1 * 64)))
      let seen := setInsert pa w2.dev.acorn.scrubbed
      if (w2.storedTiles).all (fun t => seen.elem t) then
        (w2.upAcorn (fun x => { x with scrubbed := [] })).wr oAcornScrubPass (fit 32 (w2.rd oAcornScrubPass + 1))
      else w2.upAcorn (fun x => { x with scrubbed := seen })

/-- Does a block hold a poisoned tile, whole or in part (R124: such blocks are not refreshed)? -/
def blockPoisoned (w : World) (block : Nat) : Bool :=
  w.dev.acorn.poison.any (fun e =>
    match ((w.imageInfo e.slot).records.find? (fun r => r.id == e.matrix)) with
    | none => false
    | some r => match tilePlace (w.imageInfo e.slot) r e.tr e.tc with
      | none => false
      | some (_, pa) => decide (blockOf pa ≤ block) && decide (block ≤ blockOf (pa + tileStride ((Fmt.ofCode r.fmt).getD .f32) - 1)))

/-- AcornRefreshStart, R124 and R420: the flagged blocks of slots in state RESIDENT are rewritten. -/
def refreshStart (w : World) : Nat × World :=
  if !stIdleOrTerminal (w.rd (oAcornRefreshStatus 0)) || !stIdleOrTerminal (w.rd (oAcornInstallStatus 0)) then (0x0405, w)
  else
    let blocks := w.dev.acorn.flagged.filter (fun b => !w.blockPoisoned b && (match w.blockSlot b with
      | some i => w.slotState i == 3
      | none => false))
    let of (a : Nat) : List Nat := blocks.filter (fun b => b / 384 / 256 == a)
    let w1 := w.startOp oAcornRefreshStatus 0x082 2
    let w2 := w1.upAcorn (fun x => { x with refreshCancel := false, remapped := [], refreshStart := ⟨(List.range 8).map (fun a => (a, (of a).length))⟩ })
    let w3 := w2.each (List.range 8) (fun w a => w.wr (oAcornRefreshStatus (a + 1)) (of a).length)
    let w4 := w3.setOpProgress (oAcornRefreshStatus 0) 0 8
    if blocks.isEmpty then (0, (w4.setOpProgress (oAcornRefreshStatus 0) 1000 8).setOpState (oAcornRefreshStatus 0) 4 0)
    else (0, w4.each (List.range 8) (fun w a => w.addJobs a ((of a).map (fun b =>
      let addr := 0x20000000000 + (b / 384) / 256 * 0x1800000000 + (b / 384) % 256 * 0x18000000 + b % 384 * 0x100000
      ({ refresh := true, block := b, chunk := 0, addr := addr, src := addr, len := 0x100000, pos := 0 } : WriteJob)))))

/-- AcornRefreshCancel takes effect, R420 and R425: the blocks in progress are completed. -/
def refreshCancel (w : World) : Nat × World :=
  if stIdleOrTerminal (w.rd (oAcornRefreshStatus 0)) then (0x000E, w)
  else
    let keep (a : Nat) (l : List WriteJob) : List WriteJob := if w.dev.acorn.pulse.has a then l.take 1 else []
    let w1 := w.upAcorn (fun x => { x with queues := x.queues.mapVals keep, refreshCancel := true })
    if w1.dev.acorn.queues.vals.all (fun l => l.isEmpty) then
      (0, (w1.setOpState (oAcornRefreshStatus 0) 6 0).upAcorn (fun x => { x with refreshCancel := false }))
    else (0, w1)

end World

/-- HUSK_OVERLAY_COMMIT, R118 and R119. -/
def execHuskOverlayCommit (p : Path) (h : Fin 16) (v : Word) (s : State) : Host.Outcome State Fault Refusal :=
  s.done (fun w => w.odCommand p (0x3030 + h.val * 256) 4 v true (World.onOne (fun w => w.overlayCommit p h.val)))

/-- OVERLAY_TABLE_EFFECT, R119. -/
def execOverlayTableEffect (h : Fin 16) (s : State) : Host.Outcome State Fault Refusal :=
  s.done (fun w => w.overlayEffect h.val)

/-- ACORN_REPAIR_COMMIT, R118 and R123. -/
def execAcornRepairCommit (p : Path) (v : Word) (s : State) : Host.Outcome State Fault Refusal :=
  s.done (fun w => w.odCommand p 0x8020 3 v true (World.onOne (fun w => w.repairCommit p)))

/-- REPAIR_TABLE_EFFECT, R119. -/
def execRepairTableEffect (s : State) : Host.Outcome State Fault Refusal := s.done (fun w => w.repairEffect)

/-- SCRUB_READ, R124. -/
def execScrubRead (slot : BitVec 48) (s : State) : Host.Outcome State Fault Refusal := s.done (fun w => w.scrub slot.toNat)

/-- ACORN_REFRESH_START, R124. -/
def execAcornRefreshStart (p : Path) (v : Word) (s : State) : Host.Outcome State Fault Refusal :=
  s.done (fun w => w.odCommand p 0x8042 1 v true (World.onOne World.refreshStart))

/-- ACORN_REFRESH_CANCEL, R420. -/
def execAcornRefreshCancel (p : Path) (v : Word) (s : State) : Host.Outcome State Fault Refusal :=
  s.done (fun w => w.odCommand p 0x8042 2 v true (World.onOne (fun w => w.cancelDue (.cancelRefresh p))))

/-- HUSK_ACTIVE_IMAGE_WRITE, R126. -/
def execHuskActiveImageWrite (p : Path) (h : Fin 16) (v : Word) (s : State) : Host.Outcome State Fault Refusal :=
  s.done (fun w => w.odCommand p (0x3030 + h.val * 256) 1 v true (fun w v => w.bindImage h.val v))

/-- SLOT_RETURN_RESIDENT, R126. -/
def execSlotReturnResident (slot : Fin 16) (s : State) : Host.Outcome State Fault Refusal :=
  s.done (fun w => if w.slotState slot.val = 4 ∧ !w.slotUsed slot.val then w.setSlotState slot.val 3 else w)

/-- ACORN_IMAGE_RELEASE, R127. -/
def execAcornImageRelease (p : Path) (v : Word) (s : State) : Host.Outcome State Fault Refusal :=
  s.done (fun w => w.odCommand p 0x8001 0 v true (fun w v => w.releaseImage v))

/-- ACORN_INSTALL_START, R130. -/
def execAcornInstallStart (p : Path) (v : Word) (s : State) : Host.Outcome State Fault Refusal :=
  s.done (fun w => w.odCommand p 0x8010 6 v true (World.onOne World.installStart))

/-- INSTALL_MANIFEST_VERIFIED, R130. -/
def execInstallManifestVerified (manifest signature : List Byte) (s : State) : Host.Outcome State Fault Refusal :=
  s.done (fun w => w.manifestVerified manifest signature)

/-- INSTALL_CHUNK, R130 and R132. -/
def execInstallChunk (chunk : Nat) (data : List Byte) (s : State) : Host.Outcome State Fault Refusal :=
  s.done (fun w => w.chunkReceived chunk data)


/-- ACORN_INSTALL_CANCEL, R133. -/
def execAcornInstallCancel (p : Path) (v : Word) (s : State) : Host.Outcome State Fault Refusal :=
  s.done (fun w => w.odCommand p 0x8010 7 v true (World.onOne (fun w => w.cancelDue (.cancelInstall p))))

/-- INSTALL_UPSTREAM_TIMEOUT, R133. -/
def execInstallUpstreamTimeout (s : State) : Host.Outcome State Fault Refusal := s.done (fun w => w.installTimeout)

end Sys2Proof.Machine
end

