-- ==== Sys2Proof/Machine/Coherence.lean ====
section
/-! DEFINITION. Coherence of the pip clusters' L2s (R97 to R101): the directory, its grants, writebacks and snoops, and
the accesses of pips that go through it. -/
namespace Sys2Proof.Machine

/-- The key of a cluster's copy of a line. -/
def copyKey (line c : Nat) : Nat := line * 128 + c

/-- A line of which no cluster holds a copy. -/
def DirLine.init : DirLine := ⟨none, [], none, [], [], 0, 0⟩

/-- h of R98: the XOR of the eleven fields. -/
def homeHash (pa : Nat) : Nat :=
  (List.range 10).foldl (fun x i => x ^^^ fld pa (6 + 4 * i) 4) (fld pa 46 2)

/-- May the line be cached at all: HBM, acorn window and Tier 3 (R90, R97, R100)? -/
def cacheableLine (pa : Nat) : Bool :=
  match regionOf pa with
  | .hbm => true
  | .acorn _ => true
  | .tier3 _ => true
  | _ => false

/-- Is it a line of the acorn window (S only, R97)? -/
def acornLine (pa : Nat) : Bool :=
  match regionOf pa with
  | .acorn _ => true
  | _ => false

/-- Distance from P to a cluster in ascending cyclic order, R101. -/
def cyclicFrom (p c : Nat) : Nat := (c + 128 - p % 128) % 128

/-- Insert a request by its distance from P. -/
def insertReq (p : Nat) (x : Nat × Bool) : List (Nat × Bool) → List (Nat × Bool)
  | [] => [x]
  | y :: t => if cyclicFrom p x.1 < cyclicFrom p y.1 then x :: y :: t
    else if x.1 = y.1 then y :: t else y :: insertReq p x t

/-- Requests of one core cycle in the order of R101. -/
def orderReqs (p : Nat) (l : List (Nat × Bool)) : List (Nat × Bool) := l.foldl (fun acc x => insertReq p x acc) []

namespace World

/-- Change the coherence state. -/
def upCoh (w : World) (f : CohSt → CohSt) : World := { w with dev := { w.dev with coh := f w.dev.coh } }
/-- Directory entry of a line. -/
def dirLine (w : World) (l : Nat) : DirLine := w.dev.coh.dir.getD l DirLine.init
/-- Set a directory entry; the entry of an uncached line is none. -/
def setDir (w : World) (l : Nat) (d : DirLine) : World :=
  w.upCoh (fun c => { c with dir := if d = DirLine.init then c.dir.del l else c.dir.put l d })
/-- A cluster's copy of a line. -/
def copy? (w : World) (l c : Nat) : Option LineCopy := w.dev.coh.copies.get? (copyKey l c)
/-- Set a cluster's copy. -/
def setCopy (w : World) (l c : Nat) (x : LineCopy) : World :=
  w.upCoh (fun s => { s with copies := s.copies.put (copyKey l c) x })
/-- Drop a cluster's copy. -/
def dropCopy (w : World) (l c : Nat) : World :=
  w.upCoh (fun s => { s with copies := s.copies.del (copyKey l c) })

/-- The husk whose programs run on a cluster. -/
def clusterHusk (w : World) (c : Nat) : Nat := w.running (c / 8)

/-- The home slice of a line for a husk's requests, R98; none when the husk owns no slice. -/
def homeOf (w : World) (h pa : Nat) : Option Nat :=
  let ss := w.slicesOf h
  ss[homeHash pa % ss.length]?

/-- The line's bytes in memory. -/
def lineBytes (w : World) (l : Nat) : List Byte := w.bytes (l * 64) 64

/-- Write a line back to memory under its key; its poison marks stay as they are. -/
def storeLine (w : World) (l : Nat) (data : List Byte) (key : Nat) : World :=
  (w.push (.bytes (w.cell (l * 64)) data)).push (.tag (w.cell (l * 64) / 64) key)

/-- A Tier 3 access is in flight. -/
def t3Begin (w : World) (a : T3Access) : World := { w with dev := { w.dev with t3 := w.dev.t3.put w.dev.t3.fresh a } }

/-- Lines that a cluster's L2 of 2 MiB holds, R97. -/
def l2Lines : Nat := 32768

/-- Room for one more line in a cluster's L2, R97: when it is full a line leaves it, which one the spec does not say (a free
choice, log entry 152), as R99 has it: an S copy silently, an E copy by PutE, an M copy by PutM. -/
def makeRoom (w : World) (l c : Nat) : World :=
  let held := w.dev.coh.copies.items.filter (fun x => x.1 % 128 == c && x.1 / 128 != l)
  if held.length < l2Lines then w
  else
    let (n, w1) := w.fresh
    match held[(Config.freeWord n).toNat % held.length]? with
    | none => w1
    | some (k, x) =>
      let v := k / 128
      let d := w1.dirLine v
      match x.state with
      | .s => w1.dropCopy v c
      | .e => (w1.dropCopy v c).setDir v { d with owner := none, host := 0 }
      | .m => ((w1.storeLine v x.bytes x.key).dropCopy v c).setDir v { d with owner := none, writeback := none, host := 0 }

/-- A cluster takes a line into its L2. -/
def takeCopy (w : World) (l c : Nat) (x : LineCopy) : World := (w.makeRoom l c).setCopy l c x

/-- Is it a line of host memory (R100)? -/
def hostLine (l : Nat) : Bool :=
  match regionOf (l * 64) with
  | .tier3 _ => true
  | _ => false

/-- Grant a line to a cluster, R99, and give it the data. A host line is granted E only when the home owns it (R100): the cluster
could else make it M without the host. -/
def grant (w : World) (l c : Nat) (own : Bool) : World :=
  let d := w.dirLine l
  let mem : LineCopy := ⟨.s, w.lineBytes l, w.keyOf (l * 64)⟩
  match d.owner with
  | none =>
    if own then
      ((d.sharers.foldl (fun w x => w.dropCopy l x) w).setDir l { d with owner := some c, sharers := [] }).takeCopy l c { mem with state := .m }
    else if d.sharers.isEmpty && !acornLine (l * 64) && (!hostLine l || d.host == 2) then
      (w.setDir l { d with owner := some c }).takeCopy l c { mem with state := .e }
    else (w.setDir l { d with sharers := setInsert c d.sharers }).takeCopy l c mem
  | some o =>
    let x := (w.copy? l o).getD mem
    if own then
      ((w.dropCopy l o).setDir l { d with owner := some c }).takeCopy l c { x with state := .m }
    else
      let w1 := if x.state = .m then w.storeLine l x.bytes x.key else w
      let w2 := (w1.setCopy l o { x with state := .s }).takeCopy l c { x with state := .s }
      w2.setDir l { d with owner := none, sharers := setInsert o (setInsert c d.sharers) }

/-- A writeback's data lands in the home, R99: memory holds it and no cluster holds the line. -/
def landWriteback (w : World) (l : Nat) : World :=
  let d := w.dirLine l
  match d.writeback with
  | none => w
  | some o => ((w.storeLine l d.wbData d.wbKey).dropCopy l o).setDir l { DirLine.init with queue := d.queue }

/-- Must the home take the line from the host before it can serve the request, R100: RdShared for GetS, RdOwn for GetM? -/
def hostNeeded (w : World) (l : Nat) (own : Bool) : Bool := hostLine l && decide ((w.dirLine l).host < if own then 2 else 1)

/-- The home asks the host for the line, R100; a port that cannot carry it leaves the request without the line, and its read
fails with TIER3_UNREACHABLE (R146). The access is that of the cluster's first pip (log entry 152). -/
def hostFetch (w : World) (l c : Nat) (own : Bool) : World :=
  let m := masterId 0x2 (c * 32)
  let h := w.clusterHusk c
  if w.dev.t3.vals.any (fun a => a.user == 5 && a.addr == l * 64) then w
  else match regionOf (l * 64) with
    | .tier3 p =>
      if w.portCarries p then w.t3Begin ⟨p, false, l * 64, 64, m, h, 5, c, [], if own then 2 else 1⟩
      else ((w.contained h m 1 0x0209 (l * 64)).inc (oTier3Poisoned p) 1).setDir l { w.dirLine l with queue := (w.dirLine l).queue.drop 1 }
    | _ => w

/-- Serve the request that is next in the line's queue, R101. -/
def serveNext (w : World) (l : Nat) : World :=
  let d := w.dirLine l
  match d.writeback, d.queue with
  | none, (c, own) :: rest => if w.hostNeeded l own then w.hostFetch l c own else (w.setDir l { d with queue := rest }).grant l c own
  | _, _ => w

/-- Serve every request queued for the line. -/
def serveAll (w : World) (l : Nat) : World := (w.dirLine l).queue.foldl (fun w _ => w.serveNext l) w

/-- The host's answer to the home, R100 and R146: the line is the home's, shared or owned, and the request is served; or it is
poisoned or does not come, and the request ends without the line. -/
def hostAnswers (w : World) (a : T3Access) (o : HostOutcome) : World :=
  let l := a.addr / 64
  let d := w.dirLine l
  let lost (w : World) (reason : Nat) : World :=
    ((w.contained a.husk a.master 1 reason a.addr).inc (oTier3Poisoned a.port) 1).setDir l
      { d with queue := d.queue.filter (fun q => q.1 != a.ref) }
  match o with
  | .clean => (w.setDir l { d with host := Nat.max d.host a.coh }).serveNext l
  | .poison => lost w 0x0204
  | .unreachable => lost w 0x0209

/-- Does a cluster's access to a line need a request: it holds no copy, or (to own it) none that it owns; never GetM for an acorn
line (R97)? -/
def misses (w : World) (l : Nat) (q : Nat × Bool) : Bool :=
  match w.copy? l q.1 with
  | none => !(q.2 && acornLine (l * 64))
  | some x => q.2 && x.state == .s && !acornLine (l * 64)

/-- Is the request one that the cluster sends? One that holds an S copy has dropped it silently before it sends GetS (R99). -/
def sends (w : World) (l : Nat) (q : Nat × Bool) : Bool :=
  !(w.dirLine l).queue.any (fun x => x.1 == q.1)
    && (w.misses l q || (!q.2 && (w.copy? l q.1).any (fun x => x.state == .s)))

/-- Requests for one line that reach its home in the same core cycle, R99 and R101: a single one is served (or held
behind a writeback or earlier requests); of several the first after P wins, P moves past it, the others queue. -/
def requests (w : World) (pa : Nat) (l0 : List (Nat × Bool)) : World :=
  let l := pa / 64
  match (l0.filter (fun q => w.sends l q)) with
  | [] => w
  | q :: more =>
    match w.homeOf (w.clusterHusk q.1) pa with
    | none => w
    | some home =>
      if !cacheableLine pa then w
      else
        let p := w.rd (oCoherencePointer home)
        let order := orderReqs p (q :: more)
        let w1 := match order with
          | a :: _ :: _ => w.wr (oCoherencePointer home) ((a.1 + 1) % 128)
          | _ => w
        let d := w1.dirLine l
        let w2 := w1.setDir l { d with queue := d.queue ++ order }
        if d.writeback.isSome || !d.queue.isEmpty then w2 else w2.serveNext l

/-- A line that a pip's access needs in its cluster: earlier requests for the line are served first, then the grant. -/
def fetchLine (w : World) (l c : Nat) (own : Bool) : World :=
  if !w.misses l (c, own) then w else ((w.landWriteback l).serveAll l).requests (l * 64) [(c, own)]

/-- A snoop of the host, R100: the clusters' copies are downgraded to S or invalidated; data in M goes back; the home holds the
line shared, or no more. -/
def snoop (w : World) (l : Nat) (invalidate : Bool) : World :=
  let w0 := w.landWriteback l
  let d := w0.dirLine l
  let w1 := match d.owner with
    | none => w0
    | some o => match w0.copy? l o with
      | none => w0
      | some x =>
        let w2 := if x.state = Mesi.m then w0.storeLine l x.bytes x.key else w0
        (w2.setCopy l o { x with state := Mesi.s }).setDir l { d with owner := none, sharers := setInsert o d.sharers }
  let d1 := w1.dirLine l
  if invalidate then (d1.sharers.foldl (fun (w : World) x => w.dropCopy l x) w1).setDir l { d1 with sharers := [], host := 0 }
  else w1.setDir l { d1 with host := Nat.min d1.host 1 }

/-- The pieces of a range inside 64-byte lines: address and length. -/
def linePieces : Nat → Nat → Nat → List (Nat × Nat)
  | 0, _, _ => []
  | f + 1, a, n =>
    if n = 0 then []
    else
      let k := Nat.min n (64 - a % 64)
      (a, k) :: linePieces f (a + k) (n - k)

/-- Read a range through a cluster's cache. -/
def cachedRead (w : World) (c : Nat) (husk : Option Nat) (master acc a n key : Nat) : Rd × World :=
  (linePieces (n / 64 + 2) a n).foldl (fun st p =>
    let l := p.1 / 64
    let held := (st.2.copy? l c).isSome
    let (r, w1) := match regionOf p.1 with
      | .acorn _ => if held then (st.2.windowCached p.1 p.2, st.2) else st.2.readWindow husk acc p.1 p.2
      | _ => (st.2.readStored p.1 p.2 key, if held then st.2 else st.2.reportBadLines husk master acc p.1 p.2)
    let w2 := w1.fetchLine l c false
    let d := match w2.copy? l c with
      | some x => if x.key = key then (x.bytes.drop (p.1 % 64)).take p.2 else r.data
      | none => r.data
    (st.1.append { r with data := d }, w2)) (⟨[], [], []⟩, w)

/-- Replace bytes inside a line's 64. -/
def patch (bytes : List Byte) (o : Nat) (data : List Byte) : List Byte :=
  bytes.take o ++ data ++ bytes.drop (o + data.length)

/-- Write a range through a cluster's cache: each line is owned in M first (R97, R99). -/
def cachedWrite (w : World) (c a : Nat) (data : List Byte) (key : Nat) : World :=
  let w1 := (linePieces (data.length / 64 + 2) a data.length).foldl (fun (w : World) p =>
    let l := p.1 / 64
    let w1 := (w.rekey p.1 p.2 key).fetchLine l c true
    match w1.copy? l c with
    | some x => w1.setCopy l c { x with state := .m, bytes := patch x.bytes (p.1 % 64) ((data.drop (p.1 - a)).take p.2) }
    | none => w1.store p.1 ((data.drop (p.1 - a)).take p.2)) w
  w1.markWritten a (List.replicate data.length false)

/-- A pip's read of memory through its husk's page table, its caches seen (R90, R97); `ok` false when a walk faulted. -/
def pipRead (w : World) (p h va n : Nat) (need : Need) (acc : Nat) : (Rd × Bool) × World :=
  let m := masterId 0x2 p
  (pages (pageFuel n) va n).foldl (fun st q =>
    match st.2.translate h q.1 need with
    | (.fault a r, w1) => ((st.1.1.append (Rd.poison q.1 q.2 []), false), w1.contained h m (if a = 0 then acc else a) r q.1)
    | (.ok pa enc nc, w1) =>
      let key := if enc then w1.huskKey h else 0
      let (r, w2) := if cacheableLine pa && !nc && (match regionOf pa with
          | .tier3 _ => w1.tier3Offered pa && (linePieces (q.2 / 64 + 2) pa q.2).all (fun x => (w1.copy? (x.1 / 64) (p / 32)).isSome)
          | _ => true)
        then w1.cachedRead (p / 32) (some h) m acc pa q.2 key
        else w1.readPhys (some h) m acc pa q.2 key
      ((st.1.1.append r, st.1.2), w2)) ((⟨[], [], []⟩, true), w)

end World

/-- GETS, R99 and R101: `others` reach the home in the same core cycle. -/
def execGets (c : Fin 128) (line : BitVec 48) (others : List CohReq) (s : State) : Host.Outcome State Fault Refusal :=
  s.done (fun w => w.requests line.toNat ((c.val, false) :: others.map (fun q => (q.cluster.val, q.own))))

/-- GETM, R99 and R101. -/
def execGetm (c : Fin 128) (line : BitVec 48) (others : List CohReq) (s : State) : Host.Outcome State Fault Refusal :=
  s.done (fun w => w.requests line.toNat ((c.val, true) :: others.map (fun q => (q.cluster.val, q.own))))

/-- PUTM, R99: the owner's writeback is in flight until its data lands. -/
def execPutm (c : Fin 128) (line : BitVec 48) (s : State) : Host.Outcome State Fault Refusal :=
  s.done (fun w =>
    let l := line.toNat / 64
    let d := w.dirLine l
    match w.copy? l c.val with
    | some x => if d.owner = some c.val ∧ d.writeback = none ∧ x.state = .m then
        w.setDir l { d with writeback := some c.val, wbData := x.bytes, wbKey := x.key } else w
    | none => w)

/-- PUTE, R99: the owner of a clean line gives it up. -/
def execPute (c : Fin 128) (line : BitVec 48) (s : State) : Host.Outcome State Fault Refusal :=
  s.done (fun w =>
    let l := line.toNat / 64
    let d := w.dirLine l
    match w.copy? l c.val with
    | some x => if d.owner = some c.val ∧ d.writeback = none ∧ x.state = .e then
        (w.dropCopy l c.val).setDir l { d with owner := none, host := 0 } else w
    | none => w)

/-- WRITEBACK_LANDS, R99 and R101: memory takes the data, and the first request held is granted. -/
def execWritebackLands (line : BitVec 48) (s : State) : Host.Outcome State Fault Refusal :=
  s.done (fun w => if (w.dirLine (line.toNat / 64)).writeback.isSome then
    (w.landWriteback (line.toNat / 64)).serveNext (line.toNat / 64) else w)

/-- HOST_SNOOP, R100: of a host memory line. -/
def execHostSnoop (line : BitVec 48) (invalidate : Bool) (s : State) : Host.Outcome State Fault Refusal :=
  s.done (fun w => match regionOf line.toNat with
    | .tier3 _ => w.snoop (line.toNat / 64) invalidate
    | _ => w)

/-- NEXT_OWNER_FORWARD, R101: the winner has completed one access, and the line goes to the next owner. -/
def execNextOwnerForward (line : BitVec 48) (s : State) : Host.Outcome State Fault Refusal :=
  s.done (fun w => w.serveNext (line.toNat / 64))

end Sys2Proof.Machine
end

