-- ==== Sys2Proof/Machine/Checkpoint.lean ====
section
/-! DEFINITION. Checkpoint tables (R262 to R265): the entries that a COPY saves to or restores from, and the checks. -/
namespace Sys2Proof.Machine

/-- Fields of a checkpoint entry, R263. -/
def ckAddr (v : Nat) : Nat := fld v 208 48
def ckCrc (v : Nat) : Nat := fld v 176 32
def ckBytes (v : Nat) : Nat := fld v 136 40
def ckVerify (v : Nat) : Bool := bitAt v 8
def ckState (v : Nat) : Nat := fld v 4 4

namespace World

/-- Address of entry i of a table. -/
def ckAt (base i : Nat) : Nat := base + 32 * i
/-- Address of an entry of the table in force, R262. -/
def ckVa (w : World) (h i : Nat) : Nat := ckAt (w.dev.prefetch.ckBase.getD h 0) i
/-- The entry at a virtual address as a number. -/
def ckWord (w : World) (h va : Nat) : Nat :=
  match w.peek h va .rd with
  | some pa => w.num pa 32
  | none => 0
/-- An entry of the table in force. -/
def ckEnt (w : World) (h i : Nat) : Nat := w.ckWord h (w.ckVa h i)

/-- The entry whose ADDR and BYTES these are, R264. -/
def ckFind (w : World) (h va n : Nat) : Option Nat :=
  (List.range (w.rd (oHuskCkptCount h))).find? (fun i => ckAddr (w.ckEnt h i) == va && ckBytes (w.ckEnt h i) == n)

/-- Set CRC and STATE of an entry. -/
def ckSet (w : World) (h m i crc st : Nat) : World :=
  w.putVirt h m 0x20 (w.ckVa h i) (leBytes 32 (setFld (setFld (w.ckEnt h i) 176 32 crc) 4 4 st))

/-- Change only STATE. -/
def ckMark (w : World) (h m i st : Nat) : World := w.ckSet h m i (ckCrc (w.ckEnt h i)) st

/-- A restore that failed, R264. -/
def ckFailed (w : World) (h m i : Nat) : World := (w.ckMark h m i 3).inc (oHuskCkptFailures h) 1

/-- Does every page of a range lie in HBM or in Tier 3 of the husk? -/
def inHbmOrTier3 (w : World) (h va n : Nat) (need : Need) : Bool :=
  (pages (pageFuel n) va (Nat.max 1 n)).all (fun p => match w.peek h p.1 need with
    | some pa => (match regionOf pa with
      | .hbm => true
      | .tier3 _ => true
      | _ => false)
    | none => false)

/-- Is the next table of n entries valid, R262? -/
def ckTableOk (w : World) (h n : Nat) : Bool :=
  let es := (List.range n).map (fun i => w.ckWord h (ckAt (w.rd (oHuskCkptTableBase h)) i))
  let rising := ((es.zip (es.drop 1)).all (fun p => decide (ckAddr p.1 + ckBytes p.1 ≤ ckAddr p.2) && decide (ckAddr p.1 < ckAddr p.2)))
  rising && es.all (fun e => w.inHbmOrTier3 h (ckAddr e) (ckBytes e) .rd)

/-- Is a schedule run of the husk active on one of its slices? -/
def runActive (w : World) (h : Nat) : Bool :=
  (w.slicesOf h).any (fun s => match w.dev.prefetch.engines.get? s with
    | some x => x.run.isSome
    | none => false)

/-- A write of HuskCkptCount, R262: the table at HuskCkptTableBase comes into force, or the previous one stays. -/
def ckptCount (w : World) (h n : Nat) : Nat × World :=
  if w.runActive h then (0x0208, w)
  else if !w.ckTableOk h n then (0x0504, w)
  else (0, { w with dev := { w.dev with prefetch := { w.dev.prefetch with
    ckBase := w.dev.prefetch.ckBase.put h (w.rd (oHuskCkptTableBase h)) } } }.wr (oHuskCkptCount h) n)

/-- A write of HuskCkptTableBase, R262. -/
def ckptBase (w : World) (h v : Nat) : Nat × World := if w.runActive h then (0x0208, w) else (0, w.wr (oHuskCkptTableBase h) v)

end World

/-- CKPT_TABLE_WRITE, R262. -/
def execCkptTableWrite (p : Path) (h : Fin 16) (v : Word) (s : State) : Host.Outcome State Fault Refusal :=
  s.done (fun w => w.odCommand p (0x3080 + h.val * 256) 2 v true (fun w n => w.ckptCount h.val n))

end Sys2Proof.Machine
end

