-- ==== Sys2Proof/Machine/Prefetch.lean ====
section
/-! DEFINITION. Tier 3, shards, prefetch schedules and the shared pool (R144 to R164). -/
namespace Sys2Proof.Machine

def pKind (c : Nat) : Nat := fld c 0 8
def pLead (c : Nat) : Nat := fld c 192 8
def pLayer (c : Nat) : Nat := fld c 200 16
def pBytes (c : Nat) : Nat := fld c 216 40
def pSrc (c : Nat) : Nat := fld c 256 48
def pDst (c : Nat) : Nat := fld c 304 48
def pFlagSeq (c : Nat) : Nat := fld c 368 32
def pFlag (c : Nat) : Nat := fld c 400 48
def pObj (c : Nat) : Nat := fld c 448 32
def pMin (c : Nat) : Nat := fld c 480 32
/-- The RSVD bits of R151. -/
def pReserved (c : Nat) : Bool := rsvd c 8 40 && rsvd c 64 128 && rsvd c 352 16

/-- Fields of SCHEDULE_RUN, R152. -/
def runAddr (c : Nat) : Nat := fld c 512 48
def runCount (c : Nat) : Nat := fld c 576 32
def runCursor (c : Nat) : Nat := fld c 624 48

/-- The entry's number among those of its slice: 0 for a single command, n + 1 for entry n of the run. -/
def entryNo : EntryRef → Nat
  | .queue => 0
  | .run n => n + 1

/-- A newly issued entry. -/
def newEntry (cmd now cause : Nat) : PfEntry := ⟨cmd, 0, false, now, now, 0, [], [], 0, pDst cmd, none, cause, false⟩

/-- A pool table entry, R158. -/
structure PoolEnt where
  addr : Nat
  lastUse : Nat
  epoch : Nat
  bytes : Nat
  pin : Nat
  holds : Nat
  state : Nat
  deriving DecidableEq, Repr

/-- The entry of a 32-byte word, R158. -/
def poolOf (v : Nat) : PoolEnt := ⟨fld v 208 48, fld v 128 64, fld v 96 32, fld v 56 40, fld v 16 32, fld v 8 8, fld v 0 4⟩
/-- The 32 bytes of an entry. -/
def poolBytes (e : PoolEnt) : List Byte :=
  leBytes 32 (e.state + fit 8 e.holds * 2 ^ 8 + e.pin * 2 ^ 16 + e.bytes * 2 ^ 56 + e.epoch * 2 ^ 96 + e.lastUse * 2 ^ 128 + e.addr * 2 ^ 208)

/-- The subindex (less one) of the cause that R155 gives. -/
def stallCause (flags : Nat) : Nat :=
  if bitAt flags 0 then 2 else if bitAt flags 1 then 3 else if bitAt flags 2 then 0
  else if bitAt flags 3 then 4 else if bitAt flags 4 then 1 else 4

/-- Rank of a cause under R155, the highest first. -/
def causeRank (flags : Nat) : Nat :=
  if bitAt flags 0 then 0 else if bitAt flags 1 then 1 else if bitAt flags 2 then 2
  else if bitAt flags 3 then 3 else if bitAt flags 4 then 4 else 5

namespace World

/-- Change the prefetch state. -/
def upPf (w : World) (f : PrefetchSt → PrefetchSt) : World := { w with dev := { w.dev with prefetch := f w.dev.prefetch } }
/-- A slice's prefetch engine. -/
def pf (w : World) (s : Nat) : PfSt := w.dev.prefetch.engines.getD s ⟨none, none⟩
/-- Set it. -/
def setPf (w : World) (s : Nat) (x : PfSt) : World := w.upPf (fun p => { p with engines := p.engines.put s x })
/-- An entry by its number. -/
def entry (w : World) (s n : Nat) : Option PfEntry :=
  match n with
  | 0 => (w.pf s).single
  | n + 1 => match (w.pf s).run with
    | some r => r.flight.get? n
    | none => none
/-- Set an entry. -/
def setEntry (w : World) (s n : Nat) (e : PfEntry) : World :=
  match n with
  | 0 => w.setPf s { w.pf s with single := some e }
  | n + 1 => match (w.pf s).run with
    | some r => w.setPf s { w.pf s with run := some { r with flight := r.flight.put n e } }
    | none => w
/-- Change an entry. -/
def modEntry (w : World) (s n : Nat) (f : PfEntry → PfEntry) : World :=
  match w.entry s n with
  | some e => w.setEntry s n (f e)
  | none => w
/-- The husk in whose name a slice's prefetch engine works (R334); number 16 + s is the engine of slice s as its update
sequencer uses it (R283, R296). -/
def pfHusk (w : World) (s : Nat) : Nat := (w.ownerOf (s % 16)).getD 0
/-- Master identifier of the engine. -/
def pfMaster (s : Nat) : Nat := masterId 0x7 (s % 16)

/-- The port of a virtual address in Tier 3. -/
def tier3Port (w : World) (h va : Nat) (need : Need) : Option Nat :=
  match w.peek h va need with
  | none => none
  | some pa => match regionOf pa with
    | .tier3 p => some p
    | _ => none

/-- Poison a virtual range, R154. -/
def poisonVirt (w : World) (h m va n : Nat) : World :=
  (w.writeVirt h m 0x20 va ((List.range n).map (fun i => Config.poisonByte (va + i))) (List.replicate n true)).2

/-! ### Pool, R157 to R162 -/

/-- Address of a pool table entry. -/
def poolVa (w : World) (h o : Nat) : Nat := w.rd (oHuskPoolTableBase h) + 32 * o
/-- Read a pool table entry. -/
def poolEnt (w : World) (h o : Nat) : PoolEnt :=
  match w.peek h (w.poolVa h o) .rd with
  | some pa => poolOf (w.num pa 32)
  | none => ⟨0, 0, 0, 0, 0, 0, 0⟩
/-- Write a pool table entry. -/
def setPoolEnt (w : World) (h m o : Nat) (e : PoolEnt) : World := w.putVirt h m 0x20 (w.poolVa h o) (poolBytes e)

/-- Every object of the pool that holds bytes: number and entry. -/
def poolHeld (w : World) (h : Nat) : List (Nat × PoolEnt) :=
  ((List.range (w.rd (oHuskPoolObjects h))).map (fun o => (o, w.poolEnt h o))).filter (fun p => p.2.state == 1 || p.2.state == 2)

/-- HuskPoolBytesResident, Loading and Free, and the pool ledger's HELD (R157, R399). -/
def poolCounts (w : World) (h res load : Nat) : World :=
  let w1 := ((w.wr (oHuskPoolBytesResident h) res).wr (oHuskPoolBytesLoading h) load).wr (oHuskPoolBytesFree h)
    (w.rd (oHuskPoolBytes h) - (res + load))
  (w1.wr (oLedgerPool h 1) (res + load)).wr (oLedgerPool h 3) (w.rd (oHuskPoolBytes h))

/-- Bytes allocated to a loading object. -/
def poolTakes (w : World) (h n : Nat) : World :=
  (w.poolCounts h (w.rd (oHuskPoolBytesResident h)) (w.rd (oHuskPoolBytesLoading h) + n)).inc (oLedgerPool h 0) n
/-- A loading object becomes RESIDENT. -/
def poolLoaded (w : World) (h n : Nat) : World :=
  w.poolCounts h (w.rd (oHuskPoolBytesResident h) + n) (w.rd (oHuskPoolBytesLoading h) - n)
/-- Bytes freed from a RESIDENT (`res`) or LOADING object. -/
def poolFrees (w : World) (h n : Nat) (res : Bool) : World :=
  (w.poolCounts h (w.rd (oHuskPoolBytesResident h) - (if res then n else 0))
    (w.rd (oHuskPoolBytesLoading h) - (if res then 0 else n))).inc (oLedgerPool h 2) n

/-- A RESIDENT object becomes ABSENT at once, its bytes free (R161). -/
def poolDrop (w : World) (h m o : Nat) : World :=
  let e := w.poolEnt h o
  (w.setPoolEnt h m o { e with state := 0 }).poolFrees h e.bytes true
/-- Evict an object, R161. -/
def poolEvict (w : World) (h m o : Nat) : World := (w.poolDrop h m o).inc (oHuskPoolEvictions h) 1

/-- May the object be evicted: RESIDENT, unpinned, held by no run? -/
def evictable (w : World) (h : Nat) (e : PoolEnt) : Bool := e.state == 2 && e.holds == 0 && e.pin != w.rd (oHuskPoolTurn h)

/-- The lowest range of `n` bytes free in the pool. -/
def poolFit (w : World) (h n : Nat) : Option Nat :=
  let base := w.rd (oHuskPoolBase h)
  let held := w.poolHeld h
  ((List.range (w.rd (oHuskPoolBytes h) / 0x10000)).map (fun i => base + i * 0x10000)).find? (fun a =>
    decide (a + n ≤ base + w.rd (oHuskPoolBytes h)) && held.all (fun p => decide (a + n ≤ p.2.addr) || decide (p.2.addr + p.2.bytes ≤ a)))

/-- Find room for an object, evicting the least recently used evictable objects first (R161). -/
def poolPlace : Nat → World → Nat → Nat → Nat → Option Nat × World
  | 0, w, h, _, n => (w.poolFit h n, w)
  | f + 1, w, h, m, n =>
    match w.poolFit h n with
    | some a => (some a, w)
    | none =>
      let cand := (w.poolHeld h).filter (fun p => w.evictable h p.2)
      match cand with
      | [] => (none, w)
      | p :: ps =>
        let best := ps.foldl (fun b q => if q.2.lastUse < b.2.lastUse then q else b) p
        poolPlace f (w.poolEvict h m best.1) h m n

/-- The size an object takes, R158. -/
def poolSize (n : Nat) : Nat := (n + 0xFFFF) / 0x10000 * 0x10000

/-- Pinned bytes of the current turn, R160. -/
def pinnedBytes (w : World) (h : Nat) : Nat :=
  (((w.poolHeld h).filter (fun p => p.2.pin == w.rd (oHuskPoolTurn h))).map (fun p => p.2.bytes)).foldl (· + ·) 0

/-- A run takes a hold on an object, once (R158, R159); a single command holds nothing beyond its own completion (log entry 22). -/
def takeHold (w : World) (s n h o : Nat) : World :=
  match n, (w.pf s).run with
  | _ + 1, some r =>
    if r.holds.elem o then w else
    let e := w.poolEnt h o
    (w.setPoolEnt h (pfMaster s) o { e with holds := e.holds + 1 }).setPf s { w.pf s with run := some { r with holds := o :: r.holds } }
  | _, _ => w

/-- Release every hold of the slice's run, R159. -/
def releaseHolds (w : World) (s : Nat) : World :=
  match (w.pf s).run with
  | none => w
  | some r =>
    let h := w.pfHusk s
    let w1 := r.holds.foldl (fun w o =>
      let e := w.poolEnt h o
      w.setPoolEnt h (pfMaster s) o { e with holds := e.holds - 1 }) w
    w1.setPf s { w1.pf s with run := some { r with holds := [] } }

/-! ### Entries -/

/-- An entry has ended with a reason; its flag is written when it completes. A publication of an update sequencer ends
its update command (R296). -/
def entryEnds (w : World) (s n reason : Nat) : World :=
  if s < 16 then w.modEntry s n (fun e => { e with stage := 11, flying := false, reason := reason })
  else
    let first := match w.entry s n with
      | some e => e.bad.any id && reason == e.reason
      | none => false
    let r : RingRef := w.blockRing (Fin.ofNat 16 (s % 16)) 13
    (w.setPf s ⟨none, none⟩).modTaken r (fun t => t.wait == .event) (fun t => { t with
      wait := .done, status := if first then 2 else t.status, reason := if reason = 0 then t.reason else reason })

/-- The entries of every slice of a husk that wait for the load of an object. -/
def waiters (w : World) (h o : Nat) : List (Nat × Nat) :=
  ((w.slicesOf h).map (fun s =>
    let all := (match (w.pf s).single with
      | some e => [(0, e)]
      | none => []) ++ (match (w.pf s).run with
      | some r => r.flight.items.map (fun p => (p.1 + 1, p.2))
      | none => [])
    (all.filter (fun p => p.2.stage == 10 && pObj p.2.cmd == o)).map (fun p => (s, p.1)))).flatten

/-- A load of a pool object has ended, R159: RESIDENT, with the holds of the ensures that waited, or FAILED. -/
def loadEnds (w : World) (s n h o epoch reason : Nat) : World :=
  let e := w.poolEnt h o
  let m := pfMaster s
  let w1 := if reason = 0 then
      (w.setPoolEnt h m o { e with state := 2, epoch := epoch, lastUse := w.now }).poolLoaded h e.bytes
    else (w.setPoolEnt h m o { e with state := 3 }).poolFrees h e.bytes false
  let all := (s, n) :: w1.waiters h o
  all.foldl (fun w q =>
    let w2 := if reason = 0 then w.takeHold q.1 q.2 h o else w
    w2.entryEnds q.1 q.2 reason) w1

/-- A COPY that saved a checkpoint: CRC and STATE of its entry, R264. -/
def ckptSaved (w : World) (s reason : Nat) (e : PfEntry) : World :=
  if pKind e.cmd ≠ 1 then w
  else match w.ckFind (w.pfHusk s) (pDst e.cmd) (pBytes e.cmd) with
    | none => w
    | some i =>
      if reason = 0 then w.ckSet (w.pfHusk s) (pfMaster s) i (crc32c e.data) 1 else w.ckMark (w.pfHusk s) (pfMaster s) i 3

/-- An entry's transfer has succeeded, or moved poison (reason of R524). -/
def transferDone (w : World) (s n reason : Nat) : World :=
  match w.entry s n with
  | none => w
  | some e => match e.obj with
    | some o => w.loadEnds s n (w.pfHusk s) o (if pMin e.cmd = 0 then 0 else fld e.header 0 32) reason
    | none => (w.ckptSaved s reason e).entryEnds s n reason

/-- Is a COPY a save that checks and writes no bytes, R265? -/
def verifies (w : World) (s cmd : Nat) : Bool :=
  let h := w.pfHusk s
  match w.ckFind h (pDst cmd) (pBytes cmd) with
  | none => false
  | some i => ckVerify (w.ckEnt h i) && (ckState (w.ckEnt h i) == 1 || ckState (w.ckEnt h i) == 2)

/-- An entry's source or destination has failed, R146, R154: the destination is poisoned (a publication leaves OPEN at 1, a save
that only checks writes nothing). -/
def transferFails (w : World) (s n reason : Nat) : World :=
  match w.entry s n with
  | none => w
  | some e =>
    let w0 := if pKind e.cmd = 1 ∧ e.stage = 2 ∧ reason ≠ 0x0504 then
        (match w.ckFind (w.pfHusk s) (pSrc e.cmd) (pBytes e.cmd) with
        | some i => w.ckFailed (w.pfHusk s) (pfMaster s) i
        | none => w)
      else w
    let w1 := if pKind e.cmd = 3 || (pKind e.cmd == 1 && w0.verifies s e.cmd) then w0
      else w0.poisonVirt (w0.pfHusk s) (pfMaster s) e.dst (pBytes e.cmd)
    let w2 := w1.modEntry s n (fun e => { e with cause := setFld e.cause 0 1 (if reason = 0x0204 ∨ reason = 0x0209 then 1 else fld e.cause 0 1) })
    let w3 := match w2.peek (w2.pfHusk s) (pDst e.cmd) .wr with
      | some pa => if pKind e.cmd = 3 ∧ e.stage ≠ 12 ∧ e.stage ≠ 14 then w2.upPf (fun p => { p with cutShards := setInsert pa p.cutShards }) else w2
      | none => w2
    w3.transferDone s n reason

/-- What an entry reads or writes at its stage: virtual address, bytes, and for a write the data. -/
def stageRead (e : PfEntry) : Option (Nat × Nat) :=
  let pay := if pKind e.cmd = 2 ∨ (pKind e.cmd ≠ 1 ∧ pMin e.cmd ≠ 0) then 64 else 0
  match e.stage with
  | 1 => some (pSrc e.cmd, 8)
  | 2 => some (pSrc e.cmd + pay, pBytes e.cmd)
  | 3 => some (pSrc e.cmd, 8)
  | 12 => some (pDst e.cmd, 8)
  | 14 => some (pSrc e.cmd, pBytes e.cmd)
  | _ => none

/-- The write of a stage. -/
def stageWrite (e : PfEntry) : Option (Nat × List Byte) :=
  match e.stage with
  | 5 => some (e.dst, e.data)
  | 6 => some (pDst e.cmd, leBytes 8 (setFld e.header 63 1 1))
  | 13 => some (pDst e.cmd + 8, leBytes 8 (pBytes e.cmd))
  | 7 => some (pDst e.cmd + 64, e.data)
  | 8 => some (pDst e.cmd, leBytes 8 (setFld (setFld e.header 63 1 0) 0 32 (fld e.header 0 32 + 1)))
  | _ => none

/-- The bytes of a COPY have been read, R264 and R265: a restore is checked, a verifying save compares and writes
nothing, anything else goes on to its write. -/
def copyRead (w : World) (s n : Nat) (e : PfEntry) : World :=
  let h := w.pfHusk s
  let m := pfMaster s
  let crc := crc32c e.data
  let bad := e.bad.any id
  let (fails, w1) := match w.ckFind h (pSrc e.cmd) (pBytes e.cmd) with
    | none => ((none : Option Nat), w)
    | some i =>
      let v := w.ckEnt h i
      if ckState v ≠ 1 ∧ ckState v ≠ 2 then (some 0x0504, w.ckFailed h m i)
      else if bad then (some e.reason, w)
      else if ckCrc v = crc then (none, w.ckMark h m i 2)
      else (some 0x0504, w.ckFailed h m i)
  match fails with
  | some reason => (w1.setEntry s n { e with stage := 2 }).transferFails s n reason
  | none => match w1.ckFind h (pDst e.cmd) (pBytes e.cmd) with
    | none => w1.setEntry s n { e with stage := 5 }
    | some i =>
      if w1.verifies s e.cmd then
        (if bad then (w1.ckMark h m i 3).entryEnds s n e.reason
         else if ckCrc (w1.ckEnt h i) = crc then w1.entryEnds s n 0
         else (w1.inc (oHuskRecomputeMismatch h) 1).entryEnds s n 0x0505)
      else w1.setEntry s n { e with stage := 5 }

/-- What follows a read of a stage (R149, R150). -/
def afterRead (w : World) (s n : Nat) (d : Rd) : World :=
  match w.entry s n with
  | none => w
  | some e =>
    let h := w.pfHusk s
    let v := d.nat
    let set (e : PfEntry) : World := w.setEntry s n { e with flying := false }
    match e.stage with
    | 1 => if bitAt v 63 || decide (fld v 0 32 < pMin e.cmd) then set { e with stage := 4, since := w.now, cause := setFld e.cause 4 1 1 }
      else set { e with stage := 2, header := v }
    | 2 => if pKind e.cmd = 1 then w.copyRead s n { e with flying := false, data := d.data, bad := d.bad, reason := d.reason }
      else set { e with stage := if pMin e.cmd ≠ 0 ∨ pKind e.cmd = 2 then 3 else 5, data := d.data, bad := d.bad, reason := d.reason }
    | 3 => if v = e.header then set { e with stage := 5 } else set { e with stage := 1 }
    | 12 =>
      let pa := (w.peek h (pDst e.cmd) .wr).getD 0
      let cut := w.dev.prefetch.cutShards.elem pa
      if fld v 32 16 ≠ w.self ∨ (bitAt v 63 ∧ !cut) then w.entryEnds s n 0x0205
      else if fld v 0 32 = 0xFFFFFFFF then w.entryEnds s n 0x0003
      else
        (w.upPf (fun p => { p with cutShards := setErase pa p.cutShards })).setEntry s n { e with stage := 14, flying := false, header := v }
    | 14 => set { e with stage := 6, data := d.data, bad := d.bad, reason := d.reason }
    | _ => w

/-- What follows an acknowledged write of a stage. -/
def afterWrite (w : World) (s n : Nat) : World :=
  match w.entry s n with
  | none => w
  | some e =>
    let set (e : PfEntry) : World := w.setEntry s n { e with flying := false }
    match e.stage with
    | 6 => set { e with stage := 13 }
    | 13 => set { e with stage := 7 }
    | 7 => set { e with stage := 8 }
    | 8 => w.transferDone s n e.reason
    | _ => w.transferDone s n e.reason

/-- The bytes of a stage's write reach memory. -/
def stageStore (w : World) (s : Nat) (e : PfEntry) : World :=
  match stageWrite e with
  | none => w
  | some (va, d) => (w.writeVirt (w.pfHusk s) (pfMaster s) 0x20 va d
      (if e.stage = 5 ∨ e.stage = 7 then e.bad else List.replicate d.length false)).2

/-- Rereads of stored tiles counted on every stack, R121. -/
def tileRereads (w : World) : Nat := ((List.range 8).map (fun a => w.rd (oAcornReadRetries a))).foldl (· + ·) 0

/-- A read of a stage has failed at its port, R146: the payload of a publication is then poisoned, any other entry's destination. -/
def readFails (w : World) (s n reason : Nat) : World :=
  match w.entry s n with
  | some e => if e.stage = 14 then
      w.setEntry s n { e with stage := 6, flying := false, reason := reason, bad := List.replicate (pBytes e.cmd) true,
                              data := (Rd.poison (pSrc e.cmd) (pBytes e.cmd) []).data, cause := setFld e.cause 0 1 1 }
    else w.transferFails s n reason
  | none => w

/-- Carry an entry on until it waits, for Tier 3 or otherwise, or has ended. -/
def carryOn : Nat → World → Nat → Nat → World
  | 0, w, _, _ => w
  | f + 1, w, s, n =>
    match w.entry s n with
    | none => w
    | some e =>
      let h := w.pfHusk s
      let m := pfMaster s
      if e.flying then w
      else match stageRead e, stageWrite e with
        | some (va, k), _ =>
          match w.tier3Port h va .rd with
          | some p =>
            let w1 := w.setEntry s n { e with flying := true, cause := setFld e.cause 4 1 1 }
            if w.portCarries p then w1.t3Begin ⟨p, false, va, k, m, h, 1, s * 0x200000 + n, [], 0⟩
            else ((w1.contained h m 0x20 0x0209 va).inc (oTier3Poisoned p) 1).readFails s n 0x0209
          | none =>
            let ((d, ok), w1) := w.readVirt h m 0x20 va k
            let w2 := if w1.tileRereads = w.tileRereads then w1 else w1.modEntry s n (fun e => { e with cause := setFld e.cause 2 1 1 })
            if !ok then w2.transferFails s n 0x0004 else carryOn f (w2.afterRead s n d) s n
        | none, some (va, d) =>
          match w.tier3Port h va .wr with
          | some p =>
            let w1 := w.setEntry s n { e with flying := true, cause := setFld e.cause 4 1 1 }
            if w.portCarries p then w1.t3Begin ⟨p, true, va, d.length, m, h, 1, s * 0x200000 + n, [], 0⟩
            else w1.transferFails s n 0x0209
          | none => carryOn f ((w.stageStore s e).afterWrite s n) s n
        | none, none => w

/-- Steps without a wait in one command. -/
def carryFuel : Nat := 16

/-- Checks of an entry, R151: reason of the first that fails. -/
def entryFail (w : World) (h s cmd : Nat) : Option Nat :=
  let k := pKind cmd
  let moves := decide (1 ≤ k) && decide (k ≤ 5)
  let pool := k == 4 || k == 5
  firstFail [
    (pReserved cmd, 0x0003), (decide (1 ≤ k) && decide (k ≤ 6), 0x0003),
    (!moves || (pBytes cmd % 64 == 0 && pBytes cmd != 0), 0x0003),
    (pMin cmd == 0 || k == 2 || k == 4, 0x0003),
    (!pool || decide (pObj cmd < w.rd (oHuskPoolObjects h)), 0x0003),
    (pSrc cmd % 64 == 0 && pDst cmd % 64 == 0, 0x0004),
    (!(decide (k ≤ 3)) || w.mapped h (pSrc cmd) 1 .rd, 0x0004),
    (!(decide (k ≤ 3)) || w.mapped h (pDst cmd) 1 .wr, 0x0004),
    (w.inScratch h s (pFlag cmd) 8 .wr, 0x0004)]

/-- The ranges that an entry's check walks. -/
def entrySpans (cmd : Nat) : List Span :=
  (if pKind cmd ≤ 3 then [(pSrc cmd, 1, Need.rd), (pDst cmd, 1, Need.wr)] else []) ++ [(pFlag cmd, 8, .wr)]

/-- An entry that fails its check ends with its reason; a walk of the check that faults is recorded (R44). -/
def entryRejected (w : World) (s n reason cmd : Nat) : World :=
  (if reason = 0x0004 then w.noteWalk (w.pfHusk s) (pfMaster s) (entrySpans cmd) else w).entryEnds s n reason

/-- The ranges that the check of a run walks. -/
def runSpans (cmd : Nat) : List Span := [(runCursor cmd, 8, .rd), (runAddr cmd, 64 * runCount cmd, .rd)]

/-- Begin the load of a pool object, space having been found at `a` (R159). -/
def beginLoad (w : World) (s n h o a : Nat) : World :=
  match w.entry s n with
  | none => w
  | some e =>
    let size := poolSize (pBytes e.cmd)
    let old := w.poolEnt h o
    let pin := if pKind e.cmd = 5 then w.rd (oHuskPoolTurn h) else old.pin
    let w1 := (w.setPoolEnt h (pfMaster s) o ⟨a, w.now, 0, size, pin, 0, 1⟩).poolTakes h size
    carryOn carryFuel (w1.setEntry s n { e with stage := if pMin e.cmd = 0 then 2 else 1, dst := a, obj := some o }) s n

/-- An ensure waits for pool space at the end of its husk's queue; of requests of one tick the lower master's goes first (R162). -/
def poolWait (w : World) (s n h : Nat) : World :=
  let q := w.dev.prefetch.poolQueue.getD h []
  let after (x : Nat × Nat) : Bool := (match w.entry x.1 x.2 with
    | some e => e.since == w.now
    | none => false) && (decide (s < x.1) || (x.1 == s && decide (n < x.2)))
  let front := q.takeWhile (fun x => !after x)
  (w.modEntry s n (fun e => { e with stage := 9, since := w.now, cause := setFld e.cause 1 1 1 })).upPf (fun p => { p with
    poolQueue := p.poolQueue.put h (front ++ (s, n) :: q.drop front.length) })

/-- Place an ensure that needs a load, or answer that it must wait; what was evicted stays evicted (R159, R161). -/
def poolTry (w : World) (s n h : Nat) : Bool × World :=
  match w.entry s n with
  | none => (true, w)
  | some e =>
    let o := pObj e.cmd
    let x := w.poolEnt h o
    if x.state = 2 ∧ 0 < x.holds then (false, w)
    else
      let w0 := if x.state = 2 then w.poolDrop h (pfMaster s) o else w
      match w0.poolPlace (w0.rd (oHuskPoolObjects h) + 1) h (pfMaster s) (poolSize (pBytes e.cmd)) with
      | (some a, w1) => (true, w1.beginLoad s n h o a)
      | (none, w1) => (false, w1)

/-- An ensure finds its object RESIDENT, R159 and R160. -/
def poolFound (w : World) (s n h : Nat) (e : PfEntry) : World :=
  let o := pObj e.cmd
  let x := w.poolEnt h o
  let y := { x with lastUse := w.now, pin := if pKind e.cmd = 5 then w.rd (oHuskPoolTurn h) else x.pin }
  ((w.setPoolEnt h (pfMaster s) o y).takeHold s n h o).entryEnds s n 0

/-- Would a POOL_PIN take the pinned bytes beyond the pool, R160? An object that is pinned and holds bytes is counted already. -/
def pinTooMuch (w : World) (h : Nat) (e : PfEntry) : Bool :=
  let x := w.poolEnt h (pObj e.cmd)
  let holds := x.state == 1 || x.state == 2
  pKind e.cmd == 5 && !(holds && x.pin == w.rd (oHuskPoolTurn h))
    && decide (w.rd (oHuskPoolBytes h) < w.pinnedBytes h + (if holds then x.bytes else poolSize (pBytes e.cmd)))

/-- POOL_ENSURE and POOL_PIN, R159 and R160. -/
def poolRun (w : World) (s n : Nat) : World :=
  match w.entry s n with
  | none => w
  | some e =>
    let h := w.pfHusk s
    let o := pObj e.cmd
    let x := w.poolEnt h o
    let size := poolSize (pBytes e.cmd)
    let turn := w.rd (oHuskPoolTurn h)
    let isPin := pKind e.cmd == 5
    if w.pinTooMuch h e then w.entryEnds s n 0x0207
    else if x.state = 2 ∧ pMin e.cmd ≤ x.epoch then w.poolFound s n h e
    else if x.state = 1 then
      (w.setPoolEnt h (pfMaster s) o { x with pin := if isPin then turn else x.pin }).modEntry s n (fun e => { e with stage := 10 })
    else if w.rd (oHuskPoolBytes h) < size then w.entryEnds s n 0x0207
    else if !(w.dev.prefetch.poolQueue.getD h []).isEmpty then w.poolWait s n h
    else match w.poolTry s n h with
      | (true, w1) => w1
      | (false, w1) => w1.poolWait s n h

/-- Serve the head of a husk's pool queue, R162. -/
def poolServe (w : World) (h : Nat) : World :=
  match w.dev.prefetch.poolQueue.getD h [] with
  | [] => w
  | (s, n) :: rest =>
    let w0 := w.upPf (fun p => { p with poolQueue := p.poolQueue.put h rest })
    match w0.entry s n with
    | none => w0
    | some e =>
      let x := w0.poolEnt h (pObj e.cmd)
      if w0.pinTooMuch h e then w0.entryEnds s n 0x0207
      else if x.state = 2 ∧ pMin e.cmd ≤ x.epoch then w0.poolFound s n h e
      else if x.state = 1 then
        (w0.setPoolEnt h (pfMaster s) (pObj e.cmd) { x with pin := if pKind e.cmd = 5 then w0.rd (oHuskPoolTurn h) else x.pin }).modEntry s n
          (fun e => { e with stage := 10 })
      else match w0.poolTry s n h with
        | (true, w1) => w1
        | (false, w1) => w1.upPf (fun p => { p with poolQueue := p.poolQueue.put h ((s, n) :: rest) })

/-- The entries of every engine: engine, number and entry. -/
def allEntries (w : World) : List (Nat × Nat × PfEntry) :=
  (w.dev.prefetch.engines.items.map (fun x =>
    (match x.2.single with
    | some e => [(x.1, 0, e)]
    | none => []) ++ (match x.2.run with
    | some r => r.flight.items.map (fun p => (x.1, p.1 + 1, p.2))
    | none => []))).flatten

/-- Is an earlier publication of the same shard not finished (R149)? Of those issued in one tick the lower engine's, then the
lower entry's, is the earlier. -/
def earlierPublish (w : World) (s n : Nat) (e : PfEntry) : Bool :=
  let shard (s : Nat) (e : PfEntry) : Option Nat := w.peek (w.pfHusk s) (pDst e.cmd) .wr
  w.allEntries.any (fun x => pKind x.2.2.cmd == 3 && x.2.2.stage != 11 && shard x.1 x.2.2 == shard s e && shard s e != none
    && (decide (x.2.2.issued < e.issued) || (x.2.2.issued == e.issued && (decide (x.1 < s) || (x.1 == s && decide (x.2.1 < n))))))

/-- A publication begins when no earlier one of its shard is unfinished, R149. -/
def publishStart (w : World) (s n : Nat) : World :=
  match w.entry s n with
  | some e => if w.earlierPublish s n e then w else carryOn carryFuel (w.setEntry s n { e with stage := 12 }) s n
  | none => w

/-- Run an issued entry. -/
def entryRun (w : World) (s n : Nat) : World :=
  match w.entry s n with
  | none => w
  | some e =>
    match w.entryFail (w.pfHusk s) s e.cmd with
    | some r => w.entryRejected s n r e.cmd
    | none =>
      match pKind e.cmd with
      | 1 => carryOn carryFuel (w.setEntry s n { e with stage := 2 }) s n
      | 2 => carryOn carryFuel (w.setEntry s n { e with stage := 1 }) s n
      | 3 => w.publishStart s n
      | 6 => (w.releaseHolds s).entryEnds s n 0
      | _ => w.poolRun s n

/-- An entry's step of one kind: a queue-11 command of this kind is taken, or an issued entry of this kind runs. -/
def entryStep (w : World) (s : Fin 16) (e : EntryRef) (kind : Nat) : World :=
  match e with
  | .run k => match w.entry s.val (k + 1) with
    | some x => if pKind x.cmd = kind ∧ x.stage = 0 then w.entryRun s.val (k + 1) else w
    | none => w
  | .queue =>
    match w.entry s.val 0 with
    | some x => if pKind x.cmd = kind ∧ x.stage = 0 then w.entryRun s.val 0 else w
    | none =>
      w.blockTake s 11 kind (fun w c cmd =>
        if !rsvd cmd 512 512 then w.finished c cmd 1 0x0003
        else (((w.waiting c cmd .prefetch []).setPf s.val { w.pf s.val with single := some (newEntry (cmd % 2 ^ 512) w.now 0) }).entryRun s.val 0))

/-- A publication that waits behind an earlier one of its shard begins (R149): the update sequencer's of the slice, and one of
queue 11 or of a run. -/
def publishStep (w : World) (s : Fin 16) (e : EntryRef) : World :=
  match e, w.entry (16 + s.val) 0 with
  | .queue, some x => (if x.stage = 0 then w.publishStart (16 + s.val) 0 else w).entryStep s e 3
  | _, _ => w.entryStep s e 3

/-- ShardPollInterval has passed and a waiting fetch rereads the header, R150. -/
def shardPoll (w : World) (s n : Nat) : World :=
  match w.entry s n with
  | none => w
  | some e => if e.stage = 4 ∧ e.since + w.rd oShardPollInterval ≤ w.now then carryOn carryFuel (w.setEntry s n { e with stage := 1 }) s n else w

/-- The layer cursor of a run, R153. -/
def runCursorNow (w : World) (h cmd : Nat) : Nat :=
  match w.peek h (runCursor cmd) .rd with
  | some pa => w.num pa 8
  | none => 0

/-- Does a schedule run use port p (R144): does an entry of it name an address of that port, or an access of it travel there? -/
def runUsesPort (w : World) (p : Nat) : Bool :=
  w.dev.t3.vals.any (fun a => a.user == 1 && a.port == p)
    || w.dev.prefetch.engines.items.any (fun x => match x.2.run with
      | none => false
      | some r =>
        let h := w.pfHusk x.1
        (List.range (runCount r.cmd)).any (fun i => match w.peek h (runAddr r.cmd + 64 * i) .rd with
          | none => false
          | some pa =>
            let e := w.num pa 64
            [1, 2, 3, 4, 5].elem (pKind e) && (w.tier3Port h (pSrc e) .rd == some p || w.tier3Port h (pDst e) .wr == some p)))

/-- SCHEDULE_RUN taken, R152. -/
def scheduleRun (w : World) (c : Ctx) (cmd : Nat) : World :=
  let ok := rsvd cmd 8 40 && rsvd cmd 64 448 && rsvd cmd 560 16 && rsvd cmd 608 16 && rsvd cmd 672 352
    && decide (1 ≤ runCount cmd) && decide (runCount cmd ≤ 1048576)
  let addr := runAddr cmd % 64 == 0 && runCursor cmd % 8 == 0 && w.inScratch c.husk c.slice (runCursor cmd) 8 .rd
    && (w.inHbm c.husk (runAddr cmd) (64 * runCount cmd) .rd || w.inScratch c.husk c.slice (runAddr cmd) (64 * runCount cmd) .rd)
  if !ok then w.finished c cmd 1 0x0003
  else if !addr then w.rejected c cmd 0x0004 (runSpans cmd)
  else (w.waiting c cmd .prefetch []).setPf c.slice { w.pf c.slice with run := some ⟨cmd, 0, .empty, .empty, [], []⟩ }

/-- The next entry of a run is issued when the cursor has reached LAYER − LEAD, R153. -/
def issueEntry (w : World) (s : Nat) : World :=
  match (w.pf s).run with
  | none => w
  | some r =>
    if r.next ≥ runCount r.cmd ∨ 32 ≤ r.flight.items.length then w
    else
      let h := w.pfHusk s
      let ((d, ok), w1) := w.readVirt h (pfMaster s) 0x20 (runAddr r.cmd + 64 * r.next) 64
      let cur := w.runCursorNow h r.cmd
      let cmd := d.nat
      let put (w : World) (e : PfEntry) : World := w.setPf s { w.pf s with run := some { r with
        next := r.next + 1, flight := r.flight.put r.next { e with overdue := r.late.elem r.next, cause := e.cause + (if r.late.elem r.next then 0x800 else 0) },
        late := setErase r.next r.late } }
      let listed := decide (1 ≤ pKind cmd) && decide (pKind cmd ≤ 6)
      if !ok || d.anyBad then put w1 { newEntry 0 w.now 0 with stage := 11, reason := if ok then d.reason else 0x0004 }
      else if cur < pLayer cmd - pLead cmd then w
      else
        let e := newEntry cmd w.now (if pLayer cmd ≤ cur then 8 else 0)
        put w1 (if listed then e else { e with stage := 11, reason := 0x0003 })

/-- STATUS of a single command that ended with a reason, R84. -/
def entryStatus (reason : Nat) : Nat :=
  if reason = 0 then 0 else if [0x0003, 0x0004, 0x0205, 0x0207].elem reason then 1 else 2

/-- A finished entry completes, R153: its flag is written; the run completes with its last entry. -/
def entryComplete (w : World) (s : Fin 16) (n : Nat) : World :=
  match w.entry s.val n with
  | none => w
  | some e =>
    if e.stage ≠ 11 then w
    else
      let r := w.blockRing s 11
      let w1 := if e.cmd = 0 then w else w.putVirt (w.pfHusk s.val) (pfMaster s.val) 0x20 (pFlag e.cmd) (leBytes 8 (pFlagSeq e.cmd + e.reason * 2 ^ 32))
      match n with
      | 0 => (w1.setPf s.val { w1.pf s.val with single := none }).finishWait r .prefetch (entryStatus e.reason) e.reason
      | k + 1 => match (w1.pf s.val).run with
        | none => w1
        | some x =>
          let x1 := { x with flight := x.flight.del k, reasons := if e.reason = 0 then x.reasons else x.reasons.put k e.reason }
          let w2 := w1.setPf s.val { w1.pf s.val with run := some x1 }
          if x1.next = runCount x1.cmd ∧ x1.flight.items.isEmpty then
            let reason := (x1.reasons.vals.head?).getD 0
            let w3 := w2.releaseHolds s.val
            (w3.setPf s.val { w3.pf s.val with run := none }).finishWait r .prefetch (if reason = 0 then 0 else 2) reason
          else w2

/-- An entry passes PrefetchTimeout, R154. -/
def entryTimeout (w : World) (s n : Nat) : World :=
  match w.entry s n with
  | none => w
  | some e =>
    if e.stage = 11 ∨ w.now < e.issued + w.rd oPrefetchTimeout then w
    else
      let h := w.pfHusk s
      let ref := s * 0x200000 + n
      let w1 := { w with dev := { w.dev with t3 := w.dev.t3.delIf (fun _ a => a.user == 1 && a.ref == ref) } }
      let w2 := w1.upPf (fun p => { p with poolQueue := p.poolQueue.put h ((p.poolQueue.getD h []).filter (fun q => q != (s, n))) })
      if e.stage = 9 ∨ e.stage = 10 ∨ (pKind e.cmd = 3 ∧ e.stage = 0) then w2.entryEnds s n 0x0206
      else w2.transferFails s n 0x0206

/-- HuskPoolFlush, R157. -/
def poolFlush (w : World) (h : Nat) : Nat × World :=
  (0, ((w.poolHeld h).filter (fun p => w.evictable h p.2)).foldl (fun w p => w.poolEvict h (masterId 0 0) p.1) w)

/-! ### Ends of Tier 3 accesses, R146 -/

/-- The home holds the lines of a range from the host, shared (1) or owned (2), R100. -/
def hostHeld (w : World) (a n coh : Nat) : World :=
  w.each ((List.range ((a + n + 63) / 64 - a / 64)).map (fun i => a / 64 + i)) (fun w l =>
    w.setDir l { w.dirLine l with host := Nat.max (w.dirLine l).host coh })

/-- A Tier 3 access of a pip ends (R100): its cluster takes the lines, shared for a load and owned for a store, and the access
happens; an access to an NC page goes to host memory itself (R90). -/
def pipTier3End (w : World) (a : T3Access) (o : HostOutcome) : World :=
  let c := masterIndex a.master / 32
  let deliver (w : World) (r : Rd) : World :=
    { w with dev := { w.dev with access := w.dev.access.put a.master ⟨r.data, r.bad, true⟩ } }
  let lost (w : World) : World := { w with dev := { w.dev with access := w.dev.access.put a.master ⟨[], [], false⟩ } }
  match o with
  | .clean =>
    if a.coh = 0 then
      (if a.write then w.writeStored a.addr a.data (List.replicate a.data.length false) 0
        else deliver w (w.readStored a.addr a.len 0))
    else if a.write then (w.hostHeld a.addr a.len a.coh).cachedWrite c a.addr a.data 0
    else
      let (r, w1) := (w.hostHeld a.addr a.len a.coh).cachedRead c (some a.husk) a.master 1 a.addr a.len 0
      deliver w1 r
  | .poison =>
    let w1 := (w.contained a.husk a.master 1 0x0204 a.addr).inc (oTier3Poisoned a.port) 1
    if a.write then lost w1 else deliver w1 (Rd.poison a.addr a.len [0x0204])
  | .unreachable =>
    if a.write then lost w
    else deliver ((w.contained a.husk a.master 1 0x0209 a.addr).inc (oTier3Poisoned a.port) 1) (Rd.poison a.addr a.len [0x0209])

/-- A Tier 3 access of a prefetch entry ends. -/
def entryTier3End (w0 : World) (a : T3Access) (o : HostOutcome) : World :=
  let s := a.ref / 0x200000
  let n := a.ref % 0x200000
  match w0.entry s n with
  | none => w0
  | some e =>
    match o with
    | .clean =>
      if a.write then carryOn carryFuel ((w0.stageStore s e).afterWrite s n) s n
      else
        let ((d, ok), w1) := w0.readVirt a.husk a.master 0x20 a.addr a.len
        if !ok then w1.transferFails s n 0x0004 else carryOn carryFuel (w1.afterRead s n d) s n
    | .poison => carryOn carryFuel (((w0.contained a.husk a.master 0x20 0x0204 a.addr).inc (oTier3Poisoned a.port) 1).readFails s n 0x0204) s n
    | .unreachable =>
      if a.write then w0.transferFails s n 0x0209
      else carryOn carryFuel (((w0.contained a.husk a.master 0x20 0x0209 a.addr).inc (oTier3Poisoned a.port) 1).readFails s n 0x0209) s n

/-! ### Stalls at a tick, R155 and R156 -/

/-- The entries of a run not yet issued whose due tick has come, R156. -/
def unissuedDue (w : World) (h : Nat) (r : PfRun) (cur : Nat) : List Nat :=
  ((List.range (runCount r.cmd)).drop r.next).filter (fun i => match w.peek h (runAddr r.cmd + 64 * i) .rd with
    | some pa => decide (pLayer (w.num pa 64) ≤ cur)
    | none => false)

/-- Overdue entries of a slice at a tick boundary are counted: each once by the cause that it then has, and the tick by the
highest-ranked cause among them (R155, R156). One that is due and not yet issued will be issued late. -/
def stallTick (w : World) (s : Nat) : World :=
  match (w.pf s).run with
  | none => w
  | some r =>
    let h := w.pfHusk s
    let cur := w.runCursorNow h r.cmd
    let due := w.unissuedDue h r cur
    let behind := (r.flight.items.filter (fun p => decide (pLayer p.2.cmd ≤ cur) && p.2.cmd != 0)).map (fun p =>
      (p.1, p.2, if p.2.overdue then p.2.cause / 0x100 else p.2.cause))
    let w1 := behind.foldl (fun w p => if p.2.1.overdue then w
      else (w.setEntry s (p.1 + 1) { p.2.1 with overdue := true, cause := p.2.2 % 0x100 + p.2.2 % 0x100 * 0x100 }).inc
        (oPrefetchStallEvents s (stallCause p.2.2)) 1) w
    let new := due.filter (fun i => !r.late.elem i)
    let w2 := if new.isEmpty then w1
      else match (w1.pf s).run with
        | some x => (w1.setPf s { w1.pf s with run := some { x with late := r.late ++ new } }).inc
            (oPrefetchStallEvents s (stallCause 8)) new.length
        | none => w1
    match behind.map (fun p => p.2.2) ++ due.map (fun _ => 8) with
    | [] => w2
    | c :: cs => w2.inc (oPrefetchStallTicks s (stallCause (cs.foldl (fun b q => if causeRank q < causeRank b then q else b) c))) 1

end World

/-- COPY, R151. -/
def execCopy (sl : Fin 16) (e : EntryRef) (s : State) : Host.Outcome State Fault Refusal := s.done (fun w => w.entryStep sl e 1)
/-- SHARD_FETCH, R150. -/
def execShardFetch (sl : Fin 16) (e : EntryRef) (s : State) : Host.Outcome State Fault Refusal := s.done (fun w => w.entryStep sl e 2)
/-- SHARD_POLL, R150. -/
def execShardPoll (sl : Fin 16) (e : EntryRef) (s : State) : Host.Outcome State Fault Refusal := s.done (fun w => w.shardPoll sl.val (entryNo e))
/-- SHARD_PUBLISH, R149. -/
def execShardPublish (sl : Fin 16) (e : EntryRef) (s : State) : Host.Outcome State Fault Refusal := s.done (fun w => w.publishStep sl e)
/-- POOL_ENSURE, R159. -/
def execPoolEnsure (sl : Fin 16) (e : EntryRef) (s : State) : Host.Outcome State Fault Refusal := s.done (fun w => w.entryStep sl e 4)
/-- POOL_PIN, R160. -/
def execPoolPin (sl : Fin 16) (e : EntryRef) (s : State) : Host.Outcome State Fault Refusal := s.done (fun w => w.entryStep sl e 5)
/-- STEP_END, R159. -/
def execStepEnd (sl : Fin 16) (e : EntryRef) (s : State) : Host.Outcome State Fault Refusal := s.done (fun w => w.entryStep sl e 6)
/-- SCHEDULE_RUN, R152 and R153. -/
def execScheduleRun (sl : Fin 16) (s : State) : Host.Outcome State Fault Refusal := 
  s.done (fun w => if w.dev.seqs.turnHeld.elem ((w.ownerOf sl.val).getD 16) then w else w.blockTake sl 11 0x10 World.scheduleRun)
/-- SCHEDULE_ENTRY_ISSUE, R153. -/
def execScheduleEntryIssue (sl : Fin 16) (s : State) : Host.Outcome State Fault Refusal := s.done (fun w => w.issueEntry sl.val)
/-- PREFETCH_ENTRY_COMPLETE, R153. -/
def execPrefetchEntryComplete (sl : Fin 16) (e : EntryRef) (s : State) : Host.Outcome State Fault Refusal :=
  s.done (fun w => w.entryComplete sl (entryNo e))
/-- PREFETCH_TIMEOUT, R154. -/
def execPrefetchTimeout (sl : Fin 16) (e : EntryRef) (s : State) : Host.Outcome State Fault Refusal :=
  s.done (fun w => match e with
    | .queue => (w.entryTimeout sl.val 0).entryTimeout (16 + sl.val) 0
    | .run n => w.entryTimeout sl.val (n + 1))
/-- POOL_WAIT_SERVED, R162. -/
def execPoolWaitServed (h : Fin 16) (s : State) : Host.Outcome State Fault Refusal := s.done (fun w => w.poolServe h.val)
/-- HUSK_POOL_FLUSH, R157. -/
def execHuskPoolFlush (p : Path) (h : Fin 16) (v : Word) (s : State) : Host.Outcome State Fault Refusal :=
  s.done (fun w => w.odCommand p (0x3040 + h.val * 256) 0xA v true (World.onOne (fun w => w.poolFlush h.val)))

end Sys2Proof.Machine
end

