-- ==== Sys2Proof/Machine/Pods.lean ====
section
/-! DEFINITION. KV pods: the pod table, pod lists, allocation, sharing, tentative entries, swap and forwarding
(R186 to R213). -/
namespace Sys2Proof.Machine

/-- A pod-table entry, R188. -/
structure Pod where
  swapAddr : Nat
  tentSeq : Nat
  tentGen : Nat
  tentEnd : Nat
  commit : Nat
  refs : Nat
  layer : Nat
  pos0 : Nat
  srcNode : Nat
  heads : Nat
  readers : Nat
  husk : Nat
  logTok : Nat
  headDim : Nat
  fmt : Nat
  poison : Bool
  state : Nat
  deriving DecidableEq, Repr

/-- The entry of a 32-byte word, R188. -/
def podOf (v : Nat) : Pod :=
  ⟨fld v 208 48, fld v 192 16, fld v 160 32, fld v 144 16, fld v 128 16, fld v 112 16, fld v 96 16, fld v 72 24,
   fld v 48 16, fld v 40 8, fld v 24 16, fld v 20 4, fld v 16 4, fld v 14 2, fld v 10 4, bitAt v 4, fld v 0 4⟩

/-- The word of an entry. -/
def podWord (p : Pod) : Nat :=
  p.state + (if p.poison then 2 ^ 4 else 0) + p.fmt * 2 ^ 10 + p.headDim * 2 ^ 14 + p.logTok * 2 ^ 16 + p.husk * 2 ^ 20
    + p.readers * 2 ^ 24 + p.heads * 2 ^ 40 + p.srcNode * 2 ^ 48 + p.pos0 * 2 ^ 72 + p.layer * 2 ^ 96 + p.refs * 2 ^ 112
    + p.commit * 2 ^ 128 + p.tentEnd * 2 ^ 144 + p.tentGen * 2 ^ 160 + p.tentSeq * 2 ^ 192 + p.swapAddr * 2 ^ 208

/-- The entry of a FREE pod. -/
def Pod.free : Pod := podOf 0

/-- STATE values of R188. -/
def podFree : Nat := 0
def podActive : Nat := 1
def podSwapOut : Nat := 2
def podCopying : Nat := 3
def podRetiring : Nat := 4

/-- A pod-list entry, R189: kind 0 EMPTY, 1 RESIDENT, 2 SWAPPED, 3 SWAPPING. -/
structure ListEnt where
  kind : Nat
  pod : Nat
  addr : Nat
  count : Nat
  deriving DecidableEq, Repr

/-- The entry of an 8-byte word, R189. -/
def listOf (v : Nat) : ListEnt := ⟨fld v 62 2, fld v 0 22, fld v 16 32 * 65536, fld v 0 9⟩
/-- The word of a RESIDENT (1) or SWAPPING (3) entry. -/
def listPod (kind pod : Nat) : Nat := pod % 2 ^ 22 + kind * 2 ^ 62
/-- The word of a SWAPPED entry. -/
def listSwapped (addr count : Nat) : Nat := count % 512 + fld addr 16 32 * 65536 + 2 * 2 ^ 62
/-- Does the entry name a pod? -/
def ListEnt.names (e : ListEnt) : Bool := e.kind == 1 || e.kind == 3

/-- Geometry of a pod: LOG2_TOKENS, HEADS, HEAD_DIM, FMT (R186). -/
structure Geo where
  logTok : Nat
  heads : Nat
  headDim : Nat
  fmt : Nat
  deriving DecidableEq, Repr

/-- TOKENS of R186. -/
def Geo.tokens (g : Geo) : Nat := 2 ^ g.logTok
/-- D as R167 codes it. -/
def headD (code : Nat) : Nat := 64 * (code + 1)
/-- Element bytes of a KV format (0x1 to 0x4). -/
def kvBytes (fmt : Nat) : Nat := match Fmt.ofCode fmt with
  | some f => f.bits / 8
  | none => 1
/-- TOKEN_BYTES of R186. -/
def Geo.tokenBytes (g : Geo) : Nat := 2 * g.heads * headD g.headDim * kvBytes g.fmt
/-- The geometry of a pod. -/
def Pod.geo (p : Pod) : Geo := ⟨p.logTok, p.heads, p.headDim, p.fmt⟩
/-- A geometry as one number, and back. -/
def Geo.pack (g : Geo) : Nat := g.logTok + g.heads * 16 + g.headDim * 4096 + g.fmt * 16384
def Geo.unpack (v : Nat) : Geo := ⟨fld v 0 4, fld v 4 8, fld v 12 2, fld v 14 4⟩
/-- Is the geometry one that R186 and R191 allow? -/
def Geo.ok (g : Geo) : Bool :=
  decide (3 ≤ g.logTok) && decide (g.logTok ≤ 8) && decide (1 ≤ g.fmt) && decide (g.fmt ≤ 4) && decide (0 < g.heads)
    && decide (g.tokens * g.tokenBytes ≤ 65536)

/-! ### The command, R191 -/

def dWait (c : Nat) : Bool := bitAt c 8
def dTent (c : Nat) : Bool := bitAt c 9
def dPrio (c : Nat) : Nat := fld c 24 2
def dSeq (c : Nat) : Nat := fld c 64 16
def dGen (c : Nat) : Nat := fld c 96 32
def dLayer (c : Nat) : Nat := fld c 128 16
def dLayers (c : Nat) : Nat := fld c 144 16
def dCount (c : Nat) : Nat := fld c 160 24
def dPos (c : Nat) : Nat := fld c 184 24
def dList (c : Nat) : Nat := fld c 208 48
def dSrc (c : Nat) : Nat := fld c 272 48
def dDst (c : Nat) : Nat := fld c 336 48
def dPeerHusk (c : Nat) : Nat := fld c 384 4
def dPeer (c : Nat) : Nat := fld c 400 16
def dPeerSeq (c : Nat) : Nat := fld c 416 16
def dStride (c : Nat) : Nat := fld c 432 32
def dGeo (c : Nat) : Geo := ⟨fld c 32 4, fld c 40 8, fld c 30 2, fld c 20 4⟩
/-- The RSVD bits of R191. -/
def dReserved (c : Nat) : Bool :=
  rsvd c 10 10 && rsvd c 26 4 && rsvd c 36 4 && rsvd c 80 16 && rsvd c 256 16 && rsvd c 320 16 && rsvd c 388 12 && rsvd c 464 560

/-- A covered list entry: layer, virtual address, and its place i in the list. -/
structure Cover where
  layer : Nat
  va : Nat
  ix : Nat
  deriving DecidableEq, Repr

/-- First entry and number of entries that cover positions (R189). -/
def coverFirst (g : Geo) (pos : Nat) : Nat := pos / g.tokens
def coverCount (g : Geo) (pos n : Nat) : Nat := (pos + n - 1) / g.tokens - pos / g.tokens + 1

/-- The entries of `layers` lists that cover positions, layer by layer. -/
def covers (g : Geo) (list stride layer layers pos n : Nat) : List Cover :=
  ((List.range layers).map (fun l => (List.range (coverCount g pos n)).map (fun i =>
    let ix := coverFirst g pos + i
    (⟨layer + l, list + l * stride + 8 * ix, ix⟩ : Cover)))).flatten

/-- Covered entries of a command's own lists, and of the source lists of POD_SHARE. -/
def dCovers (c : Nat) : List Cover := covers (dGeo c) (dList c) (dStride c) (dLayer c) (dLayers c) (dPos c) (dCount c)
def dSources (c : Nat) : List Cover := covers (dGeo c) (dSrc c) (dStride c) (dLayer c) (dLayers c) (dPos c) (dCount c)

/-- Master identifier of a slice's sequence-scheduler block. -/
def seqMaster (s : Nat) : Nat := masterId 0x8 s

namespace World

/-- Change the pods. -/
def upPods (w : World) (f : PodSt → PodSt) : World := { w with dev := { w.dev with pods := f w.dev.pods } }

/-! ### The pod table -/

/-- Address of a pod-table entry; a second copy lies in the east die's reserve (R142, log entry 23). -/
def podEntryAddr (w : World) (p : Nat) : Nat := w.rd oPodTableBase + 32 * p
/-- Distance of the second copy, which lies above the table that starts the other reserve. -/
def podCopyOffset : Nat := 0x3008000000

/-- A pod-table entry: from the first copy unless that is poisoned or fails correction. -/
def pod (w : World) (p : Nat) : Pod :=
  let r := w.readStored (w.podEntryAddr p) 32 0
  podOf (if r.anyBad then w.num (w.podEntryAddr p + podCopyOffset) 32 else r.nat)

/-- The committed mark and the tags of a pod, R172. -/
def podMarks (x : Pod) : List Nat := [x.commit, x.tentEnd, x.tentSeq, x.tentGen]

/-- The changes of this tick, to be kept (R172). -/
def markBase (w : World) : PodSt :=
  let s := w.dev.pods
  if s.markTick = w.now then s else { s with markTick := w.now, marks := .empty, gens := .empty }

/-- Keep a pod's marks as they were before this tick, if `x` changes them (R172). -/
def keepMarks (w : World) (p : Nat) (x : Pod) : World :=
  let old := w.pod p
  if podMarks old = podMarks x then w
  else
    let s := w.markBase
    w.upPods (fun _ => if s.marks.has p then s else { s with marks := s.marks.put p (podMarks old) })

/-- A pod as a sample of this tick meets it: with the marks it had before the tick (R172). -/
def podSampled (w : World) (p : Nat) : Pod :=
  let x := w.pod p
  match w.markBase.marks.get? p with
  | some [a, b, c, d] => { x with commit := a, tentEnd := b, tentSeq := c, tentGen := d }
  | _ => x

/-- Write a pod-table entry, both copies: an entry is half a line, so the line of each is read first, and mended (R142). -/
def setPod (w : World) (p : Nat) (x : Pod) : World :=
  let b := leBytes 32 (podWord x)
  let a := w.podEntryAddr p
  let w := (w.mirrorHeal a 32 (· + podCopyOffset)).mirrorHeal (a + podCopyOffset) 32 (· - podCopyOffset)
  ((w.keepMarks p x).store (w.podEntryAddr p) b).store (w.podEntryAddr p + podCopyOffset) b

/-- Every pod of the region. -/
def allPods (w : World) : List Nat := List.range (w.rd oPodRegionPods)
/-- Physical address of a pod, R187. -/
def podAddr (w : World) (p : Nat) : Nat := w.rd oPodRegionBase + p * 0x10000

/-- Pods held by all husks, and references. -/
def heldPods (w : World) : Nat := (allHusks.map (fun h => w.rd (oHuskPodsHeld h))).foldl (· + ·) 0
def heldRefs (w : World) : Nat := (allHusks.map (fun h => w.rd (oHuskPodRefs h))).foldl (· + ·) 0
/-- S of R187. -/
def podShortfall (w : World) : Nat :=
  (allHusks.map (fun h => w.rd (oHuskPodReserve h) - w.rd (oHuskPodsHeld h))).foldl (· + ·) 0

/-- The module-wide counters and ledgers follow the husks' counters (R187, R399). -/
def podSync (w : World) : World :=
  let n := w.rd oPodRegionPods
  let held := w.heldPods
  let refs := w.heldRefs
  let w1 := (w.wr oPodsFree (n - held)).wr oPodShortfall w.podShortfall
  let w2 := ((w1.wr (oLedgerPods 1) held).wr (oLedgerPods 3) n).wr (oLedgerPods 4) (n - held)
  w2.wr (oLedgerPodRefs 1) refs

/-- References are added to pods of husk h. -/
def refsAdded (w : World) (h n : Nat) : World := ((w.inc (oHuskPodRefs h) n).inc (oLedgerPodRefs 0) n).podSync
/-- References to pods of husk h are released. -/
def refsReleased (w : World) (h n : Nat) : World :=
  ((w.wr (oHuskPodRefs h) (w.rd (oHuskPodRefs h) - n)).inc (oLedgerPodRefs 2) n).podSync

/-- A pod leaves FREE for husk h with this entry. -/
def takePod (w : World) (p : Nat) (x : Pod) : World :=
  (((w.setPod p x).inc (oHuskPodsHeld x.husk) 1).inc (oLedgerPods 0) 1).podSync

/-- A pod becomes FREE, R201. -/
def freePod (w : World) (p : Nat) : World :=
  let x := w.pod p
  let w1 := if x.state = podRetiring then w.wr (oLedgerPods 5) (w.rd (oLedgerPods 5) - 1) else w
  let w2 := (w1.setPod p Pod.free).upPods (fun s => { s with sources := s.sources.del p })
  ((w2.wr (oHuskPodsHeld x.husk) (w.rd (oHuskPodsHeld x.husk) - 1)).inc (oLedgerPods 2) 1).podSync

/-- One reference to a pod is released; at 0 it becomes RETIRING, R201. -/
def dropRef (w : World) (p : Nat) : World :=
  let x := w.pod p
  if x.refs = 0 then w
  else
    let w1 := w.refsReleased x.husk 1
    if x.refs = 1 then (w1.setPod p { x with refs := 0, state := podRetiring, swapAddr := 0 }).inc (oLedgerPods 5) 1
    else w1.setPod p { x with refs := x.refs - 1 }

/-- R201: a RETIRING pod with no reference and no reader becomes FREE. -/
def retireFree (w : World) (p : Nat) : World :=
  let x := w.pod p
  if p < w.rd oPodRegionPods ∧ x.state = podRetiring ∧ x.refs = 0 ∧ x.readers = 0 then w.freePod p else w

/-! ### Allocation, R195 to R197 -/

/-- max(0, reserve − held) of husk h. -/
def ownReserve (w : World) (h : Nat) : Nat := w.rd (oHuskPodReserve h) - w.rd (oHuskPodsHeld h)
/-- R196. -/
def podsAvailable (w : World) (h n : Nat) : Bool :=
  decide (n ≤ w.ownReserve h + (w.rd oPodsFree - w.rd oPodShortfall)) && decide (n ≤ w.rd oPodsFree)
/-- May a request be granted at once: available, and ahead of the wait queue only within its own reserve (R197)? -/
def podsNow (w : World) (h n : Nat) : Bool :=
  w.podsAvailable h n && (w.dev.pods.queue.isEmpty || decide (n ≤ w.ownReserve h))
/-- The requests that waited before this tick's control cycles began: all but the tie losers of this tick. -/
def queueBefore (w : World) : List AllocReq := w.dev.pods.queue.filter (fun a => !(a.tie && a.since == w.now))
/-- A request of husk h and slice s as it stands against others of its control cycle, R197. -/
def podRequest (w : World) (h s prio n : Nat) : PodGrant := ⟨decide (0 < w.ownReserve h), prio, h, s, n⟩
/-- Does request a come before b in their control cycle, R197? -/
def cycleBefore (a b : PodGrant) : Bool :=
  if a.below != b.below then a.below
  else if a.prio != b.prio then decide (a.prio < b.prio)
  else if a.husk != b.husk then decide (a.husk < b.husk)
  else decide (a.slice < b.slice)
/-- The grants of this tick that come before a request, were they in its control cycle. -/
def grantsBefore (w : World) (x : PodGrant) : List PodGrant :=
  if w.dev.pods.grantTick = w.now then w.dev.pods.grants.filter (fun g => cycleBefore g x) else []
/-- Can a request have lost a tie, R197: without the grants of its tick that come before it, it would be granted? -/
def tiePossible (w : World) (h s prio n : Nat) : Bool :=
  let gs := w.grantsBefore (w.podRequest h s prio n)
  let took (k : Nat) : Nat := ((gs.filter (fun g => g.husk == k)).map (fun g => g.pods)).foldl (· + ·) 0
  let own (k : Nat) : Nat := w.rd (oHuskPodReserve k) - (w.rd (oHuskPodsHeld k) - took k)
  let free := w.rd oPodsFree + (gs.map (fun g => g.pods)).foldl (· + ·) 0
  !gs.isEmpty && decide (n ≤ own h + (free - (allHusks.map own).foldl (· + ·) 0)) && (w.queueBefore.isEmpty || decide (n ≤ own h))
/-- Remember a grant to an arriving request. -/
def noteGrant (w : World) (h s prio n : Nat) : World :=
  let x := w.podRequest h s prio n
  if n = 0 then w
  else w.upPods (fun t => { t with grantTick := w.now, grants := if t.grantTick = w.now then x :: t.grants else [x] })
/-- A request that is not granted joins the queue, R197: one that lost a tie at its head, behind those of its control cycle that come
before it; any other at its end. -/
def podQueued (w : World) (a : AllocReq) : World :=
  let rank (x : AllocReq) : PodGrant := w.podRequest x.husk x.slice x.prio 0
  let front := w.dev.pods.queue.takeWhile (fun x => x.tie && x.since == w.now && cycleBefore (rank x) (rank a))
  (w.upPods (fun s => { s with queue := if a.tie then front ++ a :: s.queue.drop front.length else s.queue ++ [a] })).inc
    (oHuskPodAllocWaits a.husk) 1
/-- What becomes of a request for n pods that `podsNow` does not grant (log entry 61): granted all the same, where only losers of
its own control cycle stand before it; or one that lost a tie; or neither. -/
def podTie (w : World) (h s prio n : Nat) : (Bool × Bool) × World :=
  let late := w.podsAvailable h n && w.queueBefore.isEmpty
  let tie := w.tiePossible h s prio n
  if !late && !tie then ((false, false), w)
  else
    let (k, w1) := w.fresh
    ((Config.sameCycle k && late, Config.sameCycle k && !late), w1)
/-- The lowest n FREE pods. -/
def freePods (w : World) (n : Nat) : List Nat := (w.allPods.filter (fun p => (w.pod p).state == podFree)).take n

/-- A new pod of husk h. -/
def newPod (h : Nat) (g : Geo) (layer pos0 refs : Nat) : Pod :=
  { Pod.free with husk := h, logTok := g.logTok, heads := g.heads, headDim := g.headDim, fmt := g.fmt, layer := layer,
                  pos0 := pos0, refs := refs, tentSeq := 0xFFFF, srcNode := 0xFFFF, state := podActive }

/-! ### Lists and contents -/

/-- The number in `n` bytes at a virtual address of husk h, 0 where it does not translate. -/
def vnum (w : World) (h va n : Nat) : Nat :=
  match w.peekLeaf h va .rd with
  | none => 0
  | some (pa, enc) => leNat ((List.range n).map (fun i => w.keyedByte (if enc then w.huskKey h else 0) (pa + i)))

/-- A list entry. -/
def listEnt (w : World) (h va : Nat) : ListEnt := listOf (w.vnum h va 8)
/-- Write a list entry. -/
def setList (w : World) (h m va v : Nat) : World := w.putVirt h m 2 va (leBytes 8 v)

/-- Read a pod's bytes with its husk's key. -/
def podRead (w : World) (p m acc off n : Nat) : Rd × World :=
  let h := (w.pod p).husk
  w.readPhys (some h) m acc (w.podAddr p + off) n (w.huskKey h)
/-- Write a pod's bytes. -/
def podWrite (w : World) (p m acc off : Nat) (data : List Byte) (bad : List Bool) : World :=
  let h := (w.pod p).husk
  (w.writePhys (some h) m acc (w.podAddr p + off) data bad (w.huskKey h)).2

/-- A copy of a pod's committed tokens into a pod just taken, R198 and R199. -/
def copyPod (w : World) (p q m : Nat) : World :=
  let x := w.pod p
  let (r, w1) := w.podRead p m 1 0 (x.commit * x.geo.tokenBytes)
  let w2 := w1.takePod q { newPod x.husk x.geo x.layer x.pos0 1 with commit := x.commit, tentEnd := x.commit, poison := x.poison }
  (w2.podWrite q m 2 0 r.data r.bad).refsAdded x.husk 1

/-! ### Sequences as pods see them -/

/-- Address of a sequence-table entry, R235. -/
def seqVa (w : World) (h q : Nat) : Nat := w.rd (oHuskSeqTableBase h) + 128 * q
/-- A sequence-table entry as a number, R236. -/
def seqWord (w : World) (h q : Nat) : Nat := w.vnum h (w.seqVa h q) 128
/-- Write a sequence-table entry. -/
def setSeqWord (w : World) (h q v : Nat) : World :=
  w.putVirt h (seqMaster ((w.slicesOf h).headD 0)) 2 (w.seqVa h q) (leBytes 128 v)
/-- Does the table hold the index? -/
def seqExists (w : World) (h q : Nat) : Bool := decide (q < w.rd (oHuskSeqSlots h))
/-- The sequence's current generation, R202; a sequence that the table does not hold has none. -/
def seqGen (w : World) (h q : Nat) : Option Nat := if w.seqExists h q then some (fld (w.seqWord h q) 96 32) else none
/-- The generation as a sample of this tick meets it (R172). -/
def seqGenSampled (w : World) (h q : Nat) : Option Nat :=
  match w.markBase.gens.get? (h * 65536 + q) with
  | some g => some g
  | none => w.seqGen h q
/-- STATE of a sequence, R237. -/
def seqState (w : World) (h q : Nat) : Nat := if w.seqExists h q then fld (w.seqWord h q) 60 4 else 0

/-- Is a sequence cancelled (R254)? -/
def seqCancelled (w : World) (h q : Nat) : Bool := w.seqState h q == 8

/-- The pods that hold the sequence's own tentative tokens in some layers, R203. -/
def tentPods (w : World) (h q lo hi : Nat) : List Nat :=
  w.allPods.filter (fun p =>
    let x := w.pod p
    x.state != podFree && x.husk == h && x.tentSeq == q && x.srcNode == 0xFFFF && decide (lo ≤ x.layer) && decide (x.layer < hi)
      && decide (x.commit < x.tentEnd))

/-- First and end position of a sequence's tentative tokens. -/
def tentRange (w : World) (ps : List Nat) : Option (Nat × Nat) :=
  ps.foldl (fun r p =>
    let x := w.pod p
    let a := x.pos0 + x.commit
    let b := x.pos0 + x.tentEnd
    match r with
    | none => some (a, b)
    | some (l, u) => some (Nat.min l a, Nat.max u b)) none

/-- R203 on one pod: tokens below position P committed, the rest removed. -/
def endPod (w : World) (p pos : Nat) : World :=
  let x := w.pod p
  let c := Nat.min (Nat.max (pos - x.pos0) x.commit) x.tentEnd
  (w.setPod p { x with commit := c, tentEnd := c, tentSeq := 0xFFFF, srcNode := 0xFFFF }).upPods (fun s => { s with sources := s.sources.del p })

/-- The virtual channel of a husk's collective traffic: the lowest that HuskVcMask gives it (R352). -/
def huskVc (w : World) (h : Nat) : Nat := (bitsOf (w.rd (oHuskVcMask h)) 8).headD 1

/-- The generation of a sequence ends with position P (none: every tentative token is retracted): R203 on its pods in
layers lo to hi − 1, the end messages of R205, the next generation. -/
def endGeneration (w : World) (h q lo hi : Nat) (pos : Option Nat) : World :=
  let ps := w.tentPods h q lo hi
  let p := match pos with
    | some v => v
    | none => match w.tentRange ps with
      | some (a, _) => a
      | none => 0xFFFFFF
  let w1 := w.each ps (fun w x => w.endPod x p)
  match w.seqGen h q with
  | none => w1
  | some g =>
    let w2 := w1.setSeqWord h q (setFld (w1.seqWord h q) 96 32 (fit 32 (g + 1)))
    let w3 := match w2.dev.pods.peers.get? (h * 65536 + q) with
      | none => w2
      | some (g0, l) => if g0 = g then
          w2.each l (fun w d => w.sendTo d.1 (w.huskVc h) h d.2.1 0x0B 0 (leBytes 16 (g + p * 2 ^ 32 + d.2.2 * 2 ^ 64)))
        else w2
    let s := w3.markBase
    let k := h * 65536 + q
    w3.upPods (fun _ => { s with peers := s.peers.del k, gens := if s.gens.has k then s.gens else s.gens.put k g })

/-! ### Checks, R193 -/

/-- Are the list addresses in the husk's HBM? -/
def listsOk (w : World) (h : Nat) (cs : List Cover) (need : Need) : Bool :=
  cs.all (fun c => c.va % 8 == 0 && w.inHbm h c.va 8 need)

/-- Is a Tier 3 slot reachable through the page table? -/
def slotOk (w : World) (h va : Nat) (need : Need) : Bool :=
  va % 0x10000 == 0 && (w.tier3Port h va need).isSome

/-- The Tier 3 slot of a covered entry, R208. -/
def swapSlot (cmd : Nat) (c : Cover) : Nat :=
  dDst cmd + ((c.layer - dLayer cmd) * coverCount (dGeo cmd) (dPos cmd) (dCount cmd) + (c.ix - coverFirst (dGeo cmd) (dPos cmd))) * 0x10000

/-- Row 2 of R193. -/
def podAddrOk (w : World) (c : Ctx) (cmd : Nat) : Bool :=
  w.listsOk c.husk (dCovers cmd) .wr && (match cmdOp cmd with
    | 0x41 => w.listsOk c.husk (dSources cmd) .rd
    | 0x43 => dSrc cmd % 8 == 0 && w.inScratch c.husk c.slice (dSrc cmd) (dLayers cmd * dCount cmd * (dGeo cmd).tokenBytes) .rd
    | 0x46 => (dCovers cmd).all (fun x => w.slotOk c.husk (swapSlot cmd x) .wr)
    | 0x48 => dDst cmd % 8 == 0
    | _ => true)

/-- The ranges that row 2 walks. -/
def podSpans (cmd : Nat) : List Span :=
  (dCovers cmd).map (fun x => (x.va, 8, .wr)) ++ (match cmdOp cmd with
    | 0x41 => (dSources cmd).map (fun x => (x.va, 8, .rd))
    | 0x43 => [(dSrc cmd, dLayers cmd * dCount cmd * (dGeo cmd).tokenBytes, .rd)]
    | 0x46 => (dCovers cmd).map (fun x => (swapSlot cmd x, 1, .wr))
    | _ => [])

/-- Does the entry name a usable pod of the husk and the geometry (row 3)? -/
def refOk (w : World) (h : Nat) (g : Geo) (e : ListEnt) : Bool :=
  !e.names || (decide (e.pod < w.rd oPodRegionPods) && (w.pod e.pod).husk == h && (w.pod e.pod).state != podFree
    && (w.pod e.pod).state != podRetiring && (w.pod e.pod).geo == g)

/-- Row 4: positions. A POS off a pod boundary where R192 asks for one and a share onto an entry that is not EMPTY count
here. -/
def podPositionOk (w : World) (c : Ctx) (cmd : Nat) : Bool :=
  let g := dGeo cmd
  let ents := (dCovers cmd).map (fun x => (x, w.listEnt c.husk x.va))
  (cmdOp cmd == 0x43 || cmdOp cmd == 0x44 || dPos cmd % g.tokens == 0) && (match cmdOp cmd with
    | 0x40 => ents.all (fun e => e.2.kind == 0)
    | 0x41 => ents.all (fun e => e.2.kind == 0)
    | 0x43 => ents.all (fun e => e.2.kind != 1 ||
        (let x := w.pod e.2.pod
         x.tentEnd == (if e.1.ix = coverFirst g (dPos cmd) then dPos cmd % g.tokens else 0)
           && (dTent cmd || x.tentEnd == x.commit) && (x.tentSeq == 0xFFFF || x.tentSeq == dSeq cmd)))
    | 0x44 => (match w.tentRange (w.tentPods c.husk (dSeq cmd) (dLayer cmd) (dLayer cmd + dLayers cmd)) with
        | none => true
        | some (a, b) => decide (a ≤ dPos cmd) && decide (dPos cmd ≤ b))
    | _ => true)

/-- Row 6: entries needed in HBM. -/
def podResidentOk (w : World) (c : Ctx) (cmd : Nat) : Bool :=
  let kinds := (dCovers cmd).map (fun x => (w.listEnt c.husk x.va).kind)
  match cmdOp cmd with
  | 0x41 => (dSources cmd).all (fun x => (w.listEnt c.husk x.va).kind == 1)
  | 0x43 => kinds.all (fun k => k == 1)
  | 0x46 => kinds.all (fun k => decide (k < 2))
  | 0x48 => kinds.all (fun k => k == 1 || k == 3)
  | _ => true

/-- Peers of the sequence in its current generation, R205. -/
def podPeers (w : World) (h q : Nat) : List (Nat × Nat × Nat) :=
  match w.dev.pods.peers.get? (h * 65536 + q) with
  | some (g, l) => if w.seqGen h q = some g then l else []
  | none => []

/-- Row 9. -/
def podForwardOk (w : World) (c : Ctx) (cmd : Nat) : Bool :=
  let l := w.podPeers c.husk (dSeq cmd)
  cmdOp cmd != 0x48 || ((l.elem (dPeer cmd, dPeerHusk cmd, dPeerSeq cmd) || decide (l.length < 8))
    && (dCovers cmd).all (fun x => (w.pod (w.listEnt c.husk x.va).pod).srcNode == 0xFFFF))

/-- Does POD_SHARE copy this pod rather than share it (R198)? -/
def shareCopies (w : World) (p : Nat) : Bool := decide ((w.pod p).commit < (w.pod p).tentEnd) || (w.pod p).refs == 0xFFFF

/-- The pods that a command needs, R193 rows 7 and 8. -/
def podNeed (w : World) (c : Ctx) (cmd : Nat) : Nat :=
  match cmdOp cmd with
  | 0x40 => (dCovers cmd).length
  | 0x41 => ((dSources cmd).filter (fun x => w.shareCopies (w.listEnt c.husk x.va).pod)).length
  | 0x43 => ((dCovers cmd).filter (fun x => decide (1 < (w.pod (w.listEnt c.husk x.va).pod).refs))).length
  | 0x47 => ((dCovers cmd).filter (fun x => (w.listEnt c.husk x.va).kind == 2)).length
  | _ => 0

/-- Rows 1 to 6 and 9 of R193, first failure. -/
def podFail (w : World) (c : Ctx) (cmd : Nat) : Option Nat :=
  let g := dGeo cmd
  let h := c.husk
  if !(dReserved cmd && dPrio cmd != 3 && g.ok && dCount cmd != 0 && dLayers cmd != 0 && dStride cmd % 8 == 0) then some 0x0003
  else if !w.podAddrOk c cmd then some 0x0004
  else firstFail [
    ((dCovers cmd).all (fun x => w.refOk h g (w.listEnt h x.va))
      && (cmdOp cmd != 0x41 || (dSources cmd).all (fun x => w.refOk h g (w.listEnt h x.va))), 0x020C),
    (w.podPositionOk c cmd, 0x020F),
    (!([0x43, 0x44, 0x45, 0x48].elem (cmdOp cmd)) || w.seqGen h (dSeq cmd) == some (dGen cmd), 0x020D),
    (w.podResidentOk c cmd, 0x020B)]

/-! ### Swaps, R208 to R210 -/

/-- Put a swap in flight. -/
def swapBegin (w : World) (op : SwapOp) : World :=
  let more (g : SwapGroup) : SwapGroup := { g with left := g.left + 1 }
  w.upPods (fun s =>
    let gs := s.groups.modify op.group ⟨op.husk, op.slice, none, 0, false, false⟩ more
    { s with swaps := s.swaps.put s.swaps.fresh op, groups := gs })

/-- Bytes that a swap moves: tokens rounded up to 64 bytes (R208). -/
def swapBytes (tokens tokenBytes : Nat) : Nat := (tokens * tokenBytes + 63) / 64 * 64

/-- Steps 1 and 2 of R208 for one RESIDENT entry. -/
def swapOutOne (w : World) (h s group va slot : Nat) : World :=
  let e := w.listEnt h va
  let x := w.pod e.pod
  let w1 := w.setList h (seqMaster s) va (listPod 3 e.pod)
  let w2 := if x.refs = 1 then w1.setPod e.pod { x with state := podSwapOut, swapAddr := slot } else w1
  let (r, w3) := w2.podRead e.pod (seqMaster s) 0x22 0 (swapBytes x.commit x.geo.tokenBytes)
  (w3.upPods (fun t => { t with geos := t.geos.put (h * 2 ^ 48 + va) x.geo.pack })).swapBegin
    ⟨true, h, s, e.pod, va, slot, x.commit, x.geo.tokenBytes, r.data, r.bad, group⟩

/-- R210 for one SWAPPED entry and the pod taken for it. -/
def swapInOne (w : World) (h s group layer va ix p : Nat) (g : Geo) : World :=
  let e := w.listEnt h va
  (w.takePod p (newPod h g layer (ix * g.tokens) 0)).swapBegin ⟨false, h, s, p, va, e.addr, e.count, g.tokenBytes, [], [], group⟩

/-- A new group of swaps. -/
def swapGroup (w : World) (h s : Nat) (seq : Option Nat) : Nat × World :=
  let id := w.dev.pods.groups.fresh
  (id, w.upPods (fun t => { t with groups := t.groups.put id ⟨h, s, seq, 0, false, false⟩ }))

/-- What the device keeps of a sequence beside its entry. -/
def seqRt (w : World) (h q : Nat) : SeqRt := w.dev.seqs.rts.getD (h * 65536 + q) ⟨0, 0, false, 0, 0, false, false⟩
/-- Set it. -/
def setSeqRt (w : World) (h q : Nat) (r : SeqRt) : World :=
  { w with dev := { w.dev with seqs := { w.dev.seqs with rts := w.dev.seqs.rts.put (h * 65536 + q) r } } }

/-- When no swap of a group is left, its command completes (R209, R210), or its sequence's swap ends (R241, R244). -/
def swapGroupEnd (w : World) (id : Nat) : World :=
  match w.dev.pods.groups.get? id with
  | none => w
  | some g =>
    if g.left ≠ 0 then w
    else
      let w1 := w.upPods (fun t => { t with groups := t.groups.del id })
      match g.seq with
      | some q =>
        let r := w1.seqRt g.husk q
        w1.setSeqRt g.husk q { r with swap :=
          if r.swap = 1 then (if g.failed then 0 else 2) else if r.swap = 3 then (if g.failed then 0 else 4) else r.swap }
      | none =>
        let ring : RingRef := .slice (Fin.ofNat 16 g.slice) 14 (Fin.ofNat 16 g.husk)
        if g.poison then w1.finishWait ring .swap 2 0x0204
        else if g.failed then w1.finishWait ring .swap 0 0x0203
        else w1.modTaken ring (fun t => t.wait == .swap) (fun t => { t with wait := .done, status := 0 })

/-- A swap leaves flight. -/
def swapDone (w : World) (id : Nat) (op : SwapOp) (failed poison : Bool) : World :=
  let w1 := w.upPods (fun t =>
    let gs := match t.groups.get? op.group with
      | some g => t.groups.put op.group { g with left := g.left - 1, failed := g.failed || failed, poison := g.poison || poison }
      | none => t.groups
    { t with swaps := t.swaps.del id, groups := gs })
  w1.swapGroupEnd op.group

/-- Is the entry still the one the swap names? -/
def swapLive (w : World) (op : SwapOp) : Bool :=
  let e := w.listEnt op.husk op.entry
  if op.out then e.kind == 3 && e.pod == op.pod else e.kind == 2 && e.addr == op.slot

/-- The host acknowledged a swap write, R208: the entry is SWAPPED, the reference is released. -/
def swapAck (w : World) (id : Nat) : World :=
  match w.dev.pods.swaps.get? id with
  | none => w
  | some op =>
    if !op.out then w
    else
      let (_, w1) := w.writeVirt op.husk (seqMaster op.slice) 0x22 op.slot op.data op.bad
      let w2 := if w1.swapLive op then
          ((w1.setList op.husk (seqMaster op.slice) op.entry (listSwapped op.slot op.tokens)).setPod op.pod
            { w1.pod op.pod with swapAddr := 0 }).dropRef op.pod
        else w1
      w2.swapDone id op false false

/-- The host did not acknowledge it, R209. -/
def swapFail (w : World) (id : Nat) : World :=
  match w.dev.pods.swaps.get? id with
  | none => w
  | some op =>
    if !op.out then w
    else
      let w1 := if w.swapLive op then
          let w1 := w.setList op.husk (seqMaster op.slice) op.entry (listPod 1 op.pod)
          let x := w1.pod op.pod
          if x.state = podSwapOut then w1.setPod op.pod { x with state := podActive, swapAddr := 0 } else w1
        else w
      (w1.inc (oHuskPodSwapFailed op.husk) 1).swapDone id op true false

/-- The port a swap uses (R144). -/
def swapPort (w : World) (op : SwapOp) : Option Nat := w.tier3Port op.husk op.slot .rd
/-- A swap-in read that the host did not answer clean is an error of the husk and counts at its port, R146. -/
def swapReadBad (w : World) (op : SwapOp) (reason : Nat) : World :=
  let w1 := w.contained op.husk (seqMaster op.slice) 0x22 reason op.slot
  match w.swapPort op with
  | some p => w1.inc (oTier3Poisoned p) 1
  | none => w1

/-- A swap-in read ends, R210: clean, poisoned, or not at all. -/
def swapInEnd (w : World) (id : Nat) (o : HostOutcome) : World :=
  match w.dev.pods.swaps.get? id with
  | none => w
  | some op =>
    if op.out then w
    else
      let m := seqMaster op.slice
      let n := swapBytes op.tokens op.tokenBytes
      let took (w : World) (poison : Bool) (data : List Byte) (bad : List Bool) : World :=
        if w.swapLive op then
          let w1 := w.podWrite op.pod m 0x22 0 data bad
          let x := w1.pod op.pod
          let w2 := w1.setPod op.pod { x with commit := op.tokens, tentEnd := op.tokens, poison := poison, refs := 1 }
          ((w2.refsAdded op.husk 1).setList op.husk m op.entry (listPod 1 op.pod)).swapDone id op false poison
        else (w.freePod op.pod).swapDone id op false false
      match o with
      | .unreachable =>
        (((w.swapReadBad op 0x0209).freePod op.pod).inc (oHuskPodSwapFailed op.husk) 1).swapDone id op true false
      | .poison => took (w.swapReadBad op 0x0204) true
          ((List.range n).map (fun i => Config.poisonByte (op.slot + i))) (List.replicate n true)
      | .clean =>
        let ((r, _), w1) := w.readVirt op.husk m 0x22 op.slot n
        took w1 r.anyBad r.data r.bad

/-- Does a swap use port p? -/
def swapsOn (w : World) (p : Nat) : Bool := w.dev.pods.swaps.vals.any (fun op => w.swapPort op == some p)
/-- Swaps in flight through a port that is lost end as R146 says. -/
def swapsLost (w : World) (p : Nat) : World :=
  w.each (w.dev.pods.swaps.items.filter (fun x => w.swapPort x.2 == some p)) (fun w x =>
    if x.2.out then w.swapFail x.1 else w.swapInEnd x.1 .unreachable)

/-! ### The commands, R192 -/

/-- POD_ALLOC of entries with the pods taken for them. -/
def allocOne (w : World) (h m : Nat) (g : Geo) (x : Cover) (p : Nat) : World :=
  ((w.takePod p (newPod h g x.layer (x.ix * g.tokens) 1)).refsAdded h 1).setList h m x.va (listPod 1 p)

/-- POD_SHARE of one entry, R198. -/
def shareOne (w : World) (h m src dst : Nat) : World :=
  let p := (w.listEnt h src).pod
  if w.shareCopies p then
    let q := (w.freePods 1).headD 0
    ((w.copyPod p q m).inc (oHuskPodShareCopies h) 1).setList h m dst (listPod 1 q)
  else
    let x := w.pod p
    ((w.setPod p { x with refs := x.refs + 1 }).refsAdded x.husk 1).setList h m dst (listPod 1 p)

/-- POD_RELEASE of one entry: its reference goes, it becomes EMPTY (R192, R201, R208). -/
def releaseOne (w : World) (h m va : Nat) : World :=
  let e := w.listEnt h va
  if e.kind = 0 then w
  else
    let w1 := if e.names && decide (e.pod < w.rd oPodRegionPods) && (w.pod e.pod).husk == h then w.dropRef e.pod else w
    w1.setList h m va 0

/-- POD_APPEND in one pod, R199 and R202: the copy of a divergent write, whose old pod is COPYING until it ends (it takes no time
here, log entry 62), then the tokens; the poison reason if any. -/
def appendOne (w : World) (c : Ctx) (cmd : Nat) (x : Cover) : World × Rd :=
  let g := dGeo cmd
  let h := c.husk
  let p := (w.listEnt h x.va).pod
  let (p, w1) := if 1 < (w.pod p).refs then
      let q := (w.freePods 1).headD 0
      let old := w.pod p
      let w1 := (w.setPod p { old with state := podCopying }).copyPod p q c.master
      (q, (((w1.setPod p { w1.pod p with state := old.state }).inc (oHuskPodCowCopies h) 1).setList h c.master x.va (listPod 1 q)).dropRef p)
    else (p, w)
  let a := Nat.max (dPos cmd) (x.ix * g.tokens)
  let b := Nat.min (dPos cmd + dCount cmd) ((x.ix + 1) * g.tokens)
  let src := dSrc cmd + ((x.layer - dLayer cmd) * dCount cmd + (a - dPos cmd)) * g.tokenBytes
  let ((r, ok), w2) := w1.readVirt h c.master 1 src ((b - a) * g.tokenBytes)
  let w3 := if ok then w2.consumed c src r else w2
  let w4 := w3.podWrite p c.master 2 ((a - x.ix * g.tokens) * g.tokenBytes) r.data r.bad
  let y := w4.pod p
  let e := b - x.ix * g.tokens
  (w4.setPod p (if dTent cmd then { y with tentSeq := dSeq cmd, tentGen := dGen cmd, tentEnd := e }
    else { y with commit := e, tentEnd := e }), r)

/-- The span of one layer, R205 (its payload's layout is the model's, log entry 24): PEER_SEQ, generation, first position,
count, first tentative position, the peer's list and the geometry, then the tokens. -/
def spanBytes (cmd layer first count tent : Nat) (data : List Byte) : List Byte :=
  leBytes 32 (dPeerSeq cmd + dGen cmd * 2 ^ 16 + first * 2 ^ 48 + count * 2 ^ 72 + tent * 2 ^ 96
    + (dDst cmd + (layer - dLayer cmd) * dStride cmd) * 2 ^ 120 + (dGeo cmd).pack * 2 ^ 168) ++ data

/-- POD_FORWARD of one layer: the written tokens of the covered positions, up to the first that is not written. -/
def forwardLayer (w : World) (c : Ctx) (cmd layer : Nat) : World × Rd :=
  let g := dGeo cmd
  let cs := (dCovers cmd).filter (fun x => x.layer == layer)
  let stop := cs.foldl (fun (st : Nat × Nat) x =>
    let y := w.pod (w.listEnt c.husk x.va).pod
    if st.1 = x.ix * g.tokens ∨ x.ix = coverFirst g (dPos cmd) then
      (Nat.min (dPos cmd + dCount cmd) (x.ix * g.tokens + y.tentEnd), Nat.min st.2 (if y.commit < y.tentEnd then x.ix * g.tokens + y.commit else 0xFFFFFF))
    else st) (dPos cmd, 0xFFFFFF)
  let (r, w1) := cs.foldl (fun (st : Rd × World) x =>
    let a := x.ix * g.tokens
    let b := Nat.min stop.1 (a + g.tokens)
    let (r, w1) := st.2.podRead (st.2.listEnt c.husk x.va).pod c.master 1 0 ((b - a) * g.tokenBytes)
    (st.1.append r, w1)) (⟨[], [], []⟩, w)
  let w2 := w1.consumed c (dList cmd) r
  let (m, w3) := w2.message (dPeer cmd) (w2.huskVc c.husk) c.husk (dPeerHusk cmd) 0x0A layer 0
    (spanBytes cmd layer (dPos cmd) (stop.1 - dPos cmd) (Nat.min stop.2 stop.1) r.data)
  (w3.sendMsg { m with poisoned := r.anyBad }, r)

/-- Record a peer of the current generation. -/
def addPeer (w : World) (h q g : Nat) (d : Nat × Nat × Nat) : World :=
  let l := w.podPeers h q
  if l.elem d then w else w.upPods (fun s => { s with peers := s.peers.put (h * 65536 + q) (g, l ++ [d]) })

/-- The effect of a pod command whose pods are granted: what it waits for, its status and reason, its swap group. -/
def podGo (w : World) (c : Ctx) (cmd : Nat) : World × Wait × Nat × Nat × List Nat :=
  let h := c.husk
  let g := dGeo cmd
  let cs := dCovers cmd
  let met (r : Rd) : Nat × Nat := if r.anyBad then (2, r.reason) else (0, 0)
  match cmdOp cmd with
  | 0x40 => ((cs.zip (w.freePods cs.length)).foldl (fun w x => w.allocOne h c.master g x.1 x.2) w, .done, 0, 0, [])
  | 0x41 => ((cs.zip (dSources cmd)).foldl (fun w x => w.shareOne h c.master x.2.va x.1.va) w, .done, 0, 0, [])
  | 0x42 => (w.each cs (fun w x => w.releaseOne h c.master x.va), .done, 0, 0, [])
  | 0x43 =>
    let (r, w1) := cs.foldl (fun (st : Rd × World) x => let (w1, r) := st.2.appendOne c cmd x; (st.1.append r, w1)) (⟨[], [], []⟩, w)
    (w1, .done, (met r).1, (met r).2, [])
  | 0x44 => (w.endGeneration h (dSeq cmd) (dLayer cmd) (dLayer cmd + dLayers cmd) (some (dPos cmd)), .done, 0, 0, [])
  | 0x45 => (w.endGeneration h (dSeq cmd) (dLayer cmd) (dLayer cmd + dLayers cmd) none, .done, 0, 0, [])
  | 0x46 =>
    let w1 := w.endGeneration h (dSeq cmd) (dLayer cmd) (dLayer cmd + dLayers cmd) none
    let (id, w2) := w1.swapGroup h c.slice none
    let l := cs.filter (fun x => (w2.listEnt h x.va).kind == 1)
    if l.isEmpty then (w2.upPods (fun t => { t with groups := t.groups.del id }), .done, 0, 0, [])
    else (w2.each l (fun w x => w.swapOutOne h c.slice id x.va (swapSlot cmd x)), .swap, 0, 0, [id])
  | 0x47 =>
    let (id, w2) := w.swapGroup h c.slice none
    let l := cs.filter (fun x => (w2.listEnt h x.va).kind == 2)
    if l.isEmpty then (w2.upPods (fun t => { t with groups := t.groups.del id }), .done, 0, 0, [])
    else ((l.zip (w2.freePods l.length)).foldl (fun w x => w.swapInOne h c.slice id x.1.layer x.1.va x.1.ix x.2 g) w2, .swap, 0, 0, [id])
  | _ =>
    let (r, w1) := (List.range (dLayers cmd)).foldl (fun (st : Rd × World) l =>
      let (w1, r) := st.2.forwardLayer c cmd (dLayer cmd + l)
      (st.1.append r, w1)) (⟨[], [], []⟩, w)
    (w1.addPeer h (dSeq cmd) (dGen cmd) (dPeer cmd, dPeerHusk cmd, dPeerSeq cmd), .done, (met r).1, (met r).2, [])

/-- A pod command taken from queue 14, R192 to R197: its checks, then its pods, then its effect; a command of a cancelled
sequence completes with STATUS 3 (R254). -/
def podTake (w : World) (c : Ctx) (cmd : Nat) : World :=
  if w.seqCancelled c.husk (dSeq cmd) then w.finished c cmd 3 0x0105
  else match w.podFail c cmd with
  | some r => w.rejected c cmd r (podSpans cmd)
  | none =>
    let n := w.podNeed c cmd
    if n ≠ 0 ∧ w.rd (oHuskPodLimit c.husk) < w.rd (oHuskPodsHeld c.husk) + n then w.finished c cmd 1 0x020E
    else
      let ((late, tie), w0) := if n = 0 ∨ w.podsNow c.husk n then ((true, false), w) else w.podTie c.husk c.slice (dPrio cmd) n
      if late then
        if !w0.podForwardOk c cmd then w0.finished c cmd 1 0x0211
        else
          let (w1, wait, st, rs, aux) := (w0.noteGrant c.husk c.slice (dPrio cmd) n).podGo c cmd
          w1.enterTaken c ⟨cmd, cmdTag cmd, st, rs, wait, c.husk, c.canonical, c.key, w.now, w.now, 0, [], aux⟩
      else if tie || dWait cmd then (w0.waiting c cmd .alloc []).podQueued ⟨c.husk, c.slice, dPrio cmd, none, tie, w.now⟩
      else w0.finished c cmd 1 0x0202

/-- A waiting pod command gets its pods, R197; one that lost a tie says so where nothing else is to be said. -/
def podGrant (w : World) (a : AllocReq) : World :=
  let r : RingRef := .slice (Fin.ofNat 16 a.slice) 14 (Fin.ofNat 16 a.husk)
  match w.takenWith r .alloc with
  | none => w
  | some t =>
    let (w1, wait, st, rs, aux) := w.podGo (w.ctxOf r t) t.cmd
    let w2 := if a.tie then w1.inc (oHuskPodTieLosses a.husk) 1 else w1
    w2.modTaken r (fun u => u.wait == .alloc) (fun u => { u with
      wait := wait, status := st, reason := if a.tie ∧ st = 0 ∧ rs = 0 then 0x0201 else rs, aux := aux })

/-- Pods that a waiting command needs now. -/
def podWaitNeed (w : World) (a : AllocReq) : Nat :=
  let r : RingRef := .slice (Fin.ofNat 16 a.slice) 14 (Fin.ofNat 16 a.husk)
  match w.takenWith r .alloc with
  | none => 0
  | some t => w.podNeed (w.ctxOf r t) t.cmd

/-! ### Forwarded tokens, R206 and R207 -/

/-- Key of a receive record: source node, receiving husk, PEER_SEQ. -/
def recordKey (node h q : Nat) : Nat := (node * 16 + h) * 65536 + q

/-- Write positions a to b − 1 of a span into one pod: below `tent` as committed, the rest as tentative (R206). -/
def spanPod (w : World) (m : Msg) (q gen first : Nat) (g : Geo) (pos0 a b tent : Nat) (p : Nat) (data : List Byte) : World :=
  let off := 32 + (a - first) * g.tokenBytes
  let bytes := (data.drop off).take ((b - a) * g.tokenBytes)
  let w1 := w.podWrite p (masterId 0xC 0) 0x21 ((a - pos0) * g.tokenBytes) bytes (List.replicate bytes.length m.poisoned)
  let x := w1.pod p
  let c := if a < tent then Nat.max x.commit (Nat.min b tent - pos0) else x.commit
  let t := Nat.max (Nat.max x.tentEnd c) (if tent < b then b - pos0 else 0)
  if tent < b then
    (w1.setPod p { x with commit := c, tentEnd := t, tentSeq := q, tentGen := gen, srcNode := m.srcNode.toNat }).upPods
      (fun s => { s with sources := s.sources.put p m.srcHusk.toNat })
  else w1.setPod p { x with commit := c, tentEnd := t }

/-- A span received, R206. -/
def podSpan (w : World) (m : Msg) : World :=
  let h := m.dstHusk.toNat
  let v := leNat (m.payload.take 32)
  let q := fld v 0 16
  let gen := fld v 16 32
  let first := fld v 48 24
  let count := fld v 72 24
  let tent := fld v 96 24
  let list := fld v 120 48
  let g := Geo.unpack (fld v 168 18)
  let stale (w : World) (n : Nat) : World := w.inc (oHuskPodStaleDropped h) n
  let (ge, pe) := match w.dev.pods.records.get? (recordKey m.srcNode.toNat h q) with
    | some r => (some r.1, r.2)
    | none => (none, 0)
  -- positions kept end at `stop`; from `t` on they are tentative
  let (stop, t) := match ge with
    | none => (first + count, tent)
    | some e => if e < gen then (first + count, tent) else if gen = e then (Nat.min (first + count) (Nat.max pe first), first + count) else (first, first)
  let cs := covers g list 0 m.addr.toNat 1 first count
  if count = 0 ∨ !g.ok then w
  else if stop = first then stale w count
  else if !(cs.all (fun x => (w.listEnt h x.va).kind == 1 && w.refOk h g (w.listEnt h x.va))) then
    w.inc (oHuskPodSpanRefused h) count
  else
    let w1 := w.each cs (fun w x =>
      let p0 := x.ix * g.tokens
      let a := Nat.max first p0
      let b := Nat.min stop (p0 + g.tokens)
      if a < b then w.spanPod m q gen first g p0 a b t (w.listEnt h x.va).pod m.payload else w)
    stale w1 (first + count - stop)

/-- An end message received, R206. -/
def podEnd (w : World) (m : Msg) : World :=
  let h := m.dstHusk.toNat
  let v := leNat (m.payload.take 16)
  let gen := fld v 0 32
  let pos := fld v 32 24
  let q := fld v 64 16
  let node := m.srcNode.toNat
  let w1 := w.each w.allPods (fun w p =>
    let x := w.pod p
    if x.state != podFree && x.husk == h && x.tentSeq == q && x.srcNode == node && decide (x.tentGen ≤ gen) then w.endPod p pos else w)
  w1.upPods (fun s => { s with records := s.records.put (recordKey node h q) (gen, pos) })

/-- A newer epoch of husk `sh` of a node: its tentative tokens go, R207. -/
def dropForwarded (w : World) (node sh : Nat) : World :=
  w.each w.allPods (fun w p =>
    let x := w.pod p
    if x.state != podFree && x.srcNode == node && w.dev.pods.sources.getD p sh == sh && decide (x.commit < x.tentEnd) then w.endPod p 0 else w)

/-! ### Resets and settings -/

/-- The Tier 3 slot of a swap that a reset abandons: its contents are undefined (R211). -/
def swapAbandoned (w : World) (op : SwapOp) : World :=
  match w.peek op.husk op.slot .rd with
  | none => w
  | some pa =>
    let (n, w1) := w.fresh
    if op.out then w1.store pa ((List.range op.data.length).map (fun i => Config.abandonedByte n i)) else w

/-- R211 for a husk: its pods are released, its waiting requests end, swaps are abandoned, receive records cleared. -/
def podHuskReset (w : World) (h : Nat) : World :=
  let w0 := w.each (w.dev.pods.swaps.vals.filter (fun op => op.husk == h)) swapAbandoned
  let w1 := w0.each w.allPods (fun w p =>
    let x := w.pod p
    if x.state == podFree || x.husk != h then w
    else
      let w1 := if x.refs = 0 then w else w.refsReleased h x.refs
      let w2 := if x.state = podRetiring then w1 else w1.inc (oLedgerPods 5) 1
      (w2.setPod p { x with refs := 0, state := podRetiring, tentSeq := 0xFFFF, srcNode := 0xFFFF, tentEnd := x.commit, swapAddr := 0 }).retireFree p)
  (w1.upPods (fun s => { s with
    queue := s.queue.filter (fun a => a.husk != h),
    swaps := s.swaps.delIf (fun _ op => op.husk == h),
    groups := s.groups.delIf (fun _ g => g.husk == h),
    records := s.records.delIf (fun k _ => k / 65536 % 16 == h),
    peers := s.peers.delIf (fun k _ => k / 65536 == h),
    geos := s.geos.delIf (fun k _ => k / 2 ^ 48 == h) })).podSync

/-- R211: a cold reset also reinitialises the pod table. -/
def podTableInit (w : World) : World :=
  let n := 32 * w.rd oPodRegionPods
  (w.zeroRange (w.rd oPodTableBase) n).zeroRange (w.rd oPodTableBase + podCopyOffset) n

/-- Does a region of n pods from b lie in HBM outside the module reserve (R187)? -/
def podRegionFits (b n : Nat) : Bool :=
  let e := b + Nat.max 1 n * 0x10000
  (n == 0 && b == 0) || (decide (0x10000000000 ≤ b) && decide (e ≤ 0x12F00000000)) || (decide (0x13000000000 ≤ b) && decide (e ≤ 0x15F00000000))

/-- A write of PodRegionBase or PodRegionPods (R187, R327): refused while any pod is not FREE, outside HBM, or over a
husk's frames; a region smaller than the reserves would break R196. -/
def podRegionWrite (w : World) (k : OKey) (v : Nat) : Nat × World :=
  let w1 := (w.wr k v).podSync
  let b := w1.rd oPodRegionBase
  let n := w1.rd oPodRegionPods
  if w.heldPods ≠ 0 then (0x0208, w)
  else if n < (allHusks.map (fun h => w.rd (oHuskPodReserve h))).foldl (· + ·) 0 then (0x0210, w)
  else if !podRegionFits b n then (0x000D, w)
  else if w.dev.frames.items.any (fun f => f.2 != 0 && w1.podFrame f.1) then (0x0A02, w)
  else (0, w1)

/-- A write of HuskPodReserve (R195). -/
def podReserveWrite (w : World) (h v : Nat) : Nat × World :=
  let w1 := (w.wr (oHuskPodReserve h) v).podSync
  let total := (allHusks.map (fun h => w1.rd (oHuskPodReserve h))).foldl (· + ·) 0
  if v ≤ w.rd (oHuskPodReserve h) then (0, w1)
  else if w.rd oPodRegionPods < total ∨ w1.rd oPodsFree < w1.rd oPodShortfall then (0x0210, w)
  else (0, w1)

end World

/-- POD_ALLOC, R192. -/
def execPodAlloc (sl : Fin 16) (s : State) : Host.Outcome State Fault Refusal := s.done (fun w => w.blockTake sl 14 0x40 World.podTake)
/-- POD_SHARE, R192 and R198. -/
def execPodShare (sl : Fin 16) (s : State) : Host.Outcome State Fault Refusal := s.done (fun w => w.blockTake sl 14 0x41 World.podTake)
/-- POD_RELEASE, R192 and R201. -/
def execPodRelease (sl : Fin 16) (s : State) : Host.Outcome State Fault Refusal := s.done (fun w => w.blockTake sl 14 0x42 World.podTake)
/-- POD_APPEND, R192, R199 and R202. -/
def execPodAppend (sl : Fin 16) (s : State) : Host.Outcome State Fault Refusal := s.done (fun w => w.blockTake sl 14 0x43 World.podTake)
/-- POD_COMMIT, R192 and R203. -/
def execPodCommit (sl : Fin 16) (s : State) : Host.Outcome State Fault Refusal := s.done (fun w => w.blockTake sl 14 0x44 World.podTake)
/-- POD_RETRACT, R192 and R203. -/
def execPodRetract (sl : Fin 16) (s : State) : Host.Outcome State Fault Refusal := s.done (fun w => w.blockTake sl 14 0x45 World.podTake)
/-- POD_SWAP_OUT, R192 and R208. -/
def execPodSwapOut (sl : Fin 16) (s : State) : Host.Outcome State Fault Refusal := s.done (fun w => w.blockTake sl 14 0x46 World.podTake)
/-- POD_SWAP_IN, R192 and R210. -/
def execPodSwapIn (sl : Fin 16) (s : State) : Host.Outcome State Fault Refusal := s.done (fun w => w.blockTake sl 14 0x47 World.podTake)
/-- POD_FORWARD, R192 and R205. -/
def execPodForward (sl : Fin 16) (s : State) : Host.Outcome State Fault Refusal := s.done (fun w => w.blockTake sl 14 0x48 World.podTake)
/-- POD_RETIRE_FREE, R201. -/
def execPodRetireFree (pod : Nat) (s : State) : Host.Outcome State Fault Refusal := s.done (fun w => w.retireFree pod)
/-- SWAP_WRITE_ACK, R208. -/
def execSwapWriteAck (id : Nat) (s : State) : Host.Outcome State Fault Refusal := s.done (fun w => w.swapAck id)
/-- SWAP_WRITE_FAILED, R209. -/
def execSwapWriteFailed (id : Nat) (s : State) : Host.Outcome State Fault Refusal := s.done (fun w => w.swapFail id)
/-- SWAP_IN_READ_DONE, R210. -/
def execSwapInReadDone (id : Nat) (o : HostOutcome) (s : State) : Host.Outcome State Fault Refusal := s.done (fun w => w.swapInEnd id o)

end Sys2Proof.Machine
end

