-- ==== Sys2Proof/Machine/Attention.lean ====
section
/-! DEFINITION. The attention pipeline: forward and backward attention over pods and ring shards (R64, R65, R165 to
R184). -/
namespace Sys2Proof.Machine

/-! ### The command, R167 -/

def aFmtQ (c : Nat) : Nat := fld c 8 4
def aFmtKv (c : Nat) : Nat := fld c 12 4
def aFmtO (c : Nat) : Nat := fld c 16 4
def aRound (c : Nat) : Nat := fld c 20 2
def aCinit (c : Nat) : Nat := fld c 22 2
def aOut (c : Nat) : Nat := fld c 24 2
def aMask (c : Nat) : Nat := fld c 26 3
def aRingSrc (c : Nat) : Bool := bitAt c 29
def aDim (c : Nat) : Nat := fld c 30 2
def aGroup (c : Nat) : Nat := fld c 32 8
def aKvhCount (c : Nat) : Nat := fld c 40 8
def aScale (c : Nat) : F32 := BitVec.ofNat 32 (fld c 64 32)
def aWindow (c : Nat) : Nat := fld c 96 32
def aLt (c : Nat) : Nat := fld c 128 48
def aLtCount (c : Nat) : Nat := fld c 176 16
def aKb0 (c : Nat) : Nat := fld c 192 24
def aKbCount (c : Nat) : Nat := fld c 216 24
def aPeer (c : Nat) : Nat := fld c 240 16
def aQ (c : Nat) : Nat := fld c 256 48
def aO (c : Nat) : Nat := fld c 320 48
def aStats (c : Nat) : Nat := fld c 384 48
def aTriple (c : Nat) : Nat := fld c 448 48
def aDo (c : Nat) : Nat := fld c 512 48
def aDq (c : Nat) : Nat := fld c 576 48
def aDk (c : Nat) : Nat := fld c 640 48
def aDv (c : Nat) : Nat := fld c 704 48
def aRing (c : Nat) : Nat := fld c 768 48
def aRingSlots (c : Nat) : Nat := fld c 816 16
def aFlagSeq (c : Nat) : Nat := fld c 832 32
def aKvh0 (c : Nat) : Nat := fld c 864 8
def aDkvInit (c : Nat) : Nat := fld c 880 2
def aDkvOut (c : Nat) : Nat := fld c 882 2
def aRingStride (c : Nat) : Nat := fld c 896 32
def aShards (c : Nat) : Nat := fld c 928 24
/-- The RSVD bits of R167. -/
def aReserved (c : Nat) : Bool :=
  rsvd c 304 16 && rsvd c 368 16 && rsvd c 432 16 && rsvd c 496 16 && rsvd c 560 16 && rsvd c 624 16 && rsvd c 688 16
    && rsvd c 752 16 && rsvd c 872 8 && rsvd c 884 12 && rsvd c 952 8 && rsvd c 960 64
/-- Is it ATTN_BWD? -/
def aBwd (c : Nat) : Bool := cmdOp c == 2
/-- D, HQ and formats. -/
def aD (c : Nat) : Nat := headD (aDim c)
def aHq (c : Nat) : Nat := aGroup c * aKvhCount c
def aFq (c : Nat) : Fmt := (Fmt.ofCode (aFmtQ c)).getD .f32
def aFkv (c : Nat) : Fmt := (Fmt.ofCode (aFmtKv c)).getD .f32
def aFo (c : Nat) : Fmt := (Fmt.ofCode (aFmtO c)).getD .f32
/-- Bytes of an element of a plain format. -/
def Fmt.elemBytes (f : Fmt) : Nat := f.bits / 8

/-- A length-table entry, R169. -/
structure LenEnt where
  podList : Nat
  kvLen : Nat
  qPos0 : Nat
  qLen : Nat
  qRow : Nat
  kRow : Nat
  pre : Nat
  seq : Nat
  clean : Bool
  deriving DecidableEq, Repr

/-- The entry of a 32-byte word. -/
def lenOf (v : Nat) : LenEnt :=
  ⟨fld v 208 48, fld v 184 24, fld v 160 24, fld v 136 24, fld v 96 32, fld v 64 32, fld v 40 24, fld v 0 16, rsvd v 128 8 && rsvd v 16 24⟩
/-- R169. -/
def LenEnt.valid (e : LenEnt) : Bool :=
  e.clean && decide (e.qPos0 + e.qLen ≤ 2097152) && decide (e.kvLen ≤ 2097152) && decide (e.pre ≤ e.kvLen)

/-- A row of the command, R170: its entry's place in the table, KV head (from KVH0), position, buffer row (token row ×
HQ + head). -/
structure ARow where
  entry : Nat
  head : Nat
  pos : Nat
  buf : Nat
  deriving DecidableEq, Repr

/-- The rows of a command in the order of R170: entry, KV head, position, g. -/
def aRows (cmd : Nat) (es : List LenEnt) : List ARow :=
  (((List.range es.length).zip es).map (fun p =>
    ((List.range (aKvhCount cmd)).map (fun j => ((List.range p.2.qLen).map (fun i => (List.range (aGroup cmd)).map (fun g =>
      (⟨p.1, j, p.2.qPos0 + i, (p.2.qRow + i) * aHq cmd + j * aGroup cmd + g⟩ : ARow)))).flatten)).flatten)).flatten

/-- Is position k in the command's key range? -/
def inRange (cmd k : Nat) : Bool :=
  decide (aKb0 cmd * 128 ≤ k) && (aKbCount cmd == 0 || decide (k < (aKb0 cmd + aKbCount cmd) * 128))

/-- Visibility of R171. -/
def aVisible (cmd : Nat) (e : LenEnt) (k q : Nat) : Bool :=
  decide (k < e.kvLen) && (match aMask cmd with
    | 0 => true
    | 1 => decide (k ≤ q)
    | 2 => decide (q < k + aWindow cmd) && decide (k ≤ q)
    | 3 => decide (k < e.pre) || decide (k ≤ q)
    | _ => false)

/-- One position's keys and values out of the bytes of the covered heads (R186). -/
def tokenKey (cmd pos : Nat) (k v : Rd) : AKey :=
  let f := aFkv cmd
  let n := aD cmd * f.elemBytes
  let part (d : List Byte) (j : Nat) : List Val := let b := (d.drop (j * n)).take n; (List.range (aD cmd)).map (fun i => f.valAt b i)
  let dirty (b : List Bool) (j : Nat) : Bool := ((b.drop (j * n)).take n).any id
  let hs := List.range (aKvhCount cmd)
  ⟨pos, hs.map (part k.data), hs.map (part v.data), hs.map (fun j => dirty k.bad j || dirty v.bad j), 0⟩

/-- Some row of the entry sees position k. -/
def seenBy (cmd : Nat) (e : LenEnt) (k : Nat) : Bool := (List.range e.qLen).any (fun i => aVisible cmd e k (e.qPos0 + i))

/-- The places of a store of tokens that are read, R175: of each group of 32 positions, counted from position 0, in which some of
the `n` positions from `first` on lies in the command's key range and is seen. -/
def groupsRead (cmd first n : Nat) (seen : Nat → Bool) : List Nat :=
  let hit (k : Nat) : Bool := inRange cmd k && seen k
  let gs := (List.range ((first + n + 31) / 32 - first / 32)).map (fun i => first / 32 + i)
  let live := gs.filter (fun g => (List.range 32).any (fun i => decide (first ≤ 32 * g + i) && decide (32 * g + i < first + n) && hit (32 * g + i)))
  (List.range n).filter (fun i => inRange cmd (first + i) && live.elem ((first + i) / 32))

/-! ### Arithmetic -/

/-- A product term of an absent position: +0. -/
def zeroPair : Val × Val := (.fin false 0 0, .fin false 1 0)

/-- Conversion to an element format with round-to-nearest-even (R166). -/
def cvtTo (f : Fmt) (x : F32) : Val := f.valAt (f.encodeRow [valF32 x] [.rne]) 0
/-- The format that p converts to, R166. -/
def pFmt (f : Fmt) : Fmt := match f with
  | .bf16 => .bf16
  | .f16 => .f16
  | .f32 => .f32
  | _ => .e4m3
/-- The format that dS converts to, R166. -/
def dsFmt (f : Fmt) : Fmt := match f with
  | .bf16 => .bf16
  | .f16 => .f16
  | .f32 => .f32
  | _ => .e5m2

/-- A fresh row: m = −infinity, l = +0, o = +0. -/
def RowAcc.fresh (d : Nat) : RowAcc := ⟨f32Inf true, f32Zero, List.replicate d f32Zero, false⟩
/-- Has no visible position entered the row? -/
def RowAcc.none (a : RowAcc) : Bool := a.m == f32Inf true && a.l == f32Zero

/-- The elements of a list, each once, in order. -/
def dedup (l : List Nat) : List Nat := l.foldl (fun r x => if r.elem x then r else r ++ [x]) []

/-- One block of R64 entered into a row: the visible positions of block t with their key and value. -/
def attnBlock (fv : Fmt) (sc : F32) (q : List Val) (a : RowAcc) (ks : List (Nat × List Val × List Val)) : RowAcc :=
  let ss := ks.map (fun k => (k.1 % 128, f32Mul (canonicalDot f32Zero 0 (q.zip k.2.1)) sc, k.2.2))
  let mNew := f32Max a.m (f32MaxOf (ss.map (fun s => s.2.1)))
  let alpha := f32Exp (f32Sub a.m mNew)
  let ps := ss.map (fun s => (s.1, f32Exp (f32Sub s.2.1 mNew), s.2.2))
  let cell (i : Nat) (f : F32 → List Val → Val × Val) : Val × Val := match ps.find? (fun p => p.1 == i) with
    | some p => f p.2.1 p.2.2
    | none => zeroPair
  let l := canonicalDot (f32Mul alpha a.l) 0 ((List.range 128).map (fun i => cell i (fun p _ => (valF32 p, .fin false 1 0))))
  let o := ((List.range a.o.length).zip a.o).map (fun x =>
    canonicalDot (f32Mul alpha x.2) 0 ((List.range 128).map (fun i => cell i (fun p v => (cvtTo (pFmt fv) p, v.getD x.1 (.fin false 0 0))))))
  ⟨mNew, l, o, a.bad⟩

/-- A row's forward pass over visible keys, blocks in ascending position (R64, R65). -/
def attnRow (fv : Fmt) (sc : F32) (q : List Val) (a : RowAcc) (ks : List (Nat × List Val × List Val)) : RowAcc :=
  (dedup (ks.map (fun k => k.1 / 128))).foldl (fun a t => attnBlock fv sc q a (ks.filter (fun k => k.1 / 128 == t))) a

/-- Two partial triples merged with canonical mode off (R68, log entry 26). -/
def mergeAcc (a b : RowAcc) : RowAcc :=
  if a.none then { b with bad := a.bad || b.bad }
  else if b.none then { a with bad := a.bad || b.bad }
  else ⟨f32Max a.m b.m, Config.mergeSum a.m a.l b.m b.l, (a.o.zip b.o).map (fun p => Config.mergeSum a.m p.1 b.m p.2), a.bad || b.bad⟩

/-- A row as ATTN_BWD reads it. -/
structure BRow where
  q : List Val
  o : List Val
  dO : List Val
  lse : F32
  bad : Bool
  deriving DecidableEq, Repr

/-- p and ds of one row and one visible key, R176. -/
def backPair (sc : F32) (r : BRow) (key val : List Val) : F32 × F32 :=
  let s := f32Mul (canonicalDot f32Zero 0 (r.q.zip key)) sc
  let p := if r.lse = f32Inf true then f32Zero else f32Exp (f32Sub s r.lse)
  let dd := canonicalDot f32Zero 0 (r.dO.zip r.o)
  let dp := canonicalDot f32Zero 0 (r.dO.zip val)
  (p, f32Mul p (f32Sub dp dd))

/-- A chunked sum over consecutive indices lo to hi − 1 whose listed terms are given by index; the others are +0. -/
def sparseDot (init : F32) (lo hi : Nat) (terms : List (Nat × Val × Val)) : F32 :=
  canonicalDot init lo ((List.range (hi - lo)).map (fun i => match terms.find? (fun t => t.1 == lo + i) with
    | some t => t.2
    | none => zeroPair))

namespace World

/-- Change the ring run of a slice. -/
def setAttn (w : World) (s : Nat) (r : AttnRun) : World := { w with dev := { w.dev with attn := w.dev.attn.put s r } }
/-- The ring run of a slice. -/
def attnRun (w : World) (s : Nat) : AttnRun := w.dev.attn.getD s AttnRun.init

/-! ### Checks, R166 to R169 -/

/-- The first rows of R168: fields, then format pairs, then KFIRST (met by construction: key blocks are 128 long). -/
def attnFieldFail (w : World) (c : Ctx) (cmd : Nat) : Option Nat :=
  let fq := Fmt.ofCode (aFmtQ cmd)
  let fk := Fmt.ofCode (aFmtKv cmd)
  let fo := Fmt.ofCode (aFmtO cmd)
  let kv (f : Nat) : Bool := decide (1 ≤ f) && decide (f ≤ 4)
  firstFail [
    (aReserved cmd && decide (aMask cmd ≤ 3) && kv (aFmtQ cmd) && kv (aFmtKv cmd) && decide (aFmtO cmd ≤ 3)
      && aCinit cmd != 1 && decide (aRound cmd ≤ 1) && aDkvInit cmd != 1 && aDkvInit cmd != 3 && (!aBwd cmd || aDkvOut cmd != 3)
      && aGroup cmd != 0 && aKvhCount cmd != 0 && aLtCount cmd != 0
      && (aMask cmd != 2 || (decide (1 ≤ aWindow cmd) && decide (aWindow cmd ≤ 2097152)))
      && (!aRingSrc cmd || (aShards cmd != 0 && aRingStride cmd % 64 == 0)), 0x0003),
    (aOut cmd != 3 || w.peerOk c.husk 0x5 (aPeer cmd), 0x0003),
    ((match fq, fk, fo with
      | some a, some b, some o => pairAllowed a b && (!aBwd cmd || (pairAllowed a o && pairAllowed b o))
      | _, _, _ => false), 0x0002)]

/-- Does a buffer's used part lie in the slice's scratch, aligned (R167)? -/
def bufOk (w : World) (c : Ctx) (base first n stride : Nat) (need : Need) : Bool :=
  base % 32 == 0 && (n == 0 || w.inScratch c.husk c.slice (base + first * stride) (n * stride) need)

/-- First and end position of an entry's key range below KV_LEN. -/
def rangeLo (cmd : Nat) : Nat := aKb0 cmd * 128
def rangeHi (cmd : Nat) (e : LenEnt) : Nat :=
  if aKbCount cmd = 0 then e.kvLen else Nat.min e.kvLen ((aKb0 cmd + aKbCount cmd) * 128)

/-- The addresses of R167 for the rows of one entry. -/
def attnAddrOk (w : World) (c : Ctx) (cmd : Nat) (e : LenEnt) : Bool :=
  let hq := aHq cmd
  let d := aD cmd
  let first := e.qRow * hq
  let n := e.qLen * hq
  let out := if aOut cmd = 2 then (aFo cmd).elemBytes else 4
  let kv0 := (e.kRow + rangeLo cmd) * aKvhCount cmd
  let kvN := if e.qLen = 0 then 0 else (rangeHi cmd e - rangeLo cmd) * aKvhCount cmd
  let kvOut := if aDkvOut cmd = 2 then (aFo cmd).elemBytes else 4
  w.bufOk c (aQ cmd) first n (d * (aFq cmd).elemBytes) .rd
    && (aRingSrc cmd || (e.podList % 8 == 0 && (e.kvLen == 0 || w.inHbm c.husk e.podList 8 .rd)))
    && (if aBwd cmd then
        w.bufOk c (aO cmd) first n (d * (aFo cmd).elemBytes) .rd && w.bufOk c (aDo cmd) first n (d * (aFo cmd).elemBytes) .rd
          && w.bufOk c (aStats cmd) first n 8 .rd && (aOut cmd == 3 || w.bufOk c (aDq cmd) first n (d * out) .wr)
          && (aCinit cmd != 2 || w.bufOk c (aDq cmd) first n (d * 4) .rd)
          && w.bufOk c (aDk cmd) kv0 kvN (d * kvOut) .wr && w.bufOk c (aDv cmd) kv0 kvN (d * kvOut) .wr
          && (aDkvInit cmd != 2 || (w.bufOk c (aDk cmd) kv0 kvN (d * 4) .rd && w.bufOk c (aDv cmd) kv0 kvN (d * 4) .rd))
      else
        (aCinit cmd != 2 || w.bufOk c (aTriple cmd) first n (8 + 4 * d) .rd)
          && (match aOut cmd with
            | 0 => w.bufOk c (aTriple cmd) first n (8 + 4 * d) .wr
            | 3 => true
            | _ => w.bufOk c (aO cmd) first n (d * out) .wr && w.bufOk c (aStats cmd) first n 8 .wr))

/-- The used part of a buffer, as the check walks it. -/
def bufSpan (base first n stride : Nat) (need : Need) : List Span := if base % 32 = 0 then [(base + first * stride, n * stride, need)] else []

/-- The ranges that the check of one entry's addresses walks. -/
def attnSpans (cmd : Nat) (e : LenEnt) : List Span :=
  let hq := aHq cmd
  let d := aD cmd
  let first := e.qRow * hq
  let n := e.qLen * hq
  let out := if aOut cmd = 2 then (aFo cmd).elemBytes else 4
  let kv0 := (e.kRow + rangeLo cmd) * aKvhCount cmd
  let kvN := if e.qLen = 0 then 0 else (rangeHi cmd e - rangeLo cmd) * aKvhCount cmd
  let kvOut := if aDkvOut cmd = 2 then (aFo cmd).elemBytes else 4
  bufSpan (aQ cmd) first n (d * (aFq cmd).elemBytes) .rd
    ++ (if aRingSrc cmd ∨ e.kvLen = 0 then [] else [(e.podList, 8, .rd)])
    ++ (if aBwd cmd then
        bufSpan (aO cmd) first n (d * (aFo cmd).elemBytes) .rd ++ bufSpan (aDo cmd) first n (d * (aFo cmd).elemBytes) .rd
          ++ bufSpan (aStats cmd) first n 8 .rd ++ (if aOut cmd = 3 then [] else bufSpan (aDq cmd) first n (d * out) .wr)
          ++ (if aCinit cmd = 2 then bufSpan (aDq cmd) first n (d * 4) .rd else [])
          ++ bufSpan (aDk cmd) kv0 kvN (d * kvOut) .wr ++ bufSpan (aDv cmd) kv0 kvN (d * kvOut) .wr
          ++ (if aDkvInit cmd = 2 then bufSpan (aDk cmd) kv0 kvN (d * 4) .rd ++ bufSpan (aDv cmd) kv0 kvN (d * 4) .rd else [])
      else
        (if aCinit cmd = 2 then bufSpan (aTriple cmd) first n (8 + 4 * d) .rd else [])
          ++ (match aOut cmd with
            | 0 => bufSpan (aTriple cmd) first n (8 + 4 * d) .wr
            | 3 => []
            | _ => bufSpan (aO cmd) first n (d * out) .wr ++ bufSpan (aStats cmd) first n 8 .wr))

/-! ### Keys from pods, R172 and R190 -/

/-- The list entries of an entry that cover positions below KV_LEN, with the pods they name. -/
def kvEntries (w : World) (h : Nat) (e : LenEnt) (tokens : Nat) : List (Nat × ListEnt) :=
  (List.range ((e.kvLen + tokens - 1) / tokens)).map (fun i => (i, w.listEnt h (e.podList + 8 * i)))

/-- The first entry that names a pod: its pod (R190). -/
def firstPod (w : World) (h : Nat) (e : LenEnt) : Option Pod :=
  ((w.kvEntries h e 8).find? (fun x => x.2.names)).map (fun x => w.pod x.2.pod)

/-- Does the pod match the command and its place (R190)? -/
def podMatches (cmd h : Nat) (f x : Pod) (pos0 : Nat) : Bool :=
  x.husk == h && x.layer == f.layer && x.pos0 == pos0 && x.geo == f.geo && x.headDim == aDim cmd && x.fmt == aFmtKv cmd

/-- The end of the tokens of a pod that are present to SEQ_INDEX, R172. -/
def presentEnd (w : World) (h seq : Nat) (x : Pod) : Nat :=
  if seq ≠ 0xFFFF ∧ x.tentSeq = seq ∧ w.seqGenSampled h seq = some x.tentGen then x.tentEnd else x.commit

/-- Read the covered heads of some tokens of a store, `rd` reading bytes of it by offset: the keys by position, what was read. -/
def readTokens (w : World) (cmd heads tb first : Nat) (is : List Nat) (rd : World → Nat → Nat → Rd × World) : List AKey × Rd × World :=
  let n := aD cmd * (aFkv cmd).elemBytes
  is.foldl (fun st i =>
    let (k, w1) := rd st.2.2 (i * tb + aKvh0 cmd * n) (aKvhCount cmd * n)
    let (v, w2) := rd w1 (i * tb + (heads + aKvh0 cmd) * n) (aKvhCount cmd * n)
    (st.1 ++ [tokenKey cmd (first + i) k v], (st.2.1.append k).append v, w2)) ([], ⟨[], [], []⟩, w)

/-- The key positions of an entry in the command's key range, of the pods that begin at positions from `plo` to `phi` − 1, with the
pods sampled and the absent positions. A pod is sampled when a group of it is read; a group that no row sees reads nothing (R172,
R175). -/
def podKeys (w : World) (c : Ctx) (cmd : Nat) (e : LenEnt) (plo phi : Nat) : KeySet × List Nat × Nat × World :=
  let dead (r lo hi : Nat) : List AKey :=
    ((List.range (hi - lo)).map (fun i => lo + i)).filterMap (fun k =>
      if inRange cmd k && decide (plo ≤ k) && decide (k < phi) then some ⟨k, [], [], [], r⟩ else none)
  match w.firstPod c.husk e with
  | none => (⟨dead 0x020B 0 e.kvLen, []⟩, [], 0, w)
  | some f =>
    let t := f.geo.tokens
    (w.kvEntries c.husk e t).foldl (fun (st : KeySet × List Nat × Nat × World) x =>
      let (ks, pods, absent, w) := st
      let lo := x.1 * t
      let hi := Nat.min e.kvLen (lo + t)
      let all := (List.range (hi - lo)).map (fun i => lo + i)
      let add (l : List AKey) (os : List Nat) : KeySet := ⟨ks.keys ++ l, ks.origins ++ os⟩
      let gone (r : Nat) : List AKey := all.filterMap (fun k => if inRange cmd k then some ⟨k, [], [], [], r⟩ else none)
      if !(all.any (inRange cmd)) || decide (lo < plo) || decide (phi ≤ lo) then st
      else if !x.2.names then (add (gone 0x020B) [], pods, absent, w)
      else
        let p := w.pod x.2.pod
        if p.state == podFree || p.state == podRetiring || !podMatches cmd c.husk f p lo then (add (gone 0x020C) [], pods, absent, w)
        else if p.poison then (add (gone 0x0204) [], pods, absent, w)
        else
          let n := Nat.min (w.presentEnd c.husk e.seq (w.podSampled x.2.pod)) (hi - lo)
          let is := groupsRead cmd lo n (seenBy cmd e)
          let (l, r, w1) := w.readTokens cmd p.heads p.geo.tokenBytes lo is (fun w off k => w.podRead x.2.pod c.master 1 off k)
          let w2 := if r.anyBad && r.origins.isEmpty then w1.contained c.husk c.master 1 0x0010 (w1.podAddr x.2.pod) else w1
          (add l r.origins, if is.isEmpty || pods.elem x.2.pod then pods else pods ++ [x.2.pod],
            absent + ((all.drop n).filter (inRange cmd)).length, w2)) (⟨[], []⟩, [], 0, w)

/-- Add to the READERS of pods, or take away (R190). -/
def readers (w : World) (ps : List Nat) (up : Bool) : World :=
  w.each ps (fun w p =>
    let x := w.pod p
    if x.state = podFree then w else w.setPod p { x with readers := if up then x.readers + 1 else x.readers - 1 })

/-! ### Counters, R175 and R184 -/

/-- Count the key groups of one row tile: computed when some position of the group is real and visible to a row. -/
def countGroups (w : World) (cmd s : Nat) (e : LenEnt) (keys : List AKey) (lo hi : Nat) (tile : List ARow) : World :=
  let gs := (List.range ((hi + 31) / 32 - lo / 32)).map (fun i => lo / 32 + i)
  let hit (g : Nat) : Bool := keys.any (fun k => k.pos / 32 == g && k.dead == 0 && tile.any (fun r => aVisible cmd e k.pos r.pos))
  let n := (gs.filter hit).length
  (w.inc (oAttnGroupsComputed s) n).inc (oAttnGroupsSkipped s) (gs.length - n)

/-- Count the groups of every tile of an entry: rows of one KV head, 256 at a time (R170). -/
def countEntry (w : World) (cmd s : Nat) (e : LenEnt) (keys : List AKey) (lo hi : Nat) (rows : List ARow) : World :=
  w.each (List.range (aKvhCount cmd)) (fun w j =>
    let rs := rows.filter (fun r => r.head == j)
    w.each (chunksOf 256 ((rs.length + 255) / 256) rs) (fun w t => w.countGroups cmd s e keys lo hi t))

/-! ### Rows read and written -/

/-- The visible keys of a row, head `j`: position, key, value; whether one of them is poisoned; the reasons of dead ones. -/
def rowKeys (cmd : Nat) (e : LenEnt) (keys : List AKey) (r : ARow) : List (Nat × List Val × List Val) × Bool × List Nat :=
  let vis := keys.filter (fun k => aVisible cmd e k.pos r.pos)
  let live := vis.filter (fun k => k.dead == 0)
  (live.map (fun k => (k.pos, k.keys.getD r.head [], k.vals.getD r.head [])),
   vis.any (fun k => k.dead != 0 || k.bad.getD r.head false),
   (vis.filter (fun k => k.dead != 0)).map (fun k => k.dead))

/-- A row's starting values: fresh, or loaded from the running values in scratch (CINIT = 2). -/
def loadAcc (w : World) (c : Ctx) (cmd : Nat) (r : ARow) : RowAcc × List Nat × World :=
  let d := aD cmd
  if aCinit cmd = 2 then
    if aBwd cmd then
      let (x, w1) := w.readRow c .f32 (aDq cmd + r.buf * d * 4) d
      (⟨f32Inf true, f32Zero, x.vals.map Val.f32, x.bad.any id⟩, x.origins, w1)
    else
      let (x, w1) := w.readRow c .f32 (aTriple cmd + r.buf * (8 + 4 * d)) (d + 2)
      (⟨(x.vals.getD 0 (.fin false 0 0)).f32, (x.vals.getD 1 (.fin false 0 0)).f32, (x.vals.drop 2).map Val.f32, x.bad.any id⟩, x.origins, w1)
  else (RowAcc.fresh d, [], w)

/-- The starting values of all rows. -/
def loadAccs (w : World) (c : Ctx) (cmd : Nat) (rows : List ARow) : List RowAcc × List Nat × World :=
  rows.foldl (fun st r =>
    let (a, o, w1) := st.2.2.loadAcc c cmd r
    (st.1 ++ [a], st.2.1 ++ o, w1)) ([], [], w)

/-- Values per row of the sets that chain sends carry: the triple, or dQ (log entry 28). -/
def setWidth (cmd : Nat) : Nat := if aBwd cmd then aD cmd else aD cmd + 2
/-- A row's values in a chain set, and back. -/
def accValues (cmd : Nat) (a : RowAcc) : List F32 := if aBwd cmd then a.o else a.m :: a.l :: a.o
def accOf (cmd : Nat) (l : List F32) (bad : Bool) : RowAcc :=
  if aBwd cmd then ⟨f32Inf true, f32Zero, l, bad⟩ else ⟨l.getD 0 f32Zero, l.getD 1 f32Zero, l.drop 2, bad⟩
/-- The rows of a chain set. -/
def setAccs (cmd : Nat) (rows : List ARow) (s : ChainSet) : List RowAcc :=
  (List.range rows.length).map (fun i => accOf cmd ((s.values.drop (i * setWidth cmd)).take (setWidth cmd))
    (s.bad.any (fun k => k / setWidth cmd == i)))

/-- A row's final result written as OUT selects, R64, R173 and R176. -/
def writeResult (w : World) (c : Ctx) (cmd : Nat) (r : ARow) (a : RowAcc) : World :=
  let d := aD cmd
  let put (w : World) (f : Fmt) (va : Nat) (vs : List F32) : World :=
    w.writeRow c f va (vs.map valF32) (List.replicate vs.length a.bad) (List.replicate vs.length (roundingOf (aRound cmd) 0 0 0))
  let f := if aOut cmd = 2 then aFo cmd else .f32
  if aBwd cmd then
    match aOut cmd with
    | 0 => put w .f32 (aDq cmd + r.buf * d * 4) a.o
    | 3 => w
    | _ => put w f (aDq cmd + r.buf * d * f.elemBytes) (a.o.map (fun x => f32Mul x (aScale cmd)))
  else
    match aOut cmd with
    | 0 => put w .f32 (aTriple cmd + r.buf * (8 + 4 * d)) (a.m :: a.l :: a.o)
    | 3 => w
    | _ =>
      let out := if a.none then List.replicate d f32Zero else a.o.map (fun x => f32Div x a.l)
      let lse := if a.none then f32Inf true else f32Add a.m (f32Ln a.l)
      put (put w f (aO cmd + r.buf * d * f.elemBytes) out) .f32 (aStats cmd + r.buf * 8) [a.m, lse]

/-- The operands of ATTN_BWD for a row. -/
def readBack (w : World) (c : Ctx) (cmd : Nat) (r : ARow) : BRow × List Nat × World :=
  let d := aD cmd
  let (q, w1) := w.readRow c (aFq cmd) (aQ cmd + r.buf * d * (aFq cmd).elemBytes) d
  let (o, w2) := w1.readRow c (aFo cmd) (aO cmd + r.buf * d * (aFo cmd).elemBytes) d
  let (g, w3) := w2.readRow c (aFo cmd) (aDo cmd + r.buf * d * (aFo cmd).elemBytes) d
  let (st, w4) := w3.readRow c .f32 (aStats cmd + r.buf * 8) 2
  (⟨q.vals, o.vals, g.vals, (st.vals.getD 1 (.fin false 0 0)).f32, q.bad.any id || o.bad.any id || g.bad.any id || st.bad.any id⟩,
   q.origins ++ o.origins ++ g.origins ++ st.origins, w4)

/-! ### Key sets entered into rows -/

/-- Forward: the keys of every entry entered into the rows; `merge` (canonical mode off, a later ring shard) computes a
partial from a fresh start and merges it. -/
def forwardRows (w : World) (c : Ctx) (cmd : Nat) (es : List LenEnt) (ks : List KeySet) (rows : List ARow) (accs : List RowAcc)
    (merge : Bool) : List RowAcc × List Nat × World :=
  (rows.zip accs).foldl (fun st p =>
    let r := p.1
    match es[r.entry]?, ks[r.entry]? with
    | some e, some k =>
      let (vis, bad, dead) := rowKeys cmd e k.keys r
      if vis.isEmpty && !bad then (st.1 ++ [p.2], st.2.1, st.2.2)
      else
        let (q, w1) := st.2.2.readRow c (aFq cmd) (aQ cmd + r.buf * aD cmd * (aFq cmd).elemBytes) (aD cmd)
        let a := if merge then mergeAcc p.2 (attnRow (aFkv cmd) (aScale cmd) q.vals (RowAcc.fresh (aD cmd)) vis)
          else attnRow (aFkv cmd) (aScale cmd) q.vals p.2 vis
        (st.1 ++ [{ a with bad := a.bad || bad || q.bad.any id }], st.2.1 ++ dead ++ (if bad then k.origins else []) ++ q.origins, w1)
    | _, _ => (st.1 ++ [p.2], st.2.1, st.2.2)) ([], [], w)

/-- Backward: dQ of every row over the keys, and the contributions to dK and dV. `lo` and `hi` bound the positions. -/
def backwardRows (w : World) (c : Ctx) (cmd : Nat) (es : List LenEnt) (ks : List KeySet) (rows : List ARow) (accs : List RowAcc)
    (lo hi : Nat) : List RowAcc × List DkvTerm × List Nat × World :=
  let order (j : Nat) : List ARow := rows.filter (fun r => r.head == j)
  (rows.zip accs).foldl (fun st p =>
    let r := p.1
    match es[r.entry]?, ks[r.entry]? with
    | some e, some k =>
      let seen := k.keys.filter (fun a => aVisible cmd e a.pos r.pos)
      let live := seen.filter (fun a => a.dead == 0)
      let lost := seen.filter (fun a => a.dead != 0)
      let dirty (a : AKey) : Bool := a.bad.getD r.head false
      let bad := !lost.isEmpty || live.any dirty
      if seen.isEmpty then (st.1 ++ [p.2], st.2.1, st.2.2.1, st.2.2.2)
      else
        let (b, os, w1) := st.2.2.2.readBack c cmd r
        let ix := ((order r.head).findIdx? (fun x => x == r)).getD 0
        let terms := live.map (fun a => (a, backPair (aScale cmd) b (a.keys.getD r.head []) (a.vals.getD r.head [])))
        let fds := dsFmt (aFkv cmd)
        let zero : Val := .fin false 0 0
        let dq := ((List.range p.2.o.length).zip p.2.o).map (fun x =>
          sparseDot x.2 lo (Nat.min hi e.kvLen) (terms.map (fun t => (t.1.pos, cvtTo fds t.2.2, (t.1.keys.getD r.head []).getD x.1 zero))))
        let dkv := terms.map (fun t => (⟨e.kRow + t.1.pos, r.head, ix, cvtTo fds t.2.2, cvtTo (pFmt (aFkv cmd)) t.2.1, b.q, b.dO, b.bad || dirty t.1⟩ : DkvTerm))
          ++ lost.map (fun a => (⟨e.kRow + a.pos, r.head, ix, zero, zero, [], [], true⟩ : DkvTerm))
        (st.1 ++ [{ p.2 with o := dq, bad := p.2.bad || bad || b.bad }], st.2.1 ++ dkv,
          st.2.2.1 ++ lost.map (fun a => a.dead) ++ (if bad then k.origins else []) ++ os, w1)
    | _, _ => (st.1 ++ [p.2], st.2.1, st.2.2.1, st.2.2.2)) ([], [], [], w)

/-- dK and dV of one buffer row and head written as DKV_OUT selects, R176. -/
def writeDkv (w : World) (c : Ctx) (cmd row j nrows : Nat) (ts : List DkvTerm) : List Nat × World :=
  let d := aD cmd
  let at' := row * aKvhCount cmd + j
  let mine := ts.filter (fun t => t.row == row && t.head == j)
  let (k0, w1) := if aDkvInit cmd = 2 then w.readRow c .f32 (aDk cmd + at' * d * 4) d else (⟨[], [], []⟩, w)
  let (v0, w2) := if aDkvInit cmd = 2 then w1.readRow c .f32 (aDv cmd + at' * d * 4) d else (⟨[], [], []⟩, w1)
  let init (x : Row) (i : Nat) : F32 := (x.vals.getD i (.fin false 0 0)).f32
  let dk := (List.range d).map (fun i => sparseDot (init k0 i) 0 nrows (mine.map (fun t => (t.ix, t.ds, t.q.getD i (.fin false 0 0)))))
  let dv := (List.range d).map (fun i => sparseDot (init v0 i) 0 nrows (mine.map (fun t => (t.ix, t.p, t.dO.getD i (.fin false 0 0)))))
  let bad := mine.any (fun t => t.bad) || k0.bad.any id || v0.bad.any id
  let f := if aDkvOut cmd = 2 then aFo cmd else .f32
  let put (w : World) (base : Nat) (vs : List F32) : World :=
    w.writeRow c f (base + at' * d * f.elemBytes) (vs.map valF32) (List.replicate d bad) (List.replicate d (roundingOf (aRound cmd) 0 0 0))
  (k0.origins ++ v0.origins,
   put (put w2 (aDk cmd) (if aDkvOut cmd = 0 then dk else dk.map (fun x => f32Mul x (aScale cmd)))) (aDv cmd) dv)

/-- dK and dV of every position of the entries between lo and hi. -/
def writeDkvs (w : World) (c : Ctx) (cmd : Nat) (es : List LenEnt) (rows : List ARow) (lo hi : Nat) (ts : List DkvTerm) : List Nat × World :=
  let brs := dedup (((es.filter (fun e => e.qLen != 0)).map (fun e => ((List.range (Nat.min hi (rangeHi cmd e) - lo)).map (fun i => e.kRow + lo + i)))).flatten)
  brs.foldl (fun st row => (List.range (aKvhCount cmd)).foldl (fun st j =>
    let (o, w1) := st.2.writeDkv c cmd row j ((rows.filter (fun r => r.head == j)).length) ts
    (st.1 ++ o, w1)) st) ([], w)

/-- Results written, and what the command then waits for; `aux` keeps the pods sampled and what a chain send carries. -/
def attnFinish (w : World) (c : Ctx) (cmd : Nat) (rows : List ARow) (accs : List RowAcc) (pods reasons : List Nat) (refused : Bool) :
    World × Wait × Nat × Nat × List Nat :=
  let w1 := (rows.zip accs).foldl (fun w p => w.writeResult c cmd p.1 p.2) w
  let (st, rs) := poisonOutcome (refused || accs.any (fun a => a.bad)) reasons
  let send := if aOut cmd = 3 then (accs.map (fun a => (accValues cmd a).map (fun v => keptVal (v, a.bad)))).flatten else []
  (w1, if aOut cmd = 3 then .chainOut else .done, st, rs, pods.length :: pods ++ send)

/-- The length table of a command. -/
def lenTable (w : World) (c : Ctx) (cmd : Nat) : List LenEnt :=
  (List.range (aLtCount cmd)).map (fun i => lenOf (w.vnum c.husk (aLt cmd + 32 * i) 32))

/-- The keys of every entry, of the pods that begin at positions from `plo` to `phi` − 1; the pods sampled gain a reader. -/
def attnKeys (w : World) (c : Ctx) (cmd : Nat) (es : List LenEnt) (plo phi : Nat) : List KeySet × List Nat × World :=
  let (ks, pods, w1) := es.foldl (fun (st : List KeySet × List Nat × World) e =>
    let (k, ps, absent, w1) := if e.qLen = 0 then (⟨[], []⟩, [], 0, st.2.2) else st.2.2.podKeys c cmd e plo phi
    (st.1 ++ [k], st.2.1 ++ ps.filter (fun p => !st.2.1.elem p), w1.inc (oAttnAbsentPositions c.slice) absent)) ([], [], w)
  (ks, pods, w1.readers pods true)

/-- Positions that a command reads ahead of the running values it waits for, R178: 16 key blocks of a row tile, or 64 block sums
of 32 positions. -/
def aheadEnd (cmd : Nat) : Nat := rangeLo cmd + 2048

/-- The values a received set gives the rows, if the command takes one. -/
def receivedAccs (cmd : Nat) (rows : List ARow) (set : Option ChainSet) : List RowAcc :=
  match set with
  | some s => setAccs cmd rows s
  | none => []

/-- The command's own partials joined to what it received, with canonical mode off (R68, R78); nothing received changes nothing. -/
def joinReceived (cmd : Nat) (received accs : List RowAcc) : List RowAcc :=
  if received.isEmpty then accs
  else if aBwd cmd then (received.zip accs).map (fun p => { p.2 with o := (p.1.o.zip p.2.o).map (fun x => f32Add x.1 x.2), bad := p.1.bad || p.2.bad })
  else (received.zip accs).map (fun p => mergeAcc p.1 p.2)

/-- Run a command over pods, R64, R173, R176: `set` is the chain set of CINIT = 3, and `ahead` the keys read before it came. -/
def attnPods (w : World) (c : Ctx) (cmd : Nat) (set : Option ChainSet) (ahead : List KeySet) (before : List Nat) :
    World × Wait × Nat × Nat × List Nat :=
  let es := w.lenTable c cmd
  let rows := aRows cmd es
  let (ks1, pods1, w1) := w.attnKeys c cmd es (if ahead.isEmpty then 0 else aheadEnd cmd) 2097152
  let ks := if ahead.isEmpty then ks1 else (ahead.zip ks1).map (fun p => (⟨p.1.keys ++ p.2.keys, p.1.origins ++ p.2.origins⟩ : KeySet))
  let pods := before ++ pods1
  let w2 := ((List.range es.length).zip (es.zip ks)).foldl (fun w p =>
    w.countEntry cmd c.slice p.2.1 p.2.2.keys (rangeLo cmd) (rangeHi cmd p.2.1) (rows.filter (fun r => r.entry == p.1))) w1
  let (start, o0, w3) := w2.loadAccs c cmd rows
  let received := receivedAccs cmd rows set
  let init := if c.canonical && !received.isEmpty then received else start
  let late := if c.canonical then [] else received
  if aBwd cmd then
    let lo := rangeLo cmd
    let hi := es.foldl (fun n e => Nat.max n (rangeHi cmd e)) 0
    let (accs, ts, o1, w5) := w3.backwardRows c cmd es ks rows init lo hi
    let (o2, w6) := w5.writeDkvs c cmd es rows lo hi ts
    w6.attnFinish c cmd rows (joinReceived cmd late accs) pods (o0 ++ o1 ++ o2) false
  else
    let (accs, o1, w5) := w3.forwardRows c cmd es ks rows init false
    w5.attnFinish c cmd rows (joinReceived cmd late accs) pods (o0 ++ o1) false

/-- Start the ring run of a command whose chain set, if it takes one, is there. -/
def attnRingStart (w : World) (c : Ctx) (cmd : Nat) (set : Option ChainSet) : World :=
  let rows := aRows cmd (w.lenTable c cmd)
  let (start, o, w1) := w.loadAccs c cmd rows
  let received := receivedAccs cmd rows set
  w1.setAttn c.slice { AttnRun.init with
    accs := if c.canonical && !received.isEmpty then received else start,
    received := if c.canonical then [] else received, reasons := o }

/-- Does the chain set match the command's rows (R78)? -/
def attnSetOk (w : World) (c : Ctx) (cmd : Nat) (s : ChainSet) : Bool :=
  s.m == (aRows cmd (w.lenTable c cmd)).length && s.n == setWidth cmd

/-- The command goes on once its chain set is there: run, or wait for ring shards. -/
def attnGo (w : World) (c : Ctx) (cmd : Nat) : World × Wait × Nat × Nat × List Nat :=
  let e := w.engine c.master
  let set := if aCinit cmd = 3 then e.sets.head? else none
  let w1 := if aCinit cmd = 3 then w.setEngine c.master { e with sets := e.sets.drop 1 } else w
  let bad := match set with
    | some s => !w1.attnSetOk c cmd s
    | none => false
  let run := w.attnRun c.slice
  if bad then (w1, .done, 1, 0x0003, run.pods.length :: run.pods)
  else if aRingSrc cmd then (w1.attnRingStart c cmd set, .shard, 0, 0, [])
  else w1.attnPods c cmd set run.ahead run.pods

/-- A command that must wait for running values reads the keys that its stages run ahead on, R172 and R178. -/
def attnAhead (w : World) (c : Ctx) (cmd : Nat) : World :=
  if aRingSrc cmd then (w.setAttn c.slice AttnRun.init).waiting c cmd .chainIn []
  else
    let (ks, pods, w1) := w.attnKeys c cmd (w.lenTable c cmd) 0 (aheadEnd cmd)
    (w1.setAttn c.slice { AttnRun.init with ahead := ks, pods := pods }).waiting c cmd .chainIn (pods.length :: pods)

/-- ATTN_FWD or ATTN_BWD taken, R167 to R169, with the cut rule of R260. -/
def attnTake (w : World) (c : Ctx) (cmd : Nat) : World :=
  match w.attnFieldFail c cmd with
  | some r => w.finished c cmd 1 r
  | none =>
    if aLt cmd % 32 != 0 || !w.inScratch c.husk c.slice (aLt cmd) (32 * aLtCount cmd) .rd
        || (aRingSrc cmd && (aRing cmd % 32 != 0 || !w.inScratch c.husk c.slice (aRing cmd) (64 + aRingSlots cmd * aRingStride cmd) .wr)) then
      w.rejected c cmd 0x0004 ((aLt cmd, 32 * aLtCount cmd, .rd)
        :: (if aRingSrc cmd then [(aRing cmd, 64 + aRingSlots cmd * aRingStride cmd, .wr)] else []))
    else
      let ((lt, _), w1) := w.readVirt c.husk c.master 1 (aLt cmd) (32 * aLtCount cmd)
      if lt.anyBad then (w1.consumed c (aLt cmd) lt).finished c cmd 2 lt.reason
      else
        let es := w1.lenTable c cmd
        let seqs := dedup (es.map (fun e => e.seq))
        if !(es.all (fun e => !e.valid || w1.attnAddrOk c cmd e)) then
          w1.rejected c cmd 0x0004 ((es.filter LenEnt.valid).map (attnSpans cmd)).flatten
        else if !(es.all LenEnt.valid) || (aRingSrc cmd && (decide (aRingSlots cmd < 2) || decide (64 < aRingSlots cmd) || decide (1 < seqs.length))) then
          w1.finished c cmd 1 0x0007
        else if aBwd cmd && c.canonical && aDkvInit cmd == 2 && es.any (fun e => e.qLen != 0 && e.qPos0 % 128 != 0) then
          w1.finished c cmd 1 0x0001
        else if seqs.any (fun q => q != 0xFFFF && w1.seqCancelled c.husk q) then w1.finished c cmd 3 0x0105
        else if !aRingSrc cmd && es.any (fun e => match w1.firstPod c.husk e with
            | some p => p.state != podFree && p.state != podRetiring && decide (p.heads < aKvh0 cmd + aKvhCount cmd)
            | none => false) then w1.finished c cmd 1 0x0003
        else if aCinit cmd = 3 ∧ (w1.engine c.master).sets.isEmpty then w1.attnAhead c cmd
        else
          let (w2, wait, st, rs, aux) := (w1.setAttn c.slice AttnRun.init).attnGo c cmd
          w2.enterTaken c ⟨cmd, cmdTag cmd, st, rs, wait, c.husk, c.canonical, c.key, w.now, w.now, 0, [], aux⟩

/-! ### Ring shards, R179 to R181 -/

/-- Address of the slot of shard u. -/
def ringSlot (cmd u : Nat) : Nat := aRing cmd + 64 + u % aRingSlots cmd * aRingStride cmd
/-- KV heads of a ring slot's tokens: those the command covers, from head 0 (log entry 25). -/
def ringHeads (cmd : Nat) : Nat := aKvh0 cmd + aKvhCount cmd
/-- Bytes of a ring slot's token. -/
def ringTokenBytes (cmd : Nat) : Nat := 2 * ringHeads cmd * aD cmd * (aFkv cmd).elemBytes

/-- The keys of a shard: its positions are real for every entry, and a group that no row sees reads nothing (R175, R179). -/
def shardKeys (w : World) (c : Ctx) (cmd : Nat) (es : List LenEnt) (u first count : Nat) : KeySet × World :=
  let va := ringSlot cmd u + 64
  let (l, r, w1) := w.readTokens cmd (ringHeads cmd) (ringTokenBytes cmd) first
    (groupsRead cmd first count (fun k => es.any (fun e => seenBy cmd e k)))
    (fun w off n =>
      let ((r, ok), w1) := w.readVirt c.husk c.master 1 (va + off) n
      (r, if ok then w1.consumed c (va + off) r else w1))
  (⟨l, r.origins⟩, w1)

/-- A shard that poisons the rows it would have entered (R180, R181). -/
def deadKeys (cmd first count reason : Nat) : KeySet :=
  ⟨(List.range count).filterMap (fun i => if inRange cmd (first + i) then some ⟨first + i, [], [], [], reason⟩ else none), []⟩

/-- A shard's flag is present: the pipeline consumes it; after the last the command finishes. -/
def ringShard (w : World) (s : Fin 16) : World :=
  let r := w.blockRing s 9
  match w.takenWith r .shard with
  | none => w
  | some t =>
    let c := w.ctxOf r t
    let run := w.attnRun s.val
    let u := run.shard
    match w.flagPresent c (ringSlot t.cmd u) ((aFlagSeq t.cmd + u / aRingSlots t.cmd) % 2 ^ 32) with
    | none => w
    | some reason =>
      let hd := w.vnum c.husk (ringSlot t.cmd u + 8) 8
      let first := fld hd 0 24
      let count := fld hd 24 24
      let refuse := if reason ≠ 0 then reason
        else if c.canonical ∧ first % 128 ≠ 0 then 0x0001
        else if c.canonical ∧ first < run.prevEnd then 0x0008
        else 0
      let es := w.lenTable c t.cmd
      let rows := aRows t.cmd es
      let (k, w1) := if refuse = 0 then w.shardKeys c t.cmd es u first count else (deadKeys t.cmd first count refuse, w)
      let ks := es.map (fun _ => k)
      let w2 := ((List.range es.length).zip es).foldl (fun w p =>
        if p.2.qLen = 0 then w
        else w.countEntry t.cmd c.slice p.2 k.keys (Nat.max first (rangeLo t.cmd)) (Nat.min (first + count) (rangeHi t.cmd p.2))
          (rows.filter (fun r => r.entry == p.1))) w1
      let lo := Nat.max first (rangeLo t.cmd)
      let (accs, ts, os, w3) := if aBwd t.cmd then
          let part (a : RowAcc) : RowAcc := if c.canonical then a else { a with o := a.o.map (fun _ => f32Zero) }
          let (a, ts, o, w3) := w2.backwardRows c t.cmd es ks rows (run.accs.map part) lo (first + count)
          let b := if c.canonical then a else (run.accs.zip a).map (fun p => { p.2 with o := (p.1.o.zip p.2.o).map (fun x => f32Add x.1 x.2) })
          (b, ts, o, w3)
        else
          let (a, o, w3) := w2.forwardRows c t.cmd es ks rows run.accs (!c.canonical)
          (a, [], o, w3)
      let n := w3.vnum c.husk (aRing t.cmd) 8
      let w4 := w3.putVirt c.husk c.master 2 (aRing t.cmd) (leBytes 8 (n + 1))
      let run' : AttnRun := { run with
        shard := u + 1, prevEnd := first + count, accs := accs, refused := run.refused || refuse != 0,
        reasons := run.reasons ++ (if refuse = 0 then [] else [refuse]) ++ os,
        terms := run.terms ++ [⟨lo, first + count, ts⟩] }
      if u + 1 < aShards t.cmd then
        (w4.setAttn s.val run').modTaken r (fun x => x.wait == .shard) (fun x => { x with since := w.now })
      else
        let (o2, w5) := if aBwd t.cmd then run'.terms.foldl (fun (st : List Nat × World) (x : DkvPart) =>
            let (o, w1) := st.2.writeDkvs c t.cmd es rows x.lo x.hi x.terms
            (st.1 ++ o, w1)) ([], w4)
          else ([], w4)
        let (w6, wait, st, rs, aux) := w5.attnFinish c t.cmd rows (joinReceived t.cmd run.received accs) [] (run'.reasons ++ o2) run'.refused
        w6.modTaken r (fun x => x.wait == .shard) (fun x => { x with wait := wait, status := st, reason := rs, aux := aux })

/-- A missing shard's wait expires, R181 and R87. -/
def ringTimeout (w : World) (s : Fin 16) : World :=
  let r := w.blockRing s 9
  match w.takenWith r .shard with
  | none => w
  | some t =>
    let c := w.ctxOf r t
    let u := (w.attnRun s.val).shard
    let here := w.flagPresent c (ringSlot t.cmd u) ((aFlagSeq t.cmd + u / aRingSlots t.cmd) % 2 ^ 32)
    if w.now < t.since + w.rd oComputeFeedTimeout ∨ here.isSome then w
    else (w.contained c.husk c.master 0x21 0x0005 (ringSlot t.cmd u)).finishWait r .shard 1 0x0005

/-- A pipeline that waits for a shard counts the tick, R184. -/
def shardWaitTick (w : World) (s : Fin 16) : World :=
  match w.takenWith (w.blockRing s 9) .shard with
  | none => w
  | some _ => w.inc (oAttnRingWaitTicks s.val) 1

/-- The pods that the commands taken from an attention queue sampled lose their readers when those commands are torn down. -/
def dropReaders (w : World) (r : RingRef) : World :=
  match r with
  | .slice _ q _ => if q.val = 9 then w.each (w.ring r).taken (fun w t => w.readers ((t.aux.drop 1).take (t.aux.headD 0)) false) else w
  | _ => w

/-- The pods that the finished command at the front of an attention queue sampled lose a reader (R190). -/
def releaseReaders (w : World) (r : RingRef) : World :=
  match r with
  | .slice _ q _ =>
    if q.val = 9 then
      match (w.ring r).taken with
      | t :: _ => if t.wait = .done ∧ w.ringUnitRuns r then w.readers ((t.aux.drop 1).take (t.aux.headD 0)) false else w
      | [] => w
    else w
  | _ => w

end World

/-- ATTN_NOP, R167. -/
def execAttnNop (sl : Fin 16) (s : State) : Host.Outcome State Fault Refusal := s.done (fun w => w.blockTake sl 9 0 (World.nopTake aReserved))
/-- ATTN_FWD, R167. -/
def execAttnFwd (sl : Fin 16) (s : State) : Host.Outcome State Fault Refusal := s.done (fun w => w.blockTake sl 9 1 World.attnTake)
/-- ATTN_BWD, R176. -/
def execAttnBwd (sl : Fin 16) (s : State) : Host.Outcome State Fault Refusal := s.done (fun w => w.blockTake sl 9 2 World.attnTake)
/-- RING_SHARD_PRESENT, R181. -/
def execRingShardPresent (sl : Fin 16) (s : State) : Host.Outcome State Fault Refusal := s.done (fun w => w.ringShard sl)
/-- ATTN_RING_TIMEOUT, R181. -/
def execAttnRingTimeout (sl : Fin 16) (s : State) : Host.Outcome State Fault Refusal := s.done (fun w => w.ringTimeout sl)
/-- COMMAND_COMPLETE, R83, R84, R190 and R525. -/
def execCommandComplete (r : RingRef) (s : State) : Host.Outcome State Fault Refusal :=
  s.done (fun w => (w.releaseReaders r).ringComplete r)

end Sys2Proof.Machine
end

