-- ==== Sys2Proof/Machine/Sampler.lean ====
section
/-! DEFINITION. The token sampler (R214 to R220, R233). -/
namespace Sys2Proof.Machine

def smFmt (c : Nat) : Nat := fld c 8 4
def smRows (c : Nat) : Nat := fld c 64 24
def smVocab (c : Nat) : Nat := fld c 88 24
def smLdl (c : Nat) : Nat := fld c 224 32
def smLogits (c : Nat) : Nat := fld c 256 48
def smParam (c : Nat) : Nat := fld c 320 48
def smOut (c : Nat) : Nat := fld c 384 48
/-- The RSVD bits of R215. -/
def smReserved (c : Nat) : Bool := rsvd c 12 36 && rsvd c 112 112 && rsvd c 304 16 && rsvd c 368 16 && rsvd c 432 592

/-- A parameter entry, R216. -/
structure SmParam where
  ctr : Nat
  stream : Nat
  temp : F32
  topP : F32
  token : Nat
  topK : Nat
  mode : Nat
  clean : Bool
  deriving DecidableEq, Repr

/-- The entry of a 32-byte word. -/
def smParamOf (v : Nat) : SmParam :=
  ⟨fld v 192 64, fld v 128 64, BitVec.ofNat 32 (fld v 96 32), BitVec.ofNat 32 (fld v 64 32), fld v 32 24, fld v 16 16, fld v 0 2,
   rsvd v 56 8 && rsvd v 2 14⟩

/-- Is an FP32 number finite and above 0? -/
def f32Above0 (x : F32) : Bool := (valF32 x).finite && f32Ge x f32Zero && !f32Ge f32Zero x

/-- May TEMP, TOP_P and TOP_K stand in an entry (R218)? -/
def smTuneOk (temp topP : F32) (topK : Nat) : Bool :=
  f32Above0 temp && f32Above0 topP && f32Ge f32One topP && decide (topK ≤ 1024)

/-- R218, the last row. -/
def SmParam.ok (p : SmParam) (vocab : Nat) : Bool :=
  p.clean && p.mode != 3 && smTuneOk p.temp p.topP p.topK && (p.mode != 1 || decide (p.token < vocab))

/-- Is a strictly above b? -/
def f32Gt (a b : F32) : Bool := f32Ge a b && !f32Ge b a
/-- Insert by descending value; an equal value goes after the ones before it. -/
def insertDesc (p : Nat × F32) : List (Nat × F32) → List (Nat × F32)
  | [] => [p]
  | q :: t => if f32Gt p.2 q.2 then p :: q :: t else q :: insertDesc p t
/-- Indices by descending value, equal values by ascending index (R219). -/
def sortDesc (l : List (Nat × F32)) : List (Nat × F32) := l.foldl (fun r p => insertDesc p r) []

/-- The canonical prefix sums c[j] of R219. -/
def prefixSums (es : List F32) : List F32 := (List.range es.length).map (fun j => canonicalSum f32Zero (es.take (j + 1)))

/-- A row's record, R217. -/
structure SmRow where
  status : Nat
  token : Nat
  logp : F32
  logpTrunc : F32
  entropy : F32
  deriving DecidableEq, Repr

/-- A row that cannot be used, R220. -/
def SmRow.unusable (status : Nat) : SmRow := ⟨status, 0xFFFFFF, f32NaN, f32NaN, f32NaN⟩

/-- R219 for a row of logits. -/
def sampleRow (key : Nat) (z : List F32) (p : SmParam) : SmRow :=
  let t := z.map (fun x => f32Div x p.temp)
  let m := f32MaxOf t
  let e := t.map (fun x => if x = f32Inf true then f32Zero else f32Exp (f32Sub x m))
  let s := canonicalSum f32Zero e
  let d := canonicalDot f32Zero 0 ((e.zip t).map (fun q => if q.1 = f32Zero then zeroPair else (valF32 q.1, valF32 (f32Sub q.2 m))))
  let entropy := f32Sub (f32Ln s) (f32Div d s)
  let all := ((List.range t.length).zip t).filter (fun q => q.2 != f32Inf true)
  let sorted := p.topK != 0 || p.topP != f32One
  let order1 := if sorted then
      let o := sortDesc all
      if p.topK = 0 then o else o.take p.topK
    else all
  let eOf (i : Nat) : F32 := e.getD i f32Zero
  let c1 := prefixSums (order1.map (fun q => eOf q.1))
  let last (l : List F32) : F32 := (l.getLast?).getD f32Zero
  let order := if p.topP = f32One then order1
    else match c1.findIdx? (fun x => f32Ge x (f32Mul p.topP (last c1))) with
      | some j => order1.take (j + 1)
      | none => order1
  let c := c1.take order.length
  let tt := last c
  let token := match p.mode with
    | 0 =>
      let u := uniformOf (rngWord 0 (rngBlock key (rngCtr p.stream p.ctr)))
      match c.findIdx? (fun x => f32Gt x (f32Mul u tt)) with
      | some j => ((order[j]?).map (fun q => q.1)).getD 0
      | none => ((order.getLast?).map (fun q => q.1)).getD 0
    | 1 => p.token
    | _ => if sorted then ((order.head?).map (fun q => q.1)).getD 0 else (t.findIdx? (fun x => f32Ge x m && f32Ge m x)).getD 0
  let diff := f32Sub (t.getD token f32NaN) m
  ⟨0, token, f32Sub diff (f32Ln s), if order.any (fun q => q.1 == token) then f32Sub diff (f32Ln tt) else f32Inf true, entropy⟩

/-- The record of a row as read: poison first, then a NaN or +infinity, then no candidate (R220). -/
def rowRecord (key : Nat) (r : Row) (p : SmParam) : SmRow :=
  let z := r.vals.map Val.f32
  if r.bad.any id then .unusable 2
  else if z.any (fun x => (valF32 x).isNan || x == f32Inf false) then .unusable 1
  else if z.all (fun x => f32Div x p.temp == f32Inf true) then .unusable 3
  else sampleRow key z p

/-- The 16 bytes of a record, R217. -/
def SmRow.bytes (x : SmRow) : List Byte :=
  leBytes 16 (x.token + x.status * 2 ^ 24 + x.logp.toNat * 2 ^ 32 + x.logpTrunc.toNat * 2 ^ 64 + x.entropy.toNat * 2 ^ 96)

namespace World

/-- Address rule of R214 for the logits: the slice's scratch or HBM of the husk. -/
def logitsOk (w : World) (c : Ctx) (va n : Nat) : Bool :=
  va % 32 == 0 && (w.inScratch c.husk c.slice va n .rd || w.inHbm c.husk va n .rd)

/-- One row sampled: its record written, its counters moved. -/
def sampleOne (w : World) (c : Ctx) (cmd r : Nat) (p : SmParam) : SmRow × List Nat × World :=
  let f : Fmt := if smFmt cmd = 1 then .bf16 else .f32
  let (row, w1) := w.readRow c f (smLogits cmd + r * smLdl cmd * 32) (smVocab cmd)
  let x := rowRecord c.key row p
  let w2 := w1.putVirt c.husk c.master 2 (smOut cmd + 16 * r) x.bytes
  let w3 := w2.inc (oSamplerRows c.slice) 1
  (x, row.origins, match x.status with
    | 1 => w3.inc (oSamplerNanRows c.slice) 1
    | 2 => w3.inc (oSamplerPoisonRows c.slice) 1
    | 3 => w3.inc (oSamplerNoCandidateRows c.slice) 1
    | _ => w3)

/-- SAMPLE taken, R214 to R220. -/
def sampleTake (w : World) (c : Ctx) (cmd : Nat) : World :=
  let n := smRows cmd
  let v := smVocab cmd
  let rowBytes := v * (if smFmt cmd = 1 then 2 else 4)
  match firstFail [
      (smReserved cmd && decide (smFmt cmd ≤ 1) && v != 0 && decide (v ≤ 262144) && n != 0 && decide (n ≤ 65535), 0x0003),
      ((List.range n).all (fun r => w.logitsOk c (smLogits cmd + r * smLdl cmd * 32) rowBytes)
        && smParam cmd % 32 == 0 && smOut cmd % 32 == 0 && w.inScratch c.husk c.slice (smParam cmd) (32 * n) .rd
        && w.inScratch c.husk c.slice (smOut cmd) (16 * n) .wr, 0x0004)] with
  | some r => w.rejected c cmd r ((List.range n).map (fun r => (smLogits cmd + r * smLdl cmd * 32, rowBytes, .rd))
      ++ [(smParam cmd, 32 * n, .rd), (smOut cmd, 16 * n, .wr)])
  | none =>
    let ((pr, _), w1) := w.readVirt c.husk c.master 1 (smParam cmd) (32 * n)
    let ps := (List.range n).map (fun r => smParamOf (leNat ((pr.data.drop (32 * r)).take 32)))
    if pr.anyBad then (w1.consumed c (smParam cmd) pr).finished c cmd 2 pr.reason
    else if !(ps.all (fun p => p.ok v)) then w1.finished c cmd 1 0x0009
    else
      let (xs, os, w2) := ((List.range n).zip ps).foldl (fun st q =>
        let (x, o, w2) := st.2.2.sampleOne c cmd q.1 q.2
        (st.1 ++ [x], st.2.1 ++ o, w2)) ([], [], w1)
      let (st, rs) := poisonOutcome (xs.any (fun x => x.status == 2)) os
      w2.finished c cmd st rs

end World

/-- SAMPLER_NOP, R215. -/
def execSamplerNop (sl : Fin 16) (s : State) : Host.Outcome State Fault Refusal := s.done (fun w => w.blockTake sl 10 0 (World.nopTake smReserved))
/-- SAMPLE, R219. -/
def execSample (sl : Fin 16) (s : State) : Host.Outcome State Fault Refusal := s.done (fun w => w.blockTake sl 10 1 World.sampleTake)

end Sys2Proof.Machine
end

