-- ==== Sys2Proof/Machine/Tenants.lean ====
section
/-! DEFINITION. Tenant slots and their tokens (R251, R252). -/
namespace Sys2Proof.Machine

/-- A tenant slot, R251. -/
structure Tenant where
  issued : Nat
  charged : Nat
  expired : Nat
  available : Nat
  held : Nat
  refill : Nat
  cap : Nat
  ident : Nat
  refusals : Nat
  husk : Nat
  state : Nat
  deriving DecidableEq, Repr

/-- The slot of a 64-byte word. -/
def tenantOf (v : Nat) : Tenant :=
  ⟨fld v 448 64, fld v 384 64, fld v 320 64, fld v 288 32, fld v 256 32, fld v 224 32, fld v 192 32, fld v 160 32, fld v 128 32,
   fld v 4 4, fld v 0 4⟩
/-- The word of a slot. -/
def tenantWord (t : Tenant) : Nat :=
  t.state + t.husk * 2 ^ 4 + t.refusals * 2 ^ 128 + t.ident * 2 ^ 160 + t.cap * 2 ^ 192 + t.refill * 2 ^ 224
    + t.held * 2 ^ 256 + t.available * 2 ^ 288 + t.expired * 2 ^ 320 + t.charged * 2 ^ 384 + t.issued * 2 ^ 448

/-- Tenant slots of the device. -/
def tenantSlots : Nat := 16384

namespace World

/-- Address of a slot; a second copy lies in the west die's reserve (log entry 23). -/
def tenantAddr (w : World) (i : Nat) : Nat := w.rd oTenantTableBase + 64 * i

/-- Distance of the second copy below the first: it lies above the pod table (log entry 23). -/
def tenantCopyOffset : Nat := 0x2FF8000000

/-- A slot: from the first copy unless that is poisoned or fails correction. -/
def tenant (w : World) (i : Nat) : Tenant :=
  let r := w.readStored (w.tenantAddr i) 64 0
  tenantOf (if r.anyBad then w.num (w.tenantAddr i - tenantCopyOffset) 64 else r.nat)

/-- Add `new` and take `old` away from a ledger part. -/
def shift (w : World) (k : OKey) (old new : Nat) : World := if old = new then w else w.wr k (w.rd k + new - old)

/-- Write a slot, both copies; the token ledger follows (R399). -/
def setTenant (w : World) (i : Nat) (t0 : Tenant) : World :=
  let w := w.mirrorHeal (w.tenantAddr i) 64 (· - tenantCopyOffset)
  let o := w.tenant i
  let t : Tenant := { t0 with
    issued := fit 64 t0.issued, charged := fit 64 t0.charged, expired := fit 64 t0.expired,
    available := fit 32 t0.available, held := fit 32 t0.held, refusals := fit 32 t0.refusals }
  let b := leBytes 64 (tenantWord t)
  let w1 := (w.store (w.tenantAddr i) b).store (w.tenantAddr i - tenantCopyOffset) b
  let w2 := ((w1.shift (oLedgerTokens 3) o.available t.available).shift (oLedgerTokens 4) o.held t.held).shift
    (oLedgerTokens 1) (o.available + o.held) (t.available + t.held)
  let w3 := ((w2.shift (oLedgerTokens 5) o.charged t.charged).shift (oLedgerTokens 6) o.expired t.expired).shift
    (oLedgerTokens 2) (o.charged + o.expired) (t.charged + t.expired)
  w3.shift (oLedgerTokens 0) o.issued t.issued

/-- Change a slot. -/
def modTenant (w : World) (i : Nat) (f : Tenant → Tenant) : World := w.setTenant i (f (w.tenant i))

/-- A plan holds n tokens, R252. -/
def tenantHold (w : World) (i n : Nat) : World :=
  w.modTenant i (fun t => { t with available := t.available - n, held := t.held + n })
/-- Held tokens leave: c are charged, the rest return to AVAILABLE (R247). -/
def tenantSettle (w : World) (i held c : Nat) : World :=
  w.modTenant i (fun t => { t with held := t.held - held, charged := t.charged + c, available := t.available + (held - c) })

/-- One boundary, R252. -/
def tenantBoundary (w : World) : World :=
  w.each (List.range tenantSlots) (fun w i =>
    let t := w.tenant i
    if t.state = 1 then
      let a := t.available + t.refill
      w.setTenant i { t with issued := t.issued + t.refill, available := Nat.min a t.cap, expired := t.expired + (a - t.cap) }
    else w)

/-- The tick of the next boundary. -/
def nextBoundary (w : World) : Nat := w.dev.seqs.lastBoundary + w.rd oTenantWindow

/-- Apply the next boundary when it is due. -/
def boundaryDue (w : World) : World :=
  if w.rd oTenantWindow ≠ 0 ∧ w.nextBoundary ≤ w.now then
    let t := w.nextBoundary
    let w1 := w.tenantBoundary
    { w1 with dev := { w1.dev with seqs := { w1.dev.seqs with lastBoundary := t } } }
  else w

/-- Every boundary that a load of the timestamp passed, in order (R252). -/
def boundariesPassed : Nat → World → World
  | 0, w => w
  | n + 1, w => boundariesPassed n w.boundaryDue

/-- Every boundary that is due: after a load of the timestamp, and before a plan, a commit or a cancellation of the same tick. -/
def tenantCatchUp (w : World) : World :=
  if w.rd oTenantWindow = 0 then w else boundariesPassed ((w.now - w.dev.seqs.lastBoundary) / w.rd oTenantWindow) w

/-- The windows start over at tick t, R252. -/
def windowStart (w : World) (t : Nat) : World :=
  let w1 := w.wr oTenantWindowStart t
  { w1 with dev := { w1.dev with seqs := { w1.dev.seqs with lastBoundary := t } } }

/-- The windows start over at the tick at which step C2 of a cold reset completed, R252: between the reset's event and now; the spec
does not state how long the steps before it took (free value, log entry 59). -/
def windowRestart (w : World) (start : Nat) : World :=
  let (n, w1) := w.fresh
  w1.windowStart (start + (Config.freeWord n).toNat % (w1.now - start + 1))

/-- An accepted write of TenantWindow, R252. -/
def tenantWindowWrite (w : World) (v : Nat) : Nat × World := (0, (w.wr oTenantWindow v).windowStart w.now)

end World

/-- TENANT_WINDOW_BOUNDARY, R252. -/
def execTenantWindowBoundary (s : State) : Host.Outcome State Fault Refusal := s.done (fun w => w.boundaryDue)
/-- TENANT_WINDOW_WRITE, R252. -/
def execTenantWindowWrite (p : Path) (v : Word) (s : State) : Host.Outcome State Fault Refusal :=
  s.done (fun w => w.odCommand p 0x2070 1 v true (fun w n => w.tenantWindowWrite n))

end Sys2Proof.Machine
end

