-- ==== Sys2Proof/Machine/Sequences.lean ====
section
/-! DEFINITION. Sequences (R235 to R250, R253 to R257): the sequence table, admission, planning, commit, cancellation,
pause and weight replacement, and the grant of waiting pod allocations (R197), which a plan's requests share. -/
namespace Sys2Proof.Machine

/-! ### Entry fields, R236 -/

def sqState (v : Nat) : Nat := fld v 60 4
def sqDraft (v : Nat) : Nat := fld v 56 4
def sqPrio (v : Nat) : Nat := fld v 54 2
def sqGroup (v : Nat) : Nat := fld v 16 16
def sqTenant (v : Nat) : Nat := fld v 0 14
def sqTokens (v : Nat) : Nat := fld v 64 32
def sqGen (v : Nat) : Nat := fld v 96 32
def sqPreempts (v : Nat) : Nat := fld v 128 8
def sqPosition (v : Nat) : Nat := fld v 136 24
def sqMisses (v : Nat) : Nat := fld v 160 32
def sqWorst (v : Nat) : Nat := fld v 192 32
def sqDelay (v : Nat) : Nat := fld v 224 32
def sqLast (v : Nat) : Nat := fld v 256 64
def sqFirst (v : Nat) : Nat := fld v 320 64
def sqArrival (v : Nat) : Nat := fld v 384 64
def sqEos (v : Nat) : Nat := fld v 488 24
def sqPrompt (v : Nat) : Nat := fld v 528 24
def sqMax (v : Nat) : Nat := fld v 552 24
def sqTbt (v : Nat) : Nat := fld v 576 32
def sqHold (v : Nat) : Nat := fld v 608 32
def sqTtft (v : Nat) : Nat := fld v 640 32
def sqStride (v : Nat) : Nat := fld v 672 32
def sqList (v : Nat) : Nat := fld v 720 48
def sqSwap (v : Nat) : Nat := fld v 768 48
def sqTopK (v : Nat) : Nat := fld v 816 16
def sqOut (v : Nat) : Nat := fld v 832 48
def sqLayers (v : Nat) : Nat := fld v 880 16
def sqStream (v : Nat) : Nat := fld v 896 64
def sqTopP (v : Nat) : Nat := fld v 960 32
def sqTemp (v : Nat) : Nat := fld v 992 32

/-- STATE values of R237. -/
def ssQueued : Nat := 1
def ssPrefill : Nat := 2
def ssDecode : Nat := 3
def ssPreempted : Nat := 4
def ssPaused : Nat := 5
def ssDone : Nat := 6
def ssRefused : Nat := 7
def ssCancelled : Nat := 8
def ssFailed : Nat := 9

/-- Does a state count in HuskSeqActive (R235)? -/
def sqLive (st : Nat) : Bool := decide (1 ≤ st) && decide (st ≤ 5)
/-- Does a sequence count as running (R237)? -/
def sqRuns (st : Nat) : Bool := st == ssPrefill || st == ssDecode
/-- The entry with another STATE and REASON. -/
def sqSet (v st reason : Nat) : Nat := setFld (setFld v 60 4 st) 32 16 reason

/-- Slack at tick t, R240. -/
def sqSlack (v t : Nat) : Int :=
  ((if sqTokens v = 0 then sqArrival v + sqTtft v else sqLast v + sqTbt v : Nat) : Int) - (t : Int)

/-! ### Command fields, R238 -/

def sqcA (c : Nat) : Nat := fld c 336 48
def sqcB (c : Nat) : Nat := fld c 400 48
def sqcArg (c : Nat) : Nat := fld c 352 32
def sqcCount (c : Nat) : Nat := fld c 80 16
def sqcTenant (c : Nat) : Nat := fld c 8 14
def sqcPrio (c : Nat) : Nat := fld c 24 2
def sqcDraft (c : Nat) : Nat := fld c 28 4

/-- The bits that must be 0 for the operation, R238 and R522. -/
def sqcReserved (c : Nat) : Bool :=
  rsvd c 22 2 && rsvd c 26 2 && rsvd c 128 208 && rsvd c 384 16 && (match cmdOp c with
    | 0x01 => rsvd c 336 16 && rsvd c 353 31 && rsvd c 448 40 && rsvd c 512 16 && rsvd c 704 16
    | 0x08 => rsvd c 336 16 && rsvd c 512 512
    | _ => rsvd c 448 576)

namespace World

/-- Write an entry; HuskSeqActive follows (R235). -/
def putSeq (w : World) (h q v : Nat) : World :=
  let a := sqLive (w.seqState h q)
  let w1 := w.setSeqWord h q v
  match a, sqLive (sqState v) with
  | true, false => w1.wr (oHuskSeqActive h) (w1.rd (oHuskSeqActive h) - 1)
  | false, true => w1.inc (oHuskSeqActive h) 1
  | _, _ => w1

/-- Change STATE and REASON. -/
def seqTo (w : World) (h q st reason : Nat) : World := w.putSeq h q (sqSet (w.seqWord h q) st reason)
/-- Change what the device keeps beside the entry. -/
def modSeqRt (w : World) (h q : Nat) (f : SeqRt → SeqRt) : World := w.setSeqRt h q (f (w.seqRt h q))
/-- Every index of the table. -/
def seqsOf (w : World) (h : Nat) : List Nat := List.range (w.rd (oHuskSeqSlots h))
/-- Change the sequence state. -/
def upSeqs (w : World) (f : SeqSt → SeqSt) : World := { w with dev := { w.dev with seqs := f w.dev.seqs } }

/-- The geometry of a sequence's lists: that of the pod its first entry names or named; for a list that holds none, the
husk's planned geometry (log entry 27). -/
def seqGeo (w : World) (h v : Nat) : Geo :=
  let e := w.listEnt h (sqList v)
  if e.names && decide (e.pod < w.rd oPodRegionPods) then (w.pod e.pod).geo
  else match w.dev.pods.geos.get? (h * 2 ^ 48 + sqList v) with
    | some g => Geo.unpack g
    | none => Geo.unpack (Config.planGeometry h)

/-- The entries of every list that cover positions. -/
def seqCovers (w : World) (h v pos n : Nat) : List Cover := covers (w.seqGeo h v) (sqList v) (sqStride v) 0 (sqLayers v) pos n
/-- Every entry that can hold a pod of the sequence. -/
def seqAll (w : World) (h v : Nat) : List Cover := w.seqCovers h v 0 (sqPrompt v + sqMax v)

/-- Release the references of a sequence's lists and return its held tokens (R237, R254). -/
def seqLetGo (w : World) (h q : Nat) : World :=
  let v := w.seqWord h q
  let m := seqMaster ((w.slicesOf h).headD 0)
  let w1 := w.each (w.seqAll h v) (fun w x => w.releaseOne h m x.va)
  let r := w1.seqRt h q
  let w2 := if r.held = 0 then w1 else w1.tenantSettle (sqTenant v) r.held 0
  ((w2.setSeqRt h q { r with held := 0, swap := 0, pausing := false, delayed := false }).upPods (fun s => { s with
    queue := s.queue.filter (fun a => !(a.husk == h && a.seq == some q)) })).upSeqs (fun s => { s with
    plans := s.plans.map (fun p => if p.husk = h then { p with
      entries := p.entries.map (fun e => if e.seq = q then { e with live := false } else e) } else p) })

/-- Is a sequence in a plan completed and not yet committed (R255)? -/
def inPlan (w : World) (h q : Nat) : Bool :=
  w.dev.seqs.plans.any (fun p => p.husk == h && p.entries.any (fun e => e.seq == q && e.live))

/-- The n tokens that a plan's entry holds leave it: c are charged, the rest return to AVAILABLE (R247, R252). -/
def seqSettle (w : World) (h q n c : Nat) : World :=
  (w.tenantSettle (sqTenant (w.seqWord h q)) n c).modSeqRt h q (fun r => { r with held := r.held - n })

/-- A sequence ends, R237. -/
def seqEnd (w : World) (h q st reason : Nat) : World := (w.seqTo h q st reason).seqLetGo h q

/-! ### Checks, R239 -/

/-- Row 1. -/
def seqFieldsOk (w : World) (c : Ctx) (cmd : Nat) : Bool :=
  sqcReserved cmd && (match cmdOp cmd with
    | 0x01 => sqcPrio cmd != 3 && decide (sqcDraft cmd ≤ 8) && sqPrompt cmd != 0 && sqMax cmd != 0 && sqLayers cmd != 0
        && decide (sqPrompt cmd ≤ 2097151) && decide (sqMax cmd ≤ 2097151) && sqStride cmd % 8 == 0
        && (sqSwap cmd != 0 || sqcPrio cmd == 0)
        && smTuneOk (BitVec.ofNat 32 (sqTemp cmd)) (BitVec.ofNat 32 (sqTopP cmd)) (sqTopK cmd)
    | 0x02 => sqcCount cmd != 0 && decide (sqcCount cmd ≤ w.rd (oHuskStepMax c.husk))
    | _ => true)

/-- The plan in flight that a commit names. -/
def planAt (w : World) (h buffer : Nat) : Option Plan := w.dev.seqs.plans.find? (fun p => p.husk == h && p.buffer == buffer)

/-- Sampler rows of a plan's entry, R245. -/
def entryRows (e : PlanEnt) : Nat := if e.kind = 0 then e.dplan + 1 else if e.kind = 2 then 1 else 0

/-- Entries and sampler rows of the plan in a buffer: none, where it holds no plan. -/
def planSize (w : World) (h buffer : Nat) : Nat × Nat :=
  match w.planAt h buffer with
  | none => (0, 0)
  | some p => (p.entries.length, (p.entries.map entryRows).foldl (· + ·) 0)

/-- Row 2; a commit reads the plan's entries and its sampler records. -/
def seqAddrOk (w : World) (c : Ctx) (cmd : Nat) : Bool :=
  let h := c.husk
  match cmdOp cmd with
  | 0x01 => w.inHbm h (sqOut cmd) (32 * sqMax cmd) .wr
      && (List.range (sqLayers cmd)).all (fun l => w.inHbm h (sqList cmd + l * sqStride cmd) 8 .wr)
      && (sqSwap cmd == 0 || w.slotOk h (sqSwap cmd) .wr)
  | 0x02 => w.inScratch h c.slice (sqcA cmd) (64 * (1 + sqcCount cmd)) .wr
      && w.inScratch h c.slice (sqcB cmd) (32 * sqcCount cmd * (w.rd (oHuskDraftCap h) + 1)) .wr
  | 0x03 => w.inScratch h c.slice (sqcA cmd) (64 * (1 + (w.planSize h (sqcA cmd)).1)) .rd
      && w.inScratch h c.slice (sqcB cmd) (16 * Nat.max 1 (w.planSize h (sqcA cmd)).2) .rd
  | _ => true

/-- The ranges that row 2 walks. -/
def seqSpans (w : World) (c : Ctx) (cmd : Nat) : List Span :=
  match cmdOp cmd with
  | 0x01 => (sqOut cmd, 32 * sqMax cmd, .wr) :: (List.range (sqLayers cmd)).map (fun l => (sqList cmd + l * sqStride cmd, 8, .wr))
      ++ (if sqSwap cmd = 0 then [] else [(sqSwap cmd, 1, .wr)])
  | 0x02 => [(sqcA cmd, 64 * (1 + sqcCount cmd), .wr), (sqcB cmd, 32 * sqcCount cmd * (w.rd (oHuskDraftCap c.husk) + 1), .wr)]
  | 0x03 => [(sqcA cmd, 64 * (1 + (w.planSize c.husk (sqcA cmd)).1), .rd),
      (sqcB cmd, 16 * Nat.max 1 (w.planSize c.husk (sqcA cmd)).2, .rd)]
  | _ => []

/-- Row 3; a commit of a buffer that holds no plan counts here. -/
def seqStateOk (w : World) (c : Ctx) (cmd : Nat) : Bool :=
  let h := c.husk
  let q := dSeq cmd
  let st := w.seqState h q
  let plj := w.rd (oHuskPlj6Mode h) == 1
  match cmdOp cmd with
  | 0x01 => w.seqExists h q && st == 0
  | 0x03 => (w.planAt h (sqcA cmd)).isSome
  | 0x04 => w.seqExists h q && sqRuns st
  | 0x05 => plj && w.seqExists h q && sqRuns st && sqPrio (w.seqWord h q) == 2
  | 0x06 => plj && w.seqExists h q && st == ssPaused
  | 0x07 => w.seqExists h q && decide (ssDone ≤ st)
  | _ => true

/-- Is the tenant slot in the husk's share of the table (R251, R325)? -/
def tenantMine (w : World) (h i : Nat) : Bool :=
  decide (w.rd (oHuskTenantFirst h) ≤ i) && decide (i < w.rd (oHuskTenantFirst h) + w.rd (oHuskTenantCount h))

/-- The first row of R239 that applies. -/
def seqFail (w : World) (c : Ctx) (cmd : Nat) : Option Nat :=
  if !w.seqFieldsOk c cmd then some 0x0003
  else if !w.seqAddrOk c cmd then some 0x0004
  else if !w.seqStateOk c cmd then some 0x0108
  else if (cmdOp cmd = 0x04 ∨ cmdOp cmd = 0x05) ∧ w.seqGen c.husk (dSeq cmd) ≠ some (dGen cmd) then some 0x020D
  else if cmdOp cmd = 0x01 ∧ (!w.tenantMine c.husk (sqcTenant cmd) ∨ (w.tenant (sqcTenant cmd)).state ≠ 1) then some 0x0109
  else if cmdOp cmd = 0x08 ∧ !w.tenantMine c.husk (sqcTenant cmd) then some 0x0109
  else none

/-- A sequence command: its checks, then its effect, which answers status and reason. -/
def seqTake (f : World → Ctx → Nat → Nat × Nat × World) (w : World) (c : Ctx) (cmd : Nat) : World :=
  match w.seqFail c cmd with
  | some r => w.rejected c cmd r (w.seqSpans c cmd)
  | none =>
    let (st, rs, w1) := f w c cmd
    w1.finished c cmd st rs

/-! ### Simple commands -/

/-- SEQ_ADMIT, R236 and R239. -/
def seqAdmit (w : World) (c : Ctx) (cmd : Nat) : Nat × Nat × World :=
  let h := c.husk
  let q := dSeq cmd
  let v := cmd / 2 ^ 448 * 2 ^ 448 + w.now % 2 ^ 64 * 2 ^ 384 + 2 ^ 96 + sqcDraft cmd * 2 ^ 56 + sqcPrio cmd * 2 ^ 54
    + fld cmd 32 16 * 2 ^ 16 + sqcTenant cmd
  let w1 := (w.putSeq h q (sqSet v ssQueued 0x0103)).setSeqRt h q ⟨0, 0, false, 0, 0, bitAt (sqcArg cmd) 0, false⟩
  (0, 0, w1.upPods (fun s => { s with peers := s.peers.del (h * 65536 + q) }))

/-- SEQ_FINISH, R237. -/
def seqFinish (w : World) (c : Ctx) (cmd : Nat) : Nat × Nat × World := (0, 0, w.seqEnd c.husk (dSeq cmd) ssDone 0)

/-- A pause takes effect, R255. -/
def seqPauseNow (w : World) (h q : Nat) : World :=
  let v := w.seqWord h q
  let w1 := w.modSeqRt h q (fun r => { r with pausedFrom := sqState v, pausing := false, delayed := false })
  (w1.endGeneration h q 0 (sqLayers v) none).seqTo h q ssPaused 0x0106

/-- SEQ_PAUSE, R255: at once, or at the commit of the step in flight. -/
def seqPause (w : World) (c : Ctx) (cmd : Nat) : Nat × Nat × World :=
  let h := c.husk
  let q := dSeq cmd
  (0, 0, if w.inPlan h q then w.modSeqRt h q (fun r => { r with pausing := true }) else w.seqPauseNow h q)

/-- SEQ_RESUME, R255: the next plan returns the sequence to the state it was paused from. -/
def seqResume (w : World) (c : Ctx) (cmd : Nat) : Nat × Nat × World :=
  (0, 0, w.modSeqRt c.husk (dSeq cmd) (fun r => { r with pausing := true }))

/-- SEQ_RELEASE, R237. -/
def seqRelease (w : World) (c : Ctx) (cmd : Nat) : Nat × Nat × World :=
  let w1 := w.seqTo c.husk (dSeq cmd) 0 0
  (0, 0, w1.upSeqs (fun s => { s with rts := s.rts.del (c.husk * 65536 + dSeq cmd) }))

/-- TENANT_SET, R252. -/
def tenantSet (w : World) (c : Ctx) (cmd : Nat) : Nat × Nat × World :=
  (0, 0, w.modTenant (sqcTenant cmd) (fun t => { t with
    state := 1, husk := c.husk, ident := fld cmd 480 32, cap := fld cmd 448 32, refill := sqcArg cmd,
    issued := t.issued + sqcArg cmd, available := t.available + sqcArg cmd }))

/-! ### Planning, R240 to R246 -/

/-- Order of the candidates of a plan at tick t, R241. -/
def candKey (w : World) (h t q : Nat) : Nat × Int × Nat :=
  let v := w.seqWord h q
  (sqPrio v, if sqPrio v = 2 ∧ w.rd (oHuskPlj6Mode h) = 1 then (sqArrival v : Int) else sqSlack v t, q)

/-- Lexicographic order of the keys. -/
def keyLt (a b : Nat × Int × Nat) : Bool :=
  decide (a.1 < b.1) || (a.1 == b.1 && (decide (a.2.1 < b.2.1) || (a.2.1 == b.2.1 && decide (a.2.2 < b.2.2))))

/-- Insert by key. -/
def insertKey (x : Nat × Int × Nat) : List (Nat × Int × Nat) → List (Nat × Int × Nat)
  | [] => [x]
  | y :: t => if keyLt x y then x :: y :: t else y :: insertKey x t

/-- The sequences of the keys, in ascending order. -/
def byKey (l : List (Nat × Int × Nat)) : List Nat := (l.foldl (fun r x => insertKey x r) []).map (fun x => x.2.2)

/-- Mark a sequence delayed, R242. -/
def seqDelay (w : World) (h q : Nat) : World :=
  let v := w.seqWord h q
  if sqState v = ssQueued then w.putSeq h q (sqSet v ssQueued 0x0103)
  else if sqRuns (sqState v) then (w.putSeq h q (sqSet v (sqState v) 0x0103)).modSeqRt h q (fun r => { r with delayed := true })
  else w

/-- First position and number of positions of a sequence's next step, its D_PLAN and KIND (R245). -/
def stepShape (w : World) (h q : Nat) : Nat × Nat × Nat × Nat :=
  let v := w.seqWord h q
  let st := sqState v
  let prefixed := (w.seqRt h q).prefixed
  let n := if st = ssQueued ∧ prefixed then sqPrompt v - 1 else sqPosition v
  if st = ssDecode ∨ (st = ssQueued ∧ prefixed) then
    let a := (w.tenant (sqTenant v)).available
    let d := Nat.min (Nat.min (sqDraft v) (w.rd (oHuskDraftCap h))) (Nat.min (a - 1) (sqMax v - sqTokens v - 1))
    (n, d + 1, d, 0)
  else
    let k := Nat.min (w.rd (oHuskPrefillChunk h)) (sqPrompt v - n)
    (n, k, 0, if n + k = sqPrompt v then 2 else 1)

/-- The entries without a pod that the positions of a step need. -/
def stepNeeds (w : World) (h q : Nat) : List Cover :=
  let (n, k, _, _) := w.stepShape h q
  (w.seqCovers h (w.seqWord h q) n k).filter (fun x => (w.listEnt h x.va).kind == 0)

/-- Give pods to the entries of a sequence's next step, as POD_ALLOC would. -/
def stepAlloc (w : World) (h q m : Nat) : World :=
  let cs := w.stepNeeds h q
  let g := w.seqGeo h (w.seqWord h q)
  (cs.zip (w.freePods cs.length)).foldl (fun w x => w.allocOne h m g x.1 x.2) w

/-- May n pods be taken at once, within the husk's limit (R193, R196)? -/
def podsFor (w : World) (h n : Nat) : Bool :=
  n == 0 || (decide (w.rd (oHuskPodsHeld h) + n ≤ w.rd (oHuskPodLimit h)) && w.podsNow h n)

/-- Pods of the husk on their way out, which later plans will find (R244). -/
def podsLeaving (w : World) (h : Nat) : Nat :=
  (w.dev.pods.swaps.vals.filter (fun op => op.out && op.husk == h && (w.pod op.pod).refs == 1)).length

/-- The pods that a victim's swap frees. -/
def victimPods (w : World) (h q : Nat) : Nat :=
  ((w.seqAll h (w.seqWord h q)).filter (fun x =>
    let e := w.listEnt h x.va
    e.kind == 1 && (w.pod e.pod).refs == 1)).length

/-- Does a sequence hold pods (R244)? -/
def holdsPods (w : World) (h q : Nat) : Bool := (w.seqAll h (w.seqWord h q)).any (fun x => (w.listEnt h x.va).kind == 1)

/-- The possible victims of a candidate in the order of R244. -/
def victims (w : World) (h cand t : Nat) : List Nat :=
  let cv := w.seqWord h cand
  let plj := w.rd (oHuskPlj6Mode h) == 1
  let ok (q : Nat) : Bool :=
    let v := w.seqWord h q
    q != cand && sqRuns (sqState v) && w.holdsPods h q
      && (if sqPrio v = 2 then !plj else sqPrio v == 1 && (sqPrio cv == 0 || decide (sqSlack cv t < sqSlack v t)))
  if sqPrio cv = 2 then []
  else byKey (((w.seqsOf h).filter ok).map (fun q => (2 - sqPrio (w.seqWord h q), -(sqSlack (w.seqWord h q) t), q)))

/-- A victim is pre-empted, R244: its pods are swapped out to SWAP_ADDR. -/
def seqPreempt (w : World) (h s q : Nat) : World :=
  let v := w.seqWord h q
  let w1 := w.endGeneration h q 0 (sqLayers v) none
  let u := w1.seqWord h q
  let w2 := w1.putSeq h q (setFld (sqSet u ssPreempted 0x0104) 128 8 (Nat.min 255 (sqPreempts u + 1)))
  let cs := w2.seqAll h u
  let per := ((List.range cs.length).filter (fun i => (cs[i]?).any (fun x => x.layer == 0 && (w2.listEnt h x.va).kind != 0))).length
  let (id, w3) := w2.swapGroup h s (some q)
  let l := cs.filter (fun x => (w3.listEnt h x.va).kind == 1)
  (w3.each l (fun w x => w.swapOutOne h s id x.va (sqSwap u + (x.layer * per + x.ix) * 0x10000))).modSeqRt h q
    (fun r => { r with swap := 1, delayed := false })

/-- Pre-empt victims until the deficit of n pods is on its way out. -/
def preemptFor (w : World) (h s cand t n : Nat) : World :=
  let avail := w.ownReserve h + (w.rd oPodsFree - w.rd oPodShortfall) + w.podsLeaving h
  ((w.victims h cand t).foldl (fun (st : Nat × World) q =>
    if st.1 = 0 then st else (st.1 - st.2.victimPods h q, st.2.seqPreempt h s q)) (n - avail, w)).2

end World

/-- A plan as it grows: its entries (last first), the sampler rows so far. -/
structure PlanAcc where
  world : World
  entries : List PlanEnt
  rows : Nat
  deriving DecidableEq, Repr

namespace World

/-- The sequences admitted: active and not QUEUED (R241); and the GUARANTEED ones among them. -/
def admitted (w : World) (h : Nat) (prio : Option Nat) : Nat :=
  ((w.seqsOf h).filter (fun q =>
    let v := w.seqWord h q
    sqLive (sqState v) && sqState v != ssQueued && (match prio with
      | none => true
      | some p => sqPrio v == p))).length

/-- A waiting request for a GUARANTEED sequence's pods, R241: one at a time. -/
def seqRequest (w : World) (h s q prio n : Nat) : World :=
  if w.dev.pods.queue.any (fun a => a.husk == h && a.seq == some q) then w
  else
    let (t, w1) := w.podTie h s prio n
    w1.podQueued ⟨h, s, prio, some q, t.2, w.now⟩

/-- Admit if queued, hold the tokens, and enter a sequence into the plan (R241, R245). -/
def planIn (a : PlanAcc) (h q : Nat) : PlanAcc :=
  let w := a.world
  let (n, k, d, kind) := w.stepShape h q
  let v := w.seqWord h q
  let r := w.seqRt h q
  let st := if sqState v = ssQueued then (if r.prefixed then ssDecode else ssPrefill) else sqState v
  let w1 := w.putSeq h q (setFld (sqSet v st 0) 136 24 n)
  let w2 := (w1.tenantHold (sqTenant v) (d + 1)).setSeqRt h q { r with held := r.held + (d + 1), delayed := false }
  let e : PlanEnt := ⟨q, n, sqGen v, a.rows, k, d, kind, true⟩
  ⟨w2, e :: a.entries, a.rows + entryRows e⟩

/-- A pre-empted sequence: its swapped pods are brought back, or it runs again once they are (R241). Answers whether it
may be planned now. -/
def planSwapIn (w : World) (h s q t : Nat) : Bool × World :=
  let v := w.seqWord h q
  let r := w.seqRt h q
  let cs := (w.seqAll h v).filter (fun x => (w.listEnt h x.va).kind == 2)
  if r.swap = 1 ∨ r.swap = 3 then (false, w)
  else if cs.isEmpty then
    (true, (w.seqTo h q ssDecode 0).setSeqRt h q { r with swap := 0 })
  else if w.podsFor h cs.length then
    let (id, w1) := w.swapGroup h s (some q)
    let g := w1.seqGeo h v
    let w2 := (cs.zip (w1.freePods cs.length)).foldl (fun w x => w.swapInOne h s id x.1.layer x.1.va x.1.ix x.2 g) w1
    (false, w2.setSeqRt h q { r with swap := 3 })
  else (false, w.preemptFor h s q t cs.length)

/-- One candidate of a plan, R241. -/
def planOne (h s t count : Nat) (a : PlanAcc) (q : Nat) : PlanAcc :=
  let w := a.world
  let delay (w : World) : PlanAcc := { a with world := w.seqDelay h q }
  let v := w.seqWord h q
  if count ≤ a.entries.length then delay w
  -- a candidate pre-empted for an earlier one of this plan is no candidate any more
  else if sqState v = ssPreempted ∧ (w.seqRt h q).swap = 1 then a
  else if (w.tenant (sqTenant v)).available < 1 then delay w
  else if sqState v = ssQueued ∧ (w.rd (oHuskSeqSlots h) ≤ w.admitted h none
      ∨ (sqPrio v = 0 ∧ w.rd (oHuskGuaranteedMax h) ≤ w.admitted h (some 0))) then delay w
  else
    let (go, w1) := if sqState v = ssPreempted then w.planSwapIn h s q t else (true, w)
    if !go then { a with world := w1 }
    else
      let need := (w1.stepNeeds h q).length
      if w1.podsFor h need then planIn { a with world := (w1.noteGrant h s (sqPrio v) need).stepAlloc h q (seqMaster s) } h q
      else
        let w2 := if sqPrio v = 0 then w1.seqRequest h s q 0 need else w1
        delay (w2.preemptFor h s q t need)

/-- The 64 bytes of a plan entry, R245. -/
def planEntBytes (e : PlanEnt) : List Byte :=
  leBytes 64 (e.kind * 2 ^ 150 + e.dplan * 2 ^ 156 + e.qlen * 2 ^ 168 + e.row0 * 2 ^ 192 + e.gen * 2 ^ 224 + e.seq * 2 ^ 256
    + e.pos * 2 ^ 272)

/-- The 32 bytes of a sampler parameter entry, R246. -/
def planParamBytes (v pos : Nat) : List Byte :=
  leBytes 32 (sqTopK v * 2 ^ 16 + sqTopP v * 2 ^ 64 + sqTemp v * 2 ^ 96 + sqStream v * 2 ^ 128 + pos * 2 ^ 192)

/-- Is a plan held: a weight replacement drains (R257), or a turn holds the husk (R311)? -/
def planHeld (w : World) (h : Nat) : Bool := fld (w.rd (oHuskReplaceState h)) 60 4 == 1 || w.dev.seqs.turnHeld.elem h

/-- A plan whose buffer is written again is replaced: the sequences of the earlier one leave it with their tokens (log
entry 69). -/
def planDropped (w : World) (h buffer : Nat) : World :=
  match w.planAt h buffer with
  | none => w
  | some p => w.each (p.entries.filter (fun e => e.live)) (fun w e => w.seqSettle h e.seq (e.dplan + 1) 0)

/-- SEQ_PLAN, R241 to R246, after the tenants' boundaries of the same tick (R252). -/
def seqPlan (w0 : World) (c : Ctx) (cmd : Nat) : Nat × Nat × World :=
  let w := w0.tenantCatchUp
  let h := c.husk
  let t := w.now
  let resumed := w.each (w.seqsOf h) (fun w q =>
    if w.seqState h q = ssPaused ∧ (w.seqRt h q).pausing then
      (w.seqTo h q (w.seqRt h q).pausedFrom 0).modSeqRt h q (fun r => { r with pausing := false })
    else w)
  let cands := byKey (((resumed.seqsOf h).filter (fun q =>
    let st := resumed.seqState h q
    decide (1 ≤ st) && decide (st ≤ 4))).map (resumed.candKey h t))
  let a0 := cands.foldl (planOne h c.slice t (sqcCount cmd)) ⟨resumed, [], 0⟩
  let a := { a0 with world := a0.world.planDropped h (sqcA cmd) }
  let es := a.entries.reverse
  let put (w : World) (va : Nat) (d : List Byte) : World := w.putVirt h c.master 2 va d
  let hdr := es.length + a.rows * 2 ^ 32 + fld (a.world.rd (oHuskReplaceState h)) 0 32 * 2 ^ 64
  let w1 := put a.world (sqcA cmd) (leBytes 64 hdr)
  let w2 := w1.each ((List.range es.length).zip es) (fun w p => put w (sqcA cmd + 64 * (p.1 + 1)) (planEntBytes p.2))
  let w3 := w2.each es (fun w e =>
    let v := w.seqWord h e.seq
    w.each (List.range (entryRows e)) (fun w i =>
      put w (sqcB cmd + 32 * (e.row0 + i)) (planParamBytes v (if e.kind = 0 then e.pos + i + 1 else sqPrompt v))))
  (0, 0, (w3.upSeqs (fun s => { s with plans := s.plans.filter (fun p => !(p.husk == h && p.buffer == sqcA cmd))
                                                  ++ [⟨h, c.slice, sqcA cmd, es⟩] })).wr
    (oHuskSeqStepsInFlight h) ((w3.dev.seqs.plans.filter (fun p => p.husk == h && p.buffer != sqcA cmd)).length + 1))

/-- SEQ_PLAN taken, unless it is held. -/
def seqPlanTake (w0 : World) (w : World) (c : Ctx) (cmd : Nat) : World :=
  if w.planHeld c.husk then w0 else w.seqTake seqPlan c cmd

/-! ### Commit, R247 to R250 -/

/-- A sampler record: token, ROW_STATUS, the record as a number; a record that cannot be read cleanly counts as one
lost to poison. -/
def commitRecord (w : World) (c : Ctx) (va : Nat) : (Nat × Nat × Nat) × World :=
  let ((r, ok), w1) := w.readVirt c.husk c.master 1 va 16
  if !ok || r.anyBad then ((0xFFFFFF, 2, 0), if ok then w1.consumed c va r else w1)
  else ((fld r.nat 0 24, fld r.nat 24 8, r.nat), w1)

/-- Write the token records, R249. -/
def commitTokens (w : World) (c : Ctx) (q a first cnt : Nat) (recs : List (Nat × Nat × Nat)) (done : Bool) : World :=
  let v := w.seqWord c.husk q
  w.each ((List.range cnt).zip recs) (fun w p =>
    let flags := (if p.1 < a then 1 else 0) + (if done ∧ p.1 + 1 = cnt then 2 else 0)
    let word := p.2.1 + sqGen v * 2 ^ 32 + w.now % 2 ^ 64 * 2 ^ 64 + flags * 2 ^ 128 + (first + p.1) * 2 ^ 136
      + fld p.2.2.2 32 96 * 2 ^ 160
    w.putVirt c.husk c.master 2 (sqOut v + 32 * (sqTokens v + p.1)) (leBytes 32 word))

/-- The times of a commit of n tokens in an entry, R250. -/
def commitTimes (v now n : Nat) : Nat :=
  if sqTokens v = 0 then setFld (setFld v 320 64 now) 256 64 now
  else
    let sample := (now - sqLast v) / n
    let v1 := setFld v 192 32 (fit 32 (Nat.max (sqWorst v) sample))
    let v2 := if sqTbt v < sample then setFld v1 160 32 (fit 32 (sqMisses v + 1)) else v1
    setFld v2 256 64 now

/-- A step that commits nothing, R248: its n held tokens return. -/
def commitNone (w : World) (h q n status : Nat) : World :=
  let v := w.seqWord h q
  let r := w.seqRt h q
  let w1 := (w.endGeneration h q 0 (sqLayers v) none).seqSettle h q n 0
  let w2 := w1.modSeqRt h q (fun x => { x with lost := if status = 2 then r.lost + 1 else 0 })
  if status ≠ 2 then w2.seqEnd h q ssFailed 0x0107
  else if 3 ≤ r.lost + 1 then w2.seqEnd h q ssFailed 0x0010
  else w2

/-- The tokens of a DECODE or PREFILL_LAST entry, R247 and R250. -/
def commitSome (w : World) (c : Ctx) (e : PlanEnt) (d : Nat) (drafts : List Nat) (recs : List (Nat × Nat × Nat)) : World :=
  let h := c.husk
  let q := e.seq
  let v := w.seqWord h q
  let a := (((drafts.take d).zip recs).takeWhile (fun p => p.1 == p.2.1 && p.2.2.1 == 0)).length
  let b := (recs.takeWhile (fun p => p.2.1 == 0)).length
  let c0 := Nat.min (Nat.min (a + 1) b) (sqMax v - sqTokens v)
  let cnt := match (recs.take c0).findIdx? (fun p => p.1 == sqEos v && sqEos v != 0xFFFFFF) with
    | some j => j + 1
    | none => c0
  if cnt = 0 then w.commitNone h q (e.dplan + 1) ((recs.map (fun p => p.2.1)).headD 2)
  else
    let done := decide (sqMax v ≤ sqTokens v + cnt) || (sqEos v != 0xFFFFFF && (recs.map (fun p => p.1)).getD (cnt - 1) 0 == sqEos v)
    let pos := if e.kind = 0 then e.pos + cnt else sqPrompt v
    let first := if e.kind = 0 then e.pos + 1 else sqPrompt v
    let w1 := (w.commitTokens c q a first cnt recs done).endGeneration h q 0 (sqLayers v) (some pos)
    let u := commitTimes (w1.seqWord h q) w.now cnt
    let u1 := setFld (setFld u 136 24 pos) 64 32 (sqTokens u + cnt)
    let w2 := (w1.putSeq h q (sqSet u1 ssDecode 0)).seqSettle h q (e.dplan + 1) cnt
    let w3 := w2.modSeqRt h q (fun r => { r with lost := 0 })
    if done then w3.seqEnd h q ssDone 0 else w3

/-- One entry of a plan at its commit, R247: an entry whose sequence has ended is skipped (R254); one whose sequence does
not run now, or whose generation has changed, commits nothing and returns its tokens (R204, R252). -/
def commitOne (w : World) (c : Ctx) (cmd : Nat) (p : Nat × PlanEnt) : World :=
  let h := c.husk
  let e := p.2
  let q := e.seq
  let v := w.seqWord h q
  let back (w : World) : World := w.seqSettle h q (e.dplan + 1) 0
  if !e.live then w
  else if !sqRuns (w.seqState h q) then back w
  else
    let w2 :=
      if sqGen v ≠ e.gen then back w
      else if e.kind = 1 then (back w).putSeq h q (setFld v 136 24 (e.pos + e.qlen))
      else
        let ((x, ok), w2) := w.readVirt h c.master 1 (sqcA cmd + 64 * (p.1 + 1)) 64
        let good := ok && !x.anyBad
        let w3 := if ok then w2.consumed c (sqcA cmd + 64 * (p.1 + 1)) x else w2
        let d := if good then Nat.min e.dplan (fld x.nat 152 4) else 0
        let drafts := (List.range 8).map (fun i => fld x.nat (320 + 24 * i) 24)
        let (recs, w4) := (List.range (d + 1)).foldl (fun (st : List (Nat × Nat × Nat) × World) i =>
          let (y, w1) := st.2.commitRecord c (sqcB cmd + 16 * (e.row0 + i))
          (st.1 ++ [y], w1)) ([], w3)
        w4.commitSome c e d drafts recs
    if sqRuns (w2.seqState h q) && (w2.seqRt h q).pausing then w2.seqPauseNow h q else w2

/-! ### Allocations granted, R197 -/

/-- Pods a waiting request needs. -/
def requestNeed (w : World) (a : AllocReq) : Nat :=
  match a.seq with
  | none => w.podWaitNeed a
  | some q => (w.stepNeeds a.husk q).length

/-- Grant one waiting request: the head when it is available, else the first later one that lies within its husk's own
reserve (R197); a husk never comes to hold more than its limit (R195). -/
def allocGrant (w : World) : World :=
  let ok (a : AllocReq) : Bool := w.podsAvailable a.husk (w.requestNeed a)
    && decide (w.rd (oHuskPodsHeld a.husk) + w.requestNeed a ≤ w.rd (oHuskPodLimit a.husk))
  let pick := match w.dev.pods.queue with
    | [] => none
    | a :: t => if ok a then some a else t.find? (fun b => ok b && decide (w.requestNeed b ≤ w.ownReserve b.husk))
  match pick with
  | none => w
  | some a =>
    let w1 := w.upPods (fun s => { s with queue := s.queue.erase a })
    match a.seq with
    | none => w1.podGrant a
    | some q => w1.stepAlloc a.husk q (seqMaster a.slice)

/-! ### Refusal, cancellation, replacement -/

/-- The refusal of a queued sequence at ARRIVAL + HOLD_LIMIT, R243. -/
def holdExpiry (w : World) (h q : Nat) : World :=
  let v := w.seqWord h q
  if w.seqState h q = ssQueued ∧ sqArrival v + sqHold v ≤ w.now then
    if (w.tenant (sqTenant v)).available < 1 then
      (w.seqEnd h q ssRefused 0x0101).modTenant (sqTenant v) (fun t => { t with refusals := t.refusals + 1 })
    else w.seqEnd h q ssRefused 0x0102
  else w

/-- The sequences a value written to HuskSeqCancel names that can be cancelled, R253. -/
def cancelNames (w : World) (h v : Nat) : List Nat :=
  (w.seqsOf h).filter (fun q => sqLive (w.seqState h q)
    && (if bitAt v 31 then sqGroup (w.seqWord h q) == fld v 0 16 else q == fld v 0 16))

/-- A write of HuskSeqCancel, R253. -/
def cancelWrite (w : World) (h v : Nat) : Nat × World :=
  if !rsvd v 16 15 then (0x000D, w.wr (oHuskSeqLastReason h) 0x000D)
  else if (w.cancelNames h v).isEmpty then (0x0108, w.wr (oHuskSeqLastReason h) 0x0108)
  else (0, w.upSeqs (fun s => { s with cancels := s.cancels.put h (s.cancels.getD h [] ++ (w.cancelNames h v).map (fun q => (q, w.now))) }))

/-- The cancellations of husk h take effect at the tick after their write, R253 and R254; a sequence that has ended since
is left alone. -/
def cancelEffect (w : World) (h : Nat) : World :=
  let l := w.dev.seqs.cancels.getD h []
  let due := l.filter (fun x => decide (x.2 < w.now))
  let rest := l.filter (fun x => !decide (x.2 < w.now))
  let w1 := w.tenantCatchUp.upSeqs (fun s => { s with cancels := if rest.isEmpty then s.cancels.del h else s.cancels.put h rest })
  w1.each due (fun w x => if sqLive (w.seqState h x.1) then w.seqEnd h x.1 ssCancelled 0x0105 else w)

/-- SEQ_COMMIT, R247, after the boundaries and the cancellations of the same tick (R252, R253). -/
def seqCommit (w0 : World) (c : Ctx) (cmd : Nat) : Nat × Nat × World :=
  let w := w0.cancelEffect c.husk
  match w.planAt c.husk (sqcA cmd) with
  | none => (1, 0x0108, w)
  | some p =>
    let w1 := w.each ((List.range p.entries.length).zip p.entries) (fun w e => w.commitOne c cmd e)
    let w2 := w1.upSeqs (fun s => { s with plans := s.plans.filter (fun x => !(x.husk == c.husk && x.buffer == sqcA cmd)) })
    (0, 0, w2.wr (oHuskSeqStepsInFlight c.husk) (w2.dev.seqs.plans.filter (fun x => x.husk == c.husk)).length)

/-- The copies of the ready word: the same scratch offset in every slice that the husk owns (R256). -/
def writeReady (w : World) (h v : Nat) : World :=
  match w.peek h (w.rd (oHuskReplaceFlagAddr h)) .rd with
  | none => w
  | some pa => match regionOf pa with
    | .scratch _ => w.each (w.slicesOf h) (fun w s => w.store (s * 0x4000000 + pa % 0x4000000) (leBytes 8 v))
    | _ => w

/-- HuskReplaceState from its fields. -/
def replaceWord (state done version : Nat) : Nat := version + done * 2 ^ 32 + state * 2 ^ 60

/-- Is a replacement of the husk to start at the next tick? -/
def replaceDue (w : World) (h : Nat) : Bool := w.dev.due.any (fun a => match a with
  | .replaceStart k _ _ => k == h
  | _ => false)

/-- A write of HuskReplaceStart, R256: the replacement starts in the tick after it (R257). -/
def replaceStart (w : World) (h v : Nat) : Nat × World :=
  let cur := w.rd (oHuskReplaceState h)
  if !rsvd v 48 16 then (0x000D, w)
  else if fld cur 60 4 ≠ 0 ∨ fld v 0 32 ≤ fld cur 0 32 ∨ w.replaceDue h then (0x010A, w)
  else (0, { w with dev := { w.dev with due := w.dev.due ++ [.replaceStart h (fld v 0 32) (fld v 32 16)] } })

/-- The hold begins, R257 step 1. -/
def replaceHold (w : World) (h version layers : Nat) : World :=
  (w.wr (oHuskReplaceState h) (replaceWord 1 0 version)).upSeqs (fun s => { s with replaceLayers := s.replaceLayers.put h layers })

/-- The drain has ended, R257 step 2; a model of no layers ends at once. -/
def replaceDrained (w : World) (h : Nat) : World :=
  let cur := w.rd (oHuskReplaceState h)
  let ver := fld cur 0 32
  if fld cur 60 4 = 1 ∧ w.rd (oHuskSeqStepsInFlight h) = 0 then
    (w.wr (oHuskReplaceState h) (replaceWord (if w.dev.seqs.replaceLayers.getD h 0 = 0 then 0 else 2) 0 ver)).writeReady h (ver * 65536)
  else w

/-- A write of HuskReplaceLayerDone, R256 and R257 steps 3 and 4. -/
def replaceLayer (w : World) (h v : Nat) : Nat × World :=
  let cur := w.rd (oHuskReplaceState h)
  let ver := fld cur 0 32
  let n := w.dev.seqs.replaceLayers.getD h 0
  if fld cur 60 4 ≠ 2 then (0x0108, w)
  else if v ≤ fld cur 32 16 ∨ n < v then (0x000D, w)
  else (0, (w.wr (oHuskReplaceState h) (replaceWord (if v = n then 0 else 2) v ver)).writeReady h (ver * 65536 + v))

/-- A write of HuskReplaceFlagAddr, R256. -/
def replaceFlagWrite (w : World) (h v : Nat) : Nat × World :=
  let ok := v % 8 == 0 && (match w.peek h v .rd with
    | some pa => match regionOf pa with
      | .scratch s => (w.slicesOf h).elem s
      | _ => false
    | none => false)
  if ok then (0, w.wr (oHuskReplaceFlagAddr h) v) else (0x0004, w)

/-- R343: the husk's sequences are cancelled, its plans forgotten. -/
def seqHuskReset (w : World) (h : Nat) : World :=
  let w1 := w.each (w.seqsOf h) (fun w q => if sqLive (w.seqState h q) then w.seqEnd h q ssCancelled 0x0105 else w)
  (w1.upSeqs (fun s => { s with
    rts := s.rts.delIf (fun k _ => k / 65536 == h), plans := s.plans.filter (fun p => p.husk != h), cancels := s.cancels.del h,
    turnHeld := setErase h s.turnHeld })).wr (oHuskSeqStepsInFlight h) 0

/-- A tick of delay, R242. -/
def delayTick (w : World) (h : Nat) : World :=
  let inFlight := w.dev.seqs.plans.any (fun p => p.husk == h)
  w.each (w.seqsOf h) (fun w q =>
    let v := w.seqWord h q
    if sqState v = ssQueued ∨ (sqRuns (sqState v) ∧ (w.seqRt h q).delayed ∧ inFlight) then
      w.setSeqWord h q (setFld v 224 32 (Nat.min 0xFFFFFFFF (sqDelay v + 1)))
    else w)

end World

/-- SEQ_ADMIT, R236 to R239. -/
def execSeqAdmit (sl : Fin 16) (s : State) : Host.Outcome State Fault Refusal :=
  s.done (fun w => w.blockTake sl 14 0x01 (World.seqTake World.seqAdmit))
/-- SEQ_PLAN, R240 to R246. -/
def execSeqPlan (sl : Fin 16) (s : State) : Host.Outcome State Fault Refusal :=
  s.done (fun w => w.blockTake sl 14 0x02 (World.seqPlanTake w))
/-- SEQ_COMMIT, R247 to R250. -/
def execSeqCommit (sl : Fin 16) (s : State) : Host.Outcome State Fault Refusal :=
  s.done (fun w => w.blockTake sl 14 0x03 (World.seqTake World.seqCommit))
/-- SEQ_FINISH, R237. -/
def execSeqFinish (sl : Fin 16) (s : State) : Host.Outcome State Fault Refusal :=
  s.done (fun w => w.blockTake sl 14 0x04 (World.seqTake World.seqFinish))
/-- SEQ_PAUSE, R255. -/
def execSeqPause (sl : Fin 16) (s : State) : Host.Outcome State Fault Refusal :=
  s.done (fun w => w.blockTake sl 14 0x05 (World.seqTake World.seqPause))
/-- SEQ_RESUME, R255. -/
def execSeqResume (sl : Fin 16) (s : State) : Host.Outcome State Fault Refusal :=
  s.done (fun w => w.blockTake sl 14 0x06 (World.seqTake World.seqResume))
/-- SEQ_RELEASE, R237. -/
def execSeqRelease (sl : Fin 16) (s : State) : Host.Outcome State Fault Refusal :=
  s.done (fun w => w.blockTake sl 14 0x07 (World.seqTake World.seqRelease))
/-- TENANT_SET, R252. -/
def execTenantSet (sl : Fin 16) (s : State) : Host.Outcome State Fault Refusal :=
  s.done (fun w => w.blockTake sl 14 0x08 (World.seqTake World.tenantSet))
/-- SEQ_HOLD_EXPIRY, R243. -/
def execSeqHoldExpiry (h : Fin 16) (seq : BitVec 16) (s : State) : Host.Outcome State Fault Refusal :=
  s.done (fun w => w.holdExpiry h.val seq.toNat)
/-- POD_ALLOC_GRANT, R197. -/
def execPodAllocGrant (s : State) : Host.Outcome State Fault Refusal := s.done (fun w => w.allocGrant)
/-- SEQ_CANCEL, R253: one sequence. -/
def execSeqCancel (p : Path) (h : Fin 16) (v : Word) (s : State) : Host.Outcome State Fault Refusal :=
  s.done (fun w => w.odCommand p (0x3060 + h.val * 256) 0x10 v true (fun w n => w.cancelWrite h.val n))
/-- SEQ_CANCEL_GROUP, R253: every sequence of a group (bit 31 of the value). -/
def execSeqCancelGroup (p : Path) (h : Fin 16) (v : Word) (s : State) : Host.Outcome State Fault Refusal :=
  s.done (fun w => w.odCommand p (0x3060 + h.val * 256) 0x10 v true (fun w n => w.cancelWrite h.val n))
/-- SEQ_CANCEL_EFFECT, R253 and R254. -/
def execSeqCancelEffect (h : Fin 16) (s : State) : Host.Outcome State Fault Refusal := s.done (fun w => w.cancelEffect h.val)
/-- HUSK_REPLACE_START, R256 and R257. -/
def execHuskReplaceStart (p : Path) (h : Fin 16) (v : Word) (s : State) : Host.Outcome State Fault Refusal :=
  s.done (fun w => w.odCommand p (0x3060 + h.val * 256) 0x20 v true (fun w n => w.replaceStart h.val n))
/-- REPLACE_DRAINED, R257 step 2. -/
def execReplaceDrained (h : Fin 16) (s : State) : Host.Outcome State Fault Refusal := s.done (fun w => w.replaceDrained h.val)
/-- HUSK_REPLACE_LAYER_DONE, R257 steps 3 and 4. -/
def execHuskReplaceLayerDone (p : Path) (h : Fin 16) (v : Word) (s : State) : Host.Outcome State Fault Refusal :=
  s.done (fun w => w.odCommand p (0x3060 + h.val * 256) 0x22 v true (fun w n => w.replaceLayer h.val n))

end Sys2Proof.Machine
end

