-- ==== Sys2Proof/Machine/Update.lean ====
section
/-! DEFINITION. The update unit (R282 to R302): checks, the gradient an owner applies, the three programs, the commit of a
parameter and the publication. -/
namespace Sys2Proof.Machine

/-! ### Fields -/

def uFlag (c : Nat) : Nat := fld c 672 48
def uFlagSeq (c : Nat) : Nat := fld c 640 32
def uStep (c : Nat) : Nat := fld c 576 64
def uCtr (c : Nat) : Nat := fld c 512 64
def uStream (c : Nat) : Nat := fld c 448 64
def uGscale (c : Nat) : F32 := BitVec.ofNat 32 (fld c 416 32)
def uPub (c : Nat) : Nat := fld c 928 48
def uStage (c : Nat) : Nat := fld c 880 48
def uRecord (c : Nat) : Nat := fld c 832 48
def uGrad (c : Nat) : Nat := fld c 784 48
def uParam (c : Nat) : Nat := fld c 736 48
def uCount (c : Nat) : Nat := fld c 720 16
def uPublish (c : Nat) : Bool := bitAt c 23
def uNorm (c : Nat) : Bool := bitAt c 22
def uRound (c : Nat) : Nat := fld c 20 2
/-- The RSVD bits of R286. -/
def uReserved (c : Nat) : Bool := rsvd c 976 48 && rsvd c 64 352 && rsvd c 24 24 && rsvd c 8 10

/-- A field of a parameter entry as an FP32 number. -/
def uF32 (v lo : Nat) : F32 := BitVec.ofNat 32 (fld v lo 32)
def upLr (v : Nat) : F32 := uF32 v 992
def upWd (v : Nat) : F32 := uF32 v 960
def upBeta1 (v : Nat) : F32 := uF32 v 928
def upBeta2 (v : Nat) : F32 := uF32 v 896
def upEps (v : Nat) : F32 := uF32 v 864
def upFactorEps (v : Nat) : F32 := uF32 v 832
def upInterval (v : Nat) : Nat := fld v 816 16
def upPub (v : Nat) : Nat := fld v 768 32
def upBankAddr (v bank : Nat) : Nat := if bank = 0 then fld v 672 48 else fld v 720 48
def upGrad (v : Nat) : Nat := fld v 640 32
def upRows (v : Nat) : Nat := fld v 552 24
def upCols (v : Nat) : Nat := fld v 528 24
def upFmt (v : Nat) : Nat := fld v 352 4
def upApplied (v : Nat) : Nat := fld v 192 64
def upPow1 (v : Nat) : F32 := uF32 v 160
def upPow2 (v : Nat) : F32 := uF32 v 128
def upBank (v : Nat) : Nat := fld v 16 1
def upLock (v : Nat) : Nat := fld v 8 8
def upNesterov (v : Nat) : Bool := bitAt v 5
def upMomF32 (v : Nat) : Bool := bitAt v 4
def upProgram (v : Nat) : Nat := fld v 0 4
/-- The fields of R285 that must be 0. -/
def upReserved (v : Nat) : Bool := rsvd v 800 16 && rsvd v 576 64 && rsvd v 512 16 && rsvd v 356 60 && rsvd v 256 96 && rsvd v 17 111
  && rsvd v 6 2

/-- Row 3 of R287; a FMT_PUB that R285 does not list and an empty shape count here. -/
def upParamOk (v : Nat) : Bool :=
  let mx := isTileFmt (upFmt v)
  decide (1 ≤ upProgram v) && decide (upProgram v ≤ 3) && f32Gt (upEps v) f32Zero && f32Gt (upFactorEps v) f32Zero
    && upInterval v != 0 && (upProgram v != 1 || decide (Nat.min (upRows v) (upCols v) ≤ 8192))
    && (decide (upFmt v ≤ 1) || mx) && upRows v != 0 && upCols v != 0
    && (!mx || (upRows v % 64 == 0 && upCols v % 64 == 0))

/-! ### Arithmetic of R291 to R294 -/

/-- A matrix of FP32 numbers, row by row. -/
abbrev Mat := List (List F32)

/-- Number constants. -/
def f32Of (v : Nat) : F32 := BitVec.ofNat 32 v
/-- Round once to BF16. -/
def bf16Round (x : F32) : F32 := (fmtBf16.decode (fmtBf16.encode .rne (valF32 x))).f32
/-- Elementwise. -/
def matMap (f : F32 → F32) (a : Mat) : Mat := a.map (fun r => r.map f)
/-- Elementwise over two matrices. -/
def matZip (f : F32 → F32 → F32) (a b : Mat) : Mat := (a.zip b).map (fun p => (p.1.zip p.2).map (fun q => f q.1 q.2))
/-- The transpose of a matrix with n columns. -/
def matT (n : Nat) (a : Mat) : Mat := (List.range n).map (fun j => a.map (fun r => r.getD j f32Zero))
/-- The product a · bᵀ from running values c, each element a canonical dot product (R55, R60). -/
def matMulT (c : Nat → Nat → F32) (a b : Mat) : Mat :=
  ((List.range a.length).zip a).map (fun p => ((List.range b.length).zip b).map (fun q =>
    canonicalDot (c p.1 q.1) 0 ((p.2.map valF32).zip (q.2.map valF32))))
/-- Running values of +0. -/
def zeroInit (_ _ : Nat) : F32 := f32Zero
/-- The product of square matrices. -/
def matMul (n : Nat) (a b : Mat) : Mat := matMulT zeroInit a (matT n b)
/-- The canonical sum of squares of a matrix, row by row. -/
def matSquares (a : Mat) : F32 := canonicalDot f32Zero 0 (a.flatten.map (fun x => (valF32 x, valF32 x)))
/-- The identity scaled by x, elementwise x ⊗ I. -/
def matEye (n : Nat) (x : F32) : Mat :=
  (List.range n).map (fun i => (List.range n).map (fun j => f32Mul x (if i = j then f32One else f32Zero)))

/-- inv_root4 of an n × n matrix, R294. -/
def invRoot4 (n : Nat) (a : Mat) : Mat :=
  let nrm := f32Sqrt (matSquares a)
  let c4 := f32Div (f32Mul (f32Of 0x40000000) nrm) (f32Of 0x40A00000)
  let c := f32Sqrt (f32Sqrt c4)
  let x0 := matEye n (f32Div f32One c)
  let m0 := matMap (f32Mul (f32Div f32One c4)) a
  ((List.range 10).foldl (fun (st : Mat × Mat) _ =>
    let t := matZip f32Sub (matEye n (f32Of 0x3FA00000)) (matMap (f32Mul (f32Of 0x3E800000)) st.2)
    let t2 := matMul n t t
    (matMul n st.1 t, matMul n (matMul n t2 t2) st.2)) (x0, m0)).1

/-- The orthogonalised update of R292. -/
def orthogonal (v : Nat) (u : Mat) : Mat :=
  let flip := decide (upCols v < upRows v)
  let r := Nat.min (upRows v) (upCols v)
  let n := Nat.max (upRows v) (upCols v)
  let x0 := if flip then matT (upCols v) u else u
  let d := f32Add (f32Sqrt (matSquares x0)) (upEps v)
  let x1 := matMap (fun e => bf16Round (f32Div e d)) x0
  let round (x : Mat) : Mat :=
    let a := matMap bf16Round (matMulT zeroInit x x)
    let aa := matMap bf16Round (matMul r a a)
    let b := matMap bf16Round (matZip (fun p q => f32Add (f32Mul (f32Of 0xC0980000) p) (f32Mul (f32Of 0x40000000) q)) a aa)
    let at2 (i j : Nat) : F32 := f32Mul (f32Of 0x405C0000) ((x.getD i []).getD j f32Zero)
    matMap bf16Round (matMulT at2 b (matT n x))
  let o := (List.range 5).foldl (fun x _ => round x) x1
  if flip then matT r o else o

/-- The state of a parameter, R283: master weights, momentum, second moment, factors and roots. -/
structure UpState where
  w : Mat
  m : Mat
  v : Mat
  l : List Mat
  r : List Mat
  li : List Mat
  ri : List Mat
  deriving DecidableEq, Repr

/-- Block sizes of n rows or columns, R293. -/
def factorBlocks (n : Nat) : List Nat := (List.range ((n + 2047) / 2048)).map (fun i => Nat.min 2048 (n - 2048 * i))
/-- Rows (or columns) of block i. -/
def blockOf {α : Type} (i : Nat) (l : List α) : List α := (l.drop (2048 * i)).take 2048

/-- ADAMW, R291. -/
def adamw (v : Nat) (g : Mat) (s : UpState) : UpState :=
  let b1 := upBeta1 v
  let b2 := upBeta2 v
  let p1 := f32Mul (upPow1 v) b1
  let p2 := f32Mul (upPow2 v) b2
  let m := matZip (fun m g => f32Add (f32Mul b1 m) (f32Mul (f32Sub f32One b1) g)) s.m g
  let vv := matZip (fun v g => f32Add (f32Mul b2 v) (f32Mul (f32Sub f32One b2) (f32Mul g g))) s.v g
  let q := matZip (fun m x => f32Div (f32Div m (f32Sub f32One p1)) (f32Add (f32Sqrt (f32Div x (f32Sub f32One p2))) (upEps v))) m vv
  let w := matZip (fun w q => f32Sub w (f32Mul (upLr v) (f32Add q (f32Mul (upWd v) w)))) s.w q
  { s with w := w, m := m, v := vv }

/-- NS_ORTHO, R292. -/
def nsOrtho (v : Nat) (g : Mat) (s : UpState) : UpState :=
  let b1 := upBeta1 v
  let m := matZip (fun m g => f32Add (f32Mul b1 m) g) s.m g
  let u := if upNesterov v then matZip (fun g m => f32Add g (f32Mul b1 m)) g m else m
  let o := orthogonal v u
  let k := f32Sqrt (f32Max f32One (f32Div (f32OfNat (upRows v)) (f32OfNat (upCols v))))
  { s with m := m, w := matZip (fun w o => f32Sub w (f32Mul (upLr v) (f32Add (f32Mul k o) (f32Mul (upWd v) w)))) s.w o }

/-- KRON, R293. -/
def kron (v step : Nat) (g : Mat) (s : UpState) : UpState :=
  let b1 := upBeta1 v
  let b2 := upBeta2 v
  let rb := factorBlocks (upRows v)
  let cb := factorBlocks (upCols v)
  let gt := matT (upCols v) g
  let m := matZip (fun m g => f32Add (f32Mul b1 m) g) s.m g
  let mix (old new : Mat) : Mat := matZip (fun l x => f32Add (f32Mul b2 l) (f32Mul (f32Sub f32One b2) x)) old new
  let l := (List.range rb.length).map (fun b => mix (s.l.getD b []) (matMulT zeroInit (blockOf b g) (blockOf b g)))
  let r := (List.range cb.length).map (fun c => mix (s.r.getD c []) (matMulT zeroInit (blockOf c gt) (blockOf c gt)))
  let fresh := upPow2 v == f32One || step % upInterval v == 0
  let root (ns : List Nat) (ms : List Mat) : List Mat :=
    (ns.zip ms).map (fun p => invRoot4 p.1 (matZip f32Add p.2 (matEye p.1 (upFactorEps v))))
  let li := if fresh then root rb l else s.li
  let ri := if fresh then root cb r else s.ri
  let d : Mat := ((List.range rb.length).map (fun b =>
    let mb := blockOf b m
    let parts := (List.range cb.length).map (fun c =>
      let mbc := mb.map (blockOf c)
      let k := cb.getD c 0
      matMulT zeroInit (matMulT zeroInit (li.getD b []) (matT k mbc)) (matT k (ri.getD c [])))
    (List.range mb.length).map (fun i => (parts.map (fun p => p.getD i [])).flatten))).flatten
  { s with m := m, l := l, r := r, li := li, ri := ri,
           w := matZip (fun w d => f32Sub w (f32Mul (upLr v) (f32Add d (f32Mul (upWd v) w)))) s.w d }

/-- The program of a parameter. -/
def upRun (v step : Nat) (g : Mat) (s : UpState) : UpState :=
  match upProgram v with
  | 1 => nsOrtho v g s
  | 2 => kron v step g s
  | _ => adamw v g s

/-! ### Layout of a bank, R284 -/

/-- Bytes rounded up to 64. -/
def up64 (n : Nat) : Nat := (n + 63) / 64 * 64
/-- Rows of n numbers from a flat list. -/
def rowsFrom (rows n : Nat) (l : List F32) : Mat := (List.range rows).map (fun i => (l.drop (i * n)).take n)
/-- Numbers in FP32 or BF16 bytes. -/
def numsFrom (f : Fmt) (n : Nat) (d : List Byte) : List F32 := (List.range n).map (fun i => (f.valAt d i).f32)
/-- The bytes of numbers, rounded to nearest even, padded to 64. -/
def numsTo (f : Fmt) (l : List F32) : List Byte :=
  let d := f.encodeRow (l.map valF32) (List.replicate l.length .rne)
  d ++ List.replicate (up64 d.length - d.length) 0

/-- Published bytes of a parameter. -/
def pubBytes (v : Nat) : Nat :=
  let e := upRows v * upCols v
  match Fmt.ofCode (upFmt v) with
  | some f => if isTileFmt (upFmt v) then e / 4096 * tileStride f else f.rowBytes e
  | none => 0

/-- The items of a bank that are state: format and numbers, in order; the published weights follow them (R283, R284). -/
def bankItems (v : Nat) : List (Fmt × Nat) :=
  let e := upRows v * upCols v
  let sq := fun l => ((l : List Nat).map (fun n => n * n)).foldl (· + ·) 0
  let fac := sq (factorBlocks (upRows v)) + sq (factorBlocks (upCols v))
  [(.f32, e), (if upMomF32 v then .f32 else .bf16, e)] ++ (match upProgram v with
    | 3 => [(.f32, e)]
    | 2 => [(.f32, fac), (.f32, fac)]
    | _ => [])

/-- Bytes of an item. -/
def itemBytes (p : Fmt × Nat) : Nat := up64 (p.1.rowBytes p.2)
/-- Bytes of a bank. -/
def bankBytes (v : Nat) : Nat := ((bankItems v).map itemBytes).foldl (· + ·) 0 + up64 (pubBytes v)

/-- Matrices of the given sizes from a flat list. -/
def squares : List Nat → List F32 → List Mat
  | [], _ => []
  | n :: t, l => rowsFrom n n (l.take (n * n)) :: squares t (l.drop (n * n))

/-- The state in a bank's bytes. -/
def bankRead (v : Nat) (d : List Byte) : UpState :=
  let items := ((bankItems v).foldl (fun (st : List (List F32) × List Byte) p =>
    (st.1 ++ [numsFrom p.1 p.2 st.2], st.2.drop (itemBytes p))) ([], d)).1
  let get (i : Nat) : List F32 := items.getD i []
  let mat (l : List F32) : Mat := rowsFrom (upRows v) (upCols v) l
  let rb := factorBlocks (upRows v)
  let cb := factorBlocks (upCols v)
  let facs := squares (rb ++ cb) (if upProgram v = 2 then get 2 else [])
  let roots := squares (rb ++ cb) (if upProgram v = 2 then get 3 else [])
  ⟨mat (get 0), mat (get 1), if upProgram v = 3 then mat (get 2) else [], facs.take rb.length, facs.drop rb.length,
   roots.take rb.length, roots.drop rb.length⟩

/-- The bytes of a bank's state. -/
def bankWrite (v : Nat) (s : UpState) : List Byte :=
  numsTo .f32 s.w.flatten ++ numsTo (if upMomF32 v then .f32 else .bf16) s.m.flatten ++ (match upProgram v with
    | 3 => numsTo .f32 s.v.flatten
    | 2 => numsTo .f32 ((s.l ++ s.r).map List.flatten).flatten ++ numsTo .f32 ((s.li ++ s.ri).map List.flatten).flatten
    | _ => [])

/-- The published bytes of new weights, R296 and R297: `base` elements of the payload come before. -/
def pubData (cmd v key base : Nat) (w : Mat) : List Byte :=
  let f := (Fmt.ofCode (upFmt v)).getD .f32
  let rs (first n : Nat) : List Rounding := (List.range n).map (fun i => roundingOf (uRound cmd) key (uStream cmd) (uCtr cmd + base + first + i))
  if isTileFmt (upFmt v) then
    let tc := upCols v / 64
    ((List.range (upRows v / 64)).map (fun i => ((List.range tc).map (fun j =>
      let vals := (((w.drop (64 * i)).take 64).map (fun r => (r.drop (64 * j)).take 64)).flatten
      let hdr := leBytes 16 (tileHeader (fld v 480 32) (fld v 448 32) (fld v 432 16 + i) (fld v 416 16 + j) (upFmt v))
      let body := hdr ++ f.encodeRow (vals.map valF32) (rs ((i * tc + j) * 4096) 4096)
      let slot := body ++ leBytes 4 (crc32c body)
      slot ++ List.replicate (tileStride f - slot.length) 0)).flatten)).flatten
  else f.encodeRow (w.flatten.map valF32) (rs 0 (upRows v * upCols v))

/-- A bank as it is written, R284: its state, then the published weights. -/
def bankAll (v : Nat) (st : UpState) (pub : List Byte) : List Byte :=
  bankWrite v st ++ pub ++ List.replicate (up64 pub.length - pub.length) 0

/-- The gradient of a parameter from the bytes of its groups, R290. -/
def gradOf (cmd v used : Nat) (d : List Byte) : Mat :=
  let gs := if uNorm cmd then f32Div (uGscale cmd) (f32OfNat used) else uGscale cmd
  let per := (upCols v + 511) / 512
  (List.range (upRows v)).map (fun i =>
    let row := (d.drop (i * per * 544)).take (per * 544)
    (List.range (upCols v)).map (fun j =>
      let zero := ((row[Fmt.g8e.scaleAt j]?).getD 0) == 0xFF#8
      f32Mul (if zero then f32Zero else (Fmt.g8e.valAt row j).f32) gs))

/-- Bytes of a parameter's groups. -/
def gradBytes (v : Nat) : Nat := upRows v * ((upCols v + 511) / 512) * 544

/-- Does a block of the groups that holds an element have scale 0xFF? -/
def gradNonfinite (v : Nat) (d : List Byte) : Bool :=
  let per := (upCols v + 511) / 512
  (List.range (upRows v)).any (fun i =>
    let row := (d.drop (i * per * 544)).take (per * 544)
    (List.range ((upCols v + 15) / 16)).any (fun b => ((row[Fmt.g8e.scaleAt (16 * b)]?).getD 0) == 0xFF#8))

namespace World

/-- Address of parameter entry i of a command. -/
def upVa (cmd i : Nat) : Nat := uParam cmd + 128 * i
/-- A parameter entry. -/
def upEnt (w : World) (h cmd i : Nat) : Nat := w.vnum h (upVa cmd i) 128
/-- Write bits [255:0] of a parameter entry. -/
def upCommitWord (w : World) (c : Ctx) (cmd i v : Nat) : World := w.putVirt c.husk c.master 2 (upVa cmd i) (leBytes 32 (v % 2 ^ 256))
/-- Set LOCK of an entry. -/
def upSetLock (w : World) (c : Ctx) (cmd i lock : Nat) : World := w.upCommitWord c cmd i (setFld (w.upEnt c.husk cmd i) 8 8 lock)

/-- Do the addresses of the command itself lie where R286 puts them? -/
def updatePlaced (w : World) (c : Ctx) (cmd : Nat) : Bool :=
  let h := c.husk
  uFlag cmd % 8 == 0 && w.inScratch h c.slice (uFlag cmd) 8 .rd && w.inHbm h (uParam cmd) (128 * uCount cmd) .wr
    && w.inHbm h (uGrad cmd) 1 .rd && w.inHbm h (uRecord cmd) 64 .rd && w.inHbm h (uStage cmd) 64 .wr
    && (!uPublish cmd || (w.tier3Port h (uPub cmd) .wr).isSome)

/-- The first row of R287 that applies. -/
def updateFail (w : World) (c : Ctx) (cmd : Nat) : Option Nat :=
  let h := c.husk
  let es := (List.range (uCount cmd)).map (w.upEnt h cmd)
  let cmdOk := uReserved cmd && uRound cmd != 3 && uCount cmd != 0
  if !cmdOk then some 0x0003
  else if !w.updatePlaced c cmd then (if w.mapped h (uParam cmd) (128 * uCount cmd) .rd && es.any (fun v => !upReserved v) then some 0x0003 else some 0x0004)
  else firstFail [
    (es.all upReserved, 0x0003),
    (es.all (fun v => upBankAddr v 0 % 64 == 0 && upBankAddr v 1 % 64 == 0 && w.inHbmOrTier3 h (upBankAddr v 0) (bankBytes v) .wr
      && w.inHbmOrTier3 h (upBankAddr v 1) (bankBytes v) .wr), 0x0004),
    (es.all upParamOk, 0x050A),
    (es.all (fun v => upLock v == 0), 0x0509),
    (!uPublish cmd || fld (w.vnum h (uPub cmd) 8) 32 16 == w.self, 0x0205)]

/-- The ranges that the checks of an UPDATE walk: its own, and where these are in place its entries' banks. -/
def updateSpans (w : World) (c : Ctx) (cmd : Nat) : List Span :=
  let es := (List.range (uCount cmd)).map (w.upEnt c.husk cmd)
  if !w.updatePlaced c cmd then
    [(uFlag cmd, 8, .rd), (uParam cmd, 128 * uCount cmd, .wr), (uGrad cmd, 1, .rd), (uRecord cmd, 64, .rd), (uStage cmd, 64, .wr)]
      ++ (if uPublish cmd then [(uPub cmd, 1, .wr)] else [])
  else
    (es.map (fun v => [(upBankAddr v 0, bankBytes v, Need.wr), (upBankAddr v 1, bankBytes v, Need.wr)])).flatten

/-- UPDATE taken, R287: its locks are set, and it waits for the reduction's flag. -/
def updateTake (w : World) (c : Ctx) (cmd : Nat) : World :=
  match w.updateFail c cmd with
  | some r => w.rejected c cmd r (w.updateSpans c cmd)
  | none => (w.each (List.range (uCount cmd)) (fun w i => w.upSetLock c cmd i (c.slice + 1))).waiting c cmd .grad [0, 0, 0, 0, 0, 0]

/-- UPDATE taken, unless a turn holds the husk (R311). -/
def updateTakeHeld (w0 w : World) (c : Ctx) (cmd : Nat) : World :=
  if w.dev.seqs.turnHeld.elem c.husk then w0 else w.updateTake c cmd

/-- The fate of a parameter before its state is read, R289: already applied, skipped with a reason, or (none) neither. -/
def upFate (w : World) (c : Ctx) (cmd i : Nat) : Option (Bool × Nat) × World :=
  let h := c.husk
  let v := w.upEnt h cmd i
  if uStep cmd ≤ upApplied v then (some (true, 0), w)
  else
    let ((rec, okR), w1) := w.readVirt h c.master 1 (uRecord cmd) 64
    if bitAt rec.nat 2 && bitAt cmd 19 && okR && !rec.anyBad then (some (false, 0x0508), w1)
    else
      let ((g, okG), w2) := w1.readVirt h c.master 1 (uGrad cmd + upGrad v * 544) (gradBytes v)
      if !okR || !okG || rec.anyBad || g.anyBad then (some (false, 0x0507), w2)
      else if gradNonfinite v g.data && !bitAt cmd 18 then (some (false, 0x0506), w2)
      else (none, w2)

/-- Settle a parameter that is not applied: APPLIED_STEP of a skipped one, its lock, the counters. -/
def upSettle (w : World) (c : Ctx) (cmd i : Nat) (already : Bool) : World :=
  let v := setFld (w.upEnt c.husk cmd i) 8 8 0
  if already then (w.upCommitWord c cmd i v).inc (oHuskUpdateAlready c.husk) 1
  else (w.upCommitWord c cmd i (setFld v 192 64 (uStep cmd))).inc (oHuskUpdateSkipped c.husk) 1

/-- Bytes of the publication payload, R296. -/
def payloadBytes (w : World) (h cmd : Nat) : Nat :=
  up64 (((List.range (uCount cmd)).map (fun i =>
    let v := w.upEnt h cmd i
    64 + 64 * upPub v + pubBytes v)).foldl Nat.max 64)

/-- After the last parameter, R296: the update record and the publication, or the command's end. -/
def updateEnd (w : World) (c : Ctx) (cmd : Nat) (aux : List Nat) : World :=
  let reason := aux.getD 3 0
  let st := aux.getD 4 0
  let g (t : Taken) : Taken := { t with wait := .done, status := st, reason := if st = 2 then 0x0010 else reason }
  if !uPublish cmd then w.modTaken c.ring (fun t => t.wait == .event) g
  else
    let used := fld (w.vnum c.husk (uRecord cmd) 64) 192 32
    let word := uStep cmd + aux.getD 1 0 * 2 ^ 64 + aux.getD 2 0 * 2 ^ 96 + reason * 2 ^ 128 + used * 2 ^ 176
    let w1 := w.putVirt c.husk c.master 2 (uStage cmd) (leBytes 64 word)
    let w2 := w1.modTaken c.ring (fun t => t.wait == .event) (fun t => { t with aux := aux, status := st, reason := if st = 2 then 0x0010 else reason })
    let pub := 3 + w2.payloadBytes c.husk cmd * 2 ^ 216 + uStage cmd * 2 ^ 256 + uPub cmd * 2 ^ 304
    let s := 16 + c.slice
    (w2.setPf s ⟨none, some (newEntry pub w2.now 0)⟩).publishStart s 0

/-- A Tier 3 read of the sequencer fails, R146: recorded against the slice's prefetch engine, which makes it (R283). -/
def upReadFailed (w : World) (c : Ctx) (p va reason : Nat) : World :=
  (w.contained c.husk (pfMaster c.slice) 0x20 reason va).inc (oTier3Poisoned p) 1

/-- The old state of a parameter is reached for, R283: HBM is read as the program runs; Tier 3 is read first, through the slice's
prefetch engine. Answers why the parameter is skipped, or the phase in which it waits. -/
def upFetch (w : World) (c : Ctx) (cmd i : Nat) : Except Nat Nat × World :=
  let v := w.upEnt c.husk cmd i
  let va := upBankAddr v (upBank v)
  match w.tier3Port c.husk va .rd with
  | some p =>
    if w.portCarries p then
      (.ok 1, w.t3Begin ⟨p, false, va, bankBytes v, pfMaster c.slice, c.husk, 2, c.slice, [], 0⟩)
    else (.error 0x0209, w.upReadFailed c p va 0x0209)
  | none => if w.mapped c.husk va (bankBytes v) .rd then (.ok 0, w) else (.error 0x0004, w)

/-- What the command keeps between rows: parameter, applied, skipped, first reason, STATUS so far, then the phase of the parameter
(0 its program runs, 1 its state comes from Tier 3, 2 its new bank goes to Tier 3, 3 it stands at the boundary before it) and state
that came from Tier 3. -/
def upKeep (w : World) (c : Ctx) (aux : List Nat) (phase : Nat) (bytes : List Nat) : World :=
  w.modTaken c.ring (fun t => t.wait == .event) (fun t => { t with aux := aux.take 5 ++ phase :: bytes })

/-- What is kept after parameter i was not applied. -/
def upPassed (aux : List Nat) (already : Bool) (r : Nat) : List Nat :=
  [aux.headD 0 + 1, aux.getD 1 0, aux.getD 2 0 + (if already then 0 else 1), if aux.getD 3 0 = 0 then r else aux.getD 3 0, aux.getD 4 0]

/-- Carry the command on: parameters that are not applied are settled, up to one whose program runs or whose state is awaited, or
the end. A pre-empted sequencer stands at the parameter's boundary (R282). -/
def updateOn : Nat → World → Ctx → Nat → List Nat → World
  | 0, w, c, cmd, aux => w.updateEnd c cmd aux
  | f + 1, w, c, cmd, aux =>
    let i := aux.headD 0
    if uCount cmd ≤ i then w.updateEnd c cmd aux
    else if w.running c.slice ≠ c.husk then w.upKeep c aux 3 []
    else match w.upFate c cmd i with
      | (some (already, r), w1) => updateOn f (w1.upSettle c cmd i already) c cmd (upPassed aux already r)
      | (none, w1) => match w1.upFetch c cmd i with
        | (.error r, w2) => updateOn f (w2.upSettle c cmd i false) c cmd (upPassed aux false r)
        | (.ok phase, w2) => w2.upKeep c aux phase []

/-- The parameter that the command has reached is skipped, R289. -/
def upSkip (w : World) (c : Ctx) (cmd : Nat) (aux : List Nat) (r : Nat) : World :=
  updateOn (uCount cmd) (w.upSettle c cmd (aux.headD 0) false) c cmd (upPassed aux false r)

/-- The update command of a slice that runs and stands in the given phase. -/
def upWaits (w : World) (s : Fin 16) (phase : Nat) : Option Taken :=
  match w.takenWith (w.blockRing s 13) .event with
  | some t => if cmdOp t.cmd = 1 ∧ t.aux.getD 5 0 = phase ∧ t.aux.headD 0 < uCount t.cmd then some t else none
  | none => none

/-- The slice runs its owner again, R282: a sequencer that stood at a boundary goes on. -/
def updateResume (w : World) (s : Fin 16) : World :=
  match w.upWaits s 3 with
  | none => w
  | some t => updateOn (uCount t.cmd) w (w.ctxOf (w.blockRing s 13) t) t.cmd t.aux

/-- The flag shows FLAG_SEQ, R288: the programs begin. -/
def gradReady (w : World) (s : Fin 16) : World :=
  let r := w.blockRing s 13
  match w.takenWith r .grad with
  | none => w
  | some t =>
    let c : Ctx := w.ctxOf r t
    if fld (w.vnum t.husk (uFlag t.cmd) 8) 0 32 ≠ uFlagSeq t.cmd then w
    else
      let w1 := w.modTaken r (fun t => t.wait == .grad) (fun t => { t with wait := .event })
      updateOn (uCount t.cmd) w1 c t.cmd t.aux

/-- HuskUpdateTimeout expires, R288; a flag present in that tick counts as present (R300). -/
def gradTimeout (w : World) (s : Fin 16) : World :=
  let r := w.blockRing s 13
  match w.takenWith r .grad with
  | none => w
  | some t =>
    let c := w.ctx r
    if fld (w.vnum t.husk (uFlag t.cmd) 8) 0 32 = uFlagSeq t.cmd ∨ w.now < t.since + w.rd (oHuskUpdateTimeout t.husk) then w
    else (w.each (List.range (uCount t.cmd)) (fun w i => w.upSetLock c t.cmd i 0)).finishWait r .grad 1 0x050B

/-- Elements of the payload before parameter i (R296). -/
def elementsBefore (w : World) (h cmd i : Nat) : Nat :=
  let at0 := upPub (w.upEnt h cmd i)
  (((List.range (uCount cmd)).filter (fun j => upPub (w.upEnt h cmd j) < at0)).map (fun j =>
    upRows (w.upEnt h cmd j) * upCols (w.upEnt h cmd j))).foldl (· + ·) 0

/-- The program's results become the parameter's, R295: the new bank, then its published bytes in the staging copy, then the one
write of APPLIED_STEP, BANK and the powers. -/
def upCommit (w : World) (c : Ctx) (cmd : Nat) (aux : List Nat) (data : List Byte) (bad : Bool) : World :=
  let h := c.husk
  let i := aux.headD 0
  let v := w.upEnt h cmd i
  let put (w : World) (va : Nat) (d : List Byte) : World :=
    let bb := List.replicate d.length bad
    (w.writeVirt h c.master 2 va (maskBad va d bb) bb).2
  let pub := (data.drop (bankBytes v - up64 (pubBytes v))).take (pubBytes v)
  let w1 := put (put w (upBankAddr v (1 - upBank v)) data) (uStage cmd + 64 + 64 * upPub v) pub
  let v1 := setFld (setFld (setFld (setFld v 8 8 0) 16 1 (1 - upBank v)) 192 64 (uStep cmd)) 160 32 (f32Mul (upPow1 v) (upBeta1 v)).toNat
  let w2 := (w1.upCommitWord c cmd i (setFld v1 128 32 (f32Mul (upPow2 v) (upBeta2 v)).toNat)).inc (oHuskUpdateApplied h) 1
  updateOn (uCount cmd) w2 c cmd [i + 1, aux.getD 1 0 + 1, aux.getD 2 0, aux.getD 3 0, if bad then 2 else aux.getD 4 0]

/-- The program of the parameter that the command has reached ends, R290 to R295: it is committed, once its new bank has been
acknowledged where that lies in Tier 3 (R146, R289). -/
def paramCommit (w : World) (s : Fin 16) : World :=
  match w.upWaits s 0 with
  | none => w
  | some t =>
    let c : Ctx := w.ctxOf (w.blockRing s 13) t
    let cmd := t.cmd
    let h := t.husk
    let i := t.aux.headD 0
    -- a pre-empted sequencer stands at a parameter boundary, R282
    if w.running s.val ≠ h then w
    else
      let v := w.upEnt h cmd i
      let used := fld (w.vnum h (uRecord cmd) 64) 192 32
      let ((g, _), w1) := w.readVirt h c.master 1 (uGrad cmd + upGrad v * 544) (gradBytes v)
      let src := upBankAddr v (upBank v)
      let came := t.aux.drop 6
      let (b, bad, w2) : List Byte × Bool × World :=
        if came.isEmpty then
          let ((b, _), w2) := w1.readVirt h c.master 1 src (bankBytes v)
          (b.data, b.anyBad, w2.consumed c src b)
        else (came.map (BitVec.ofNat 8), false, w1)
      let st := upRun v (uStep cmd) (gradOf cmd v used g.data) (bankRead v b)
      let data := bankAll v st (pubData cmd v t.key (w2.elementsBefore h cmd i) st.w)
      let dst := upBankAddr v (1 - upBank v)
      match w2.tier3Port h dst .wr with
      | none => w2.upCommit c cmd t.aux data bad
      | some p =>
        if w2.portCarries p then
          (w2.upKeep c (t.aux.set 4 (if bad then 2 else t.aux.getD 4 0)) 2 [if bad then 1 else 0]).t3Begin
            ⟨p, true, dst, data.length, pfMaster s.val, h, 2, s.val, data, 0⟩
        else w2.upSkip c cmd t.aux 0x0209

/-- A Tier 3 access of the sequencer ends, R146 and R289. -/
def updateTier3End (w : World) (a : T3Access) (o : HostOutcome) : World :=
  let s : Fin 16 := Fin.ofNat 16 a.ref
  match w.upWaits s (if a.write then 2 else 1) with
  | none => w
  | some t =>
    let c : Ctx := w.ctxOf (w.blockRing s 13) t
    match o with
    | .clean =>
      if a.write then w.upCommit c t.cmd t.aux a.data (t.aux.getD 6 0 == 1)
      else
        let ((d, ok), w1) := w.readVirt a.husk a.master 0x20 a.addr a.len
        if !ok then w1.upSkip c t.cmd t.aux 0x0004
        else if d.anyBad then w1.upSkip c t.cmd t.aux d.reason
        else w1.upKeep c t.aux 0 (d.data.map BitVec.toNat)
    | .poison => (w.upReadFailed c a.port a.addr 0x0204).upSkip c t.cmd t.aux 0x0204
    | .unreachable => (if a.write then w else w.upReadFailed c a.port a.addr 0x0209).upSkip c t.cmd t.aux 0x0209

/-- R300: a husk reset clears the locks of a running command and cuts its publication off. -/
def updateHuskReset (w : World) (s : Fin 16) (h : Nat) : World :=
  let r : RingRef := .slice s 13 (Fin.ofNat 16 h)
  let w1 := w.each (w.ring r).taken (fun w t =>
    if cmdOp t.cmd = 1 then w.each (List.range (uCount t.cmd)) (fun w i =>
      if upLock (w.upEnt h t.cmd i) = s.val + 1 then w.upSetLock (w.ctx r) t.cmd i 0 else w) else w)
  match (w1.pf (16 + s.val)).single with
  | none => w1
  | some e => if w1.pfHusk s.val ≠ h then w1
    else
      let w2 := match w1.peek h (pDst e.cmd) .wr with
        | some pa => if [13, 7, 8].elem e.stage then w1.upPf (fun p => { p with cutShards := setInsert pa p.cutShards }) else w1
        | none => w1
      let ref := (16 + s.val) * 0x200000
      let w3 := w2.setPf (16 + s.val) ⟨none, none⟩
      { w3 with dev := { w3.dev with t3 := w3.dev.t3.delIf (fun _ a => a.user == 1 && a.ref == ref) } }

end World

/-- UPDATE_NOP, R286. -/
def execUpdateNop (sl : Fin 16) (s : State) : Host.Outcome State Fault Refusal :=
  s.done (fun w => w.blockTake sl 13 0 (World.nopTake uReserved))
/-- UPDATE, R286 and R287. -/
def execUpdate (sl : Fin 16) (s : State) : Host.Outcome State Fault Refusal :=
  s.done (fun w => w.blockTake sl 13 1 (World.updateTakeHeld w))
/-- UPDATE_GRAD_READY, R288. -/
def execUpdateGradReady (sl : Fin 16) (s : State) : Host.Outcome State Fault Refusal := s.done (fun w => w.gradReady sl)
/-- UPDATE_GRAD_TIMEOUT, R288. -/
def execUpdateGradTimeout (sl : Fin 16) (s : State) : Host.Outcome State Fault Refusal := s.done (fun w => w.gradTimeout sl)
/-- PARAM_COMMIT, R295. -/
def execParamCommit (sl : Fin 16) (s : State) : Host.Outcome State Fault Refusal := s.done (fun w => w.paramCommit sl)

end Sys2Proof.Machine
end

