-- ==== Sys2Proof/Machine/Fabric.lean ====
section
/-! DEFINITION. Broenan links as commands see them (R346 to R371): frames, retry, link loss, power states, time messages. -/
namespace Sys2Proof.Machine

/-! ### Frame headers, R349 -/

/-- CRC-7 over 57 bits, highest first, polynomial 0x09. -/
def crc7 (v : Nat) : Nat :=
  (List.range 57).foldl (fun c i =>
    let b := (c / 64 + (if bitAt v (56 - i) then 1 else 0)) % 2
    (c * 2 % 128) ^^^ (if b = 1 then 0x09 else 0)) 0

def fhDest (h : Nat) : Nat := fld h 48 16
def fhVc (h : Nat) : Nat := fld h 45 3
def fhClass (h : Nat) : Nat := fld h 43 2
def fhType (h : Nat) : Nat := fld h 40 3
def fhSeq (h : Nat) : Nat := fld h 28 12
def fhAck (h : Nat) : Nat := fld h 16 12
def fhCredQ (h : Nat) : Nat := fld h 11 5
def fhCred (h : Nat) : Nat := fld h 7 4
/-- Is HCRC right? -/
def fhGood (h : Nat) : Bool := fld h 0 7 == crc7 (h / 128)

/-- LENGTH and OFFSET of a message header, R360. -/
def mhLength (hdr : Nat) : Nat := fld hdr 192 32
def mhOffset (hdr : Nat) : Nat := fld hdr 160 32

/-- Retire the flits that an ACK covers, R350. -/
def retire (ack : Nat) (l : List (Nat × Flit)) : List (Nat × Flit) :=
  if l.any (fun p => p.1 == ack) then (l.dropWhile (fun p => p.1 != ack)).drop 1 else l

/-- Covered ranges of a message, merged, R361: at most what the pieces say. -/
def coverRanges (pieces : List (Nat × List Byte)) : List (Nat × Nat) :=
  let rs := (pieces.map (fun p => (p.1, p.1 + p.2.length))).filter (fun r => decide (r.1 < r.2))
  let sorted := rs.foldl (fun (acc : List (Nat × Nat)) r =>
    (acc.filter (fun x => decide (x.1 ≤ r.1))) ++ [r] ++ (acc.filter (fun x => !decide (x.1 ≤ r.1)))) []
  (sorted.foldl (fun (acc : List (Nat × Nat)) r => match acc with
    | [] => [r]
    | x :: t => if r.1 ≤ x.2 then (x.1, Nat.max x.2 r.2) :: t else r :: x :: t) []).reverse

/-- The whole message's bytes, when [0, n) is covered. -/
def gatherPieces (pieces : List (Nat × List Byte)) (n : Nat) : List Byte :=
  (pieces.foldl (fun (m : List Byte) p => (m.take p.1) ++ (p.2.take (n - p.1)) ++ m.drop (p.1 + p.2.length)) (List.replicate n 0)).take n

/-- Is epoch a newer than b, R366? -/
def epochNewer (a b : Nat) : Bool :=
  let d := (a + 65535 - b % 65535) % 65535
  decide (1 ≤ d) && decide (d ≤ 32767)

namespace World

/-! ### Link states -/

/-- Send RETRY_REQ naming the expected SEQ, R350. -/
def askRetry (w : World) (k : Nat) : World :=
  let l := w.link k
  w.setLink k { l with ctl := .retryReq l.rx :: l.ctl, retrySince := l.retrySince.orElse (fun _ => some w.now) }

/-- A link end goes DOWN, R364: its state, reason and count, then what it does with its messages. -/
def goDown (w : World) (k reason : Nat) : World :=
  let st := w.rd (oLinkState k)
  if st ≠ 3 ∧ st ≠ 6 then w
  else
    let w1 := ((w.wr (oLinkState k) 1).wr (oLinkReason k) reason).inc (oLinkDownEvents k) 1
    ((w1.condition 2 (0x1D0 + k) (masterId 0xC k) 0x30 (some reason) k).linkDropped k).sendLinkStatus

/-- The links of a direction that are ACTIVE or DRAINING go DOWN. -/
def dirDown (w : World) (d reason : Nat) : World := w.each [0, 1, 2, 3] (fun w l => w.goDown (d * 4 + l) reason)

/-- Credits are reclaimed LinkCreditTimeout after DOWN, R364 step 3; the ledger of R399 retires what was available. -/
def creditTimeout (w : World) (k : Nat) : World :=
  let l := w.link k
  match l.downAt with
  | none => w
  | some t =>
    if !l.up || w.rd (oLinkState k) == 3 || decide (w.now < t + w.rd oLinkCreditTimeout) then w
    else
      let tx := l.txAvail
      let out := l.txOut
      let w1 := ((w.inc (oLinkCreditsReclaimed k) out).inc (oLedgerLink k 5) tx).inc (oLedgerLink k 6) out
      (w1.inc (oLedgerLink k 2) (tx + out)).setLink k { l with up := false, out := .empty, g := .empty, shared := 0, downAt := none }

/-! ### Frames -/

/-- A message received whole: it waits for its engine; a reserved kind is discarded and counted (R360, R389). -/
def accepted (w : World) (m : Msg) : World :=
  let k := m.kind.toNat
  if (0x0C ≤ k ∧ k ≤ 0x3F) ∨ k = 0 ∨ 0x44 < k then w.inc (oCollKindDiscarded 0) 1
  else w.upFabric (fun f => { f with inbox := m :: f.inbox })

/-- A NACK EPOCH_STALE, at most one per source node in 10 µs (R368). -/
def nackStale (w : World) (m : Msg) : World :=
  let n := m.srcNode.toNat
  match w.dev.fabric.lastNack.get? n with
  | some t => if w.now < t + 1000 then w else (w.upFabric (fun f => { f with lastNack := f.lastNack.put n w.now })).postNack m 0x0303
  | none => (w.upFabric (fun f => { f with lastNack := f.lastNack.put n w.now })).postNack m 0x0303

/-- The checks of R368 on a message for a local husk: the world after a refusal, or none when it is accepted. -/
def headRefused (w : World) (m : Msg) : Option World :=
  let h := m.dstHusk.toNat
  let vc := m.vc.toNat
  let st := w.huskState h
  if vc = 0 ∨ vc = 7 then none
  else if m.dstEpoch ≠ 0xFFFF#16 ∧ m.dstEpoch.toNat ≠ w.rd (oFabricHuskEpoch h) then
    some ((w.inc oFabricStaleDropped 1).nackStale m)
  else if epochNewer (w.dev.fabric.epochs.getD (m.srcNode.toNat * 16 + m.srcHusk.toNat) m.srcEpoch.toNat) m.srcEpoch.toNat then
    some (w.inc oFabricStaleDropped 1)
  else if st = hsResetting ∨ st = hsDisabling ∨ st = hsDisabled then
    some ((w.inc oFabricNackGone 1).postNack m 0x0302)
  else none

/-- An incomplete message fails with MSG_TRUNCATED, R361 (log entry 87). -/
def failMsg (w : World) (id : Nat) (hdr vc : Nat) : World :=
  let w1 := w.upFabric (fun f => { f with assembling := f.assembling.del id })
  if fld hdr 48 8 = 0x41 then w1 else (w1.postNack (msgOf w.self vc hdr []) 0x0308).pump

/-- A flit of a message for this module, R361 and R368. -/
def localFlit (w : World) (f : Flit) : World :=
  let key := msgKey f.dest f.vc f.hdr
  let cur := w.dev.fabric.assembling.items.find? (fun p => msgKey w.self p.2.vc p.2.hdr == key)
  let add (w : World) (id : Nat) (r : RxMsg) : World :=
    let r1 := { r with pieces := r.pieces ++ [(f.off, f.data)], last := w.now, truncated := f.ty == 5 }
    let rs := coverRanges r1.pieces
    let n := mhLength r1.hdr
    if 8 < rs.length then w.failMsg id r.hdr r.vc
    else if n = 0 ∨ rs = [(0, n)] then
      (w.upFabric (fun s => { s with assembling := s.assembling.del id })).accepted (msgOf f.dest f.vc r1.hdr (gatherPieces r1.pieces n))
    else w.upFabric (fun s => { s with assembling := s.assembling.put id r1 })
  let refused := if f.isHead then w.headRefused (msgOf f.dest f.vc f.hdr []) else none
  match cur, refused with
  | some p, some w1 => w1.upFabric (fun s => { s with assembling := s.assembling.del p.1 })
  | some p, none => add w p.1 p.2
  | none, some w1 => w1
  | none, none => if f.isHead then add w w.dev.fabric.assembling.fresh ⟨f.hdr, f.vc, [], w.now, false⟩ else w

/-- The flit of an accepted frame, R348 and R360: its data are the message's bytes from its place on. -/
def frameFlit (l : LinkSt) (h : Nat) (d : List Byte) : Flit × LinkSt :=
  let q := fhVc h * 4 + fhClass h
  let ty := fhType h
  if ty = 1 ∨ ty = 4 then
    let hdr := leNat (d.take 32)
    let off := mhOffset hdr
    let data := (d.drop 32).take (Nat.min 224 (mhLength hdr - off))
    (⟨fhDest h, fhVc h, fhClass h, ty, hdr, off, data⟩,
      { l with partials := if ty = 4 then l.partials.del q else l.partials.put q (hdr, off + data.length) })
  else
    let (hdr, off) := l.partials.getD q (0, 0)
    let data := if ty = 5 then [] else d.take (Nat.min 256 (mhLength hdr - off))
    (⟨fhDest h, fhVc h, fhClass h, ty, hdr, off, data⟩,
      { l with partials := if ty = 2 then l.partials.put q (hdr, off + data.length) else l.partials.del q })

/-- Must a flit for this module stay in the receive buffer: one of an installation chunk while staging is full (R132)? -/
def chunkStays (w : World) (held : List Flit) (f : Flit) : Bool :=
  fld f.hdr 48 8 == 0x44
    && ((f.isHead && !w.stagingRoom) || held.any (fun g => msgKey g.dest g.vc g.hdr == msgKey f.dest f.vc f.hdr))

/-- The flits for this module that a link holds are taken in order as far as they may be; the others stay (R132). -/
def takeLocal (w : World) (k : Nat) : World :=
  let mine := (w.link k).held.filter (fun f => f.dest == w.self)
  let (stay, w1) := mine.foldl (fun (st : List Flit × World) f =>
    if st.2.chunkStays st.1 f then (st.1 ++ [f], st.2) else (st.1, (st.2.localFlit f).leaveBuffer k f)) ([], w)
  let l := w1.link k
  if mine.isEmpty then w else w1.setLink k { l with held := stay ++ l.held.filter (fun f => f.dest != w.self) }

/-- A frame received, R348 to R351. -/
def frameReceive (w : World) (k : Nat) (fr : Frame) : World :=
  let h := fr.header.toNat
  let st := w.rd (oLinkState k)
  let ty := fhType h
  if st ≠ 3 ∧ st ≠ 6 then w
  else
    let w1 := match fr.parity with
      | .corrected => (w.inc (oLinkFecCorrected k) 1).correctedOpen (0x1D0 + k) (masterId 0xC k) 0x30 k
      | _ => w
    let l := w1.link k
    if fr.parity = .failed ∨ !fhGood h ∨ (ty ≠ 0 ∧ ty ≠ 7 ∧ fhSeq h ≠ l.rx) then w1.askRetry k
    else if ty = 7 then w1
    else
      let left := retire (fhAck h) l.retry
      -- what an ACK covers has come through: no retry of it is pending
      let l1 := LinkSt.giveCredit { l with retry := left, retrySince := if left.length < l.retry.length then none else l.retrySince }
        (fhCredQ h) (fhCred h)
      if ty = 0 then (w1.setLink k l1).pump
      else
        let l2 := { l1 with rx := (l1.rx + 1) % 4096, retrySince := none }
        if ty = 6 then (w1.setLink k l2).pump
        else
          let (f, l3) := frameFlit l2 h fr.flit
          let w2 := w1.setLink k l3
          if f.dest = w.self ∧ !w2.chunkStays l3.held f then ((w2.localFlit f).leaveBuffer k f).pump
          else (w2.setLink k { l3 with held := l3.held ++ [f] }).pump

/-- RETRY_REQ: resend from a SEQ, R350. -/
def resend (w : World) (k : Nat) : World :=
  let l := w.link k
  if w.rd (oLinkState k) = 3 ∨ w.rd (oLinkState k) = 6 then
    ((w.inc (oLinkRetries k) 1).setLink k { l with retrySince := l.retrySince.orElse (fun _ => some w.now) }).corrected
      (0x1D0 + k) (masterId 0xC k) 0x30 0 k
  else w

/-- LinkRetryLimit passes without progress, R350. -/
def retryExhausted (w : World) (k : Nat) : World :=
  match (w.link k).retrySince with
  | some t => if t + w.rd oLinkRetryLimit ≤ w.now then w.goDown k 0x0304 else w
  | none => w

/-! ### Training and power -/

/-- The links of a direction take what its cable's identification says, R347. -/
def readCable (w : World) (d : Nat) : World :=
  match w.dev.fabric.cables.get? d with
  | none => w
  | some c => w.each [0, 1, 2, 3] (fun w l =>
      let k := d * 4 + l
      let st := w.rd (oLinkState k)
      if st = 0 ∨ st = 3 ∨ st = 6 then w
      else if c = 1 then w.wr (oLinkState k) 2
      else (w.wr (oLinkState k) 5).wr (oLinkReason k) 0x0307)

/-- A cable is inserted, R347 and R516; one inserted into a direction that is OFF or in transition is read when the
direction reaches L0, L0h or L1. -/
def cableIn (w : World) (d : Nat) (c : Cable) : World :=
  let w1 := w.upFabric (fun f => { f with cables := f.cables.put d (if c = .other then 2 else 1), overload := setErase d f.overload })
  if !w.powered (24 + d) ∨ 3 ≤ w.rd (oFabricDirState d) then w1 else w1.readCable d

/-- Training of a link completes, R353: ACTIVE with fresh credits, MISWIRED, or DOWN. -/
def trained (w : World) (k far dims : Nat) : World :=
  let st := w.rd (oLinkState k)
  if (st ≠ 1 ∧ st ≠ 2) ∨ !w.powered (24 + k / 4) ∨ w.dev.fabric.overload.elem (k / 4) then w
  else if !nodeValid w.dims w.self || !nodeValid w.dims far || dims != w.dims then
    (w.wr (oLinkState k) 1).wr (oLinkReason k) 0x0309
  else if neighbour w.dims w.self (k / 4) ≠ some far then (w.wr (oLinkState k) 4).wr (oLinkReason k) 0x0306
  else
    let old := w.link k
    -- credits not yet reclaimed are retired before the link comes up again
    let w0 := if old.up then ((w.inc (oLedgerLink k 5) old.txAvail).inc (oLedgerLink k 6) old.txOut).inc (oLedgerLink k 2) (old.txAvail + old.txOut) else w
    let w1 := if old.up then w0.inc (oLinkCreditsReclaimed k) old.txOut else w0
    let fresh := { LinkSt.init with up := true, shared := 768, held := old.held }
    (((w1.wr (oLinkState k) 3).inc (oLedgerLink k 0) 1024).setLink k fresh).pump.sendLinkStatus

/-- A cable supply overload, R515. -/
def supplyOverload (w : World) (d : Nat) : World :=
  if !w.powered (24 + d) then w
  else
    let w1 := (w.upFabric (fun f => { f with overload := setInsert d f.overload })).dirDown d 0x0301
    w1.each [0, 1, 2, 3] (fun w l =>
      let k := d * 4 + l
      if w.rd (oLinkState k) = 2 then (w.wr (oLinkState k) 1).wr (oLinkReason k) 0x0301 else w)

/-- A write of FabricDirPowerReq, R363: a higher-power state is entered at once, through the transition; a lower one when
both ends ask for it, and OFF after the ports have drained (R370). -/
def dirPowerReq (w : World) (d v : Nat) : Nat × World :=
  let w1 := w.wr (oFabricDirPowerReq d) v
  let w2 := if v < w.rd (oFabricDirState d) ∧ w.rd (oFabricDirState d) ≠ 4 then w1.dirRaise d v
    else w1.upFabric (fun f => { f with target := f.target.put d v })
  (0, w2.upFabric (fun f => { f with dirDrain := if v = 3 ∧ w.rd (oFabricDirState d) ≠ 3 then f.dirDrain.put d w.now else f.dirDrain.del d }))

/-- A link sends GOING_DOWN and goes DOWN; what its port still holds is discarded (R370). -/
def endLink (w : World) (k : Nat) : World :=
  let w1 := w.setLink k { w.link k with held := [] }
  if w1.linkOpen k then (w1.setLink k { w1.link k with ctl := .goingDown :: (w1.link k).ctl }).goDown k 0x0301 else w1

/-- A direction reaches the state requested, R362 and R363: L1 and OFF only with empty retry buffers, OFF with nothing held
or 100 µs after the request (R370); OFF takes its links DOWN, leaving OFF lets DISABLED links train again (R463). -/
def dirDone (w : World) (d : Nat) : World :=
  let t := w.dev.fabric.target.getD d (w.rd (oFabricDirPowerReq d))
  let busy := [0, 1, 2, 3].any (fun l => !(w.link (d * 4 + l)).retry.isEmpty || (t == 3 && !(w.link (d * 4 + l)).held.isEmpty))
  let late := t == 3 && decide (w.dev.fabric.dirDrain.getD d 0 + 10000 ≤ w.now)
  if t = w.rd (oFabricDirState d) ∨ (2 ≤ t ∧ busy ∧ !late) then w
  else
    let w1 := (w.wr (oFabricDirState d) t).upFabric (fun f => { f with leaving := f.leaving.del d, dirDrain := f.dirDrain.del d })
    if t = 3 then (w1.each [0, 1, 2, 3] (fun w l => w.endLink (d * 4 + l))).wr oDomainPowered (setFld (w1.rd oDomainPowered) (24 + d) 1 0)
    else if w.powered (24 + d) then w1.readCable d
    else (((w1.wr oDomainPowered (setFld (w1.rd oDomainPowered) (24 + d) 1 1)).wr (oRailState (9 + d)) 2).each [0, 1, 2, 3] (fun w l =>
      let k := d * 4 + l
      if w.rd (oLinkState k) = 0 then w.wr (oLinkState k) 1 else w)).readCable d

/-- Does any port hold a flit? -/
def portsHold (w : World) : Bool := !w.dev.fabric.waiting.isEmpty || (List.range 24).any (fun k => !(w.link k).held.isEmpty)

/-- The ports' drain ends, R370: what they still hold is discarded, GOING_DOWN is sent, the links go DOWN. -/
def drainEnd (w : World) : World :=
  match w.dev.fabric.drainSince with
  | none => w
  | some t =>
    if w.portsHold && decide (w.now < t + 10000) then w
    else
      (w.upFabric (fun f => { f with waiting := [], drainSince := none })).each (List.range 24) World.endLink

/-- An incomplete message waits beyond FabricContTimeout, R361. -/
def contTimeout (w : World) (id : Nat) : World :=
  match w.dev.fabric.assembling.get? id with
  | none => w
  | some r => if w.now < r.last + w.rd oFabricContTimeout then w
      else w.failMsg id r.hdr r.vc

/-! ### Time, R29 to R31 -/

/-- A load of the timestamp by a signed number of ticks, R31 and R252; the exchange of R29 and the 10 ms of R30 go on by
the ticks that pass, whatever is loaded. -/
def timeLoad (w : World) (by' : Int) : World :=
  let t := (Int.ofNat w.now + by').toNat
  let x := w.dev.time
  let w1 := { w with dev := { w.dev with
    time := { x with tick := t, slew := 0, lastMsg := x.lastMsg + by', lastSend := x.lastSend + by' },
    fabric := { w.dev.fabric with lastStatus := (Int.ofNat w.dev.fabric.lastStatus + by').toNat } } }
  ((w1.wrInt oTimeLastStep by').correctedOpen 0x002 0 0x40 0).tenantCatchUp

/-- Is one clock source better than another: priority, then node address by x, y, z (R29)? -/
def betterClock (a b : Nat × Nat) : Bool := decide (a.1 < b.1) || (a.1 == b.1 && decide (a.2 < b.2))

/-- This module as a clock source, R29. -/
def myClock (w : World) : Nat × Nat := (w.rd oTimeMasterPriority, w.self)

/-- The best clock source that the module knows, itself among them, R29. -/
def leadClock (w : World) : Nat × Nat :=
  match w.dev.time.master with
  | some m => if m.2 ≠ w.self ∧ betterClock m w.myClock then m else w.myClock
  | none => w.myClock

/-- A timing message, R29 to R31: `theirs` is the neighbour's stamp, `ours` the stamp at its arrival, both in ticks. One whose
sender follows a worse clock than the module knows, or follows this module itself, is not followed. DESIGN CHOICE (log entry 141):
the load that TimeStepCommand permits is made when the offset exceeds the 10 µs of R31 in either direction; a smaller offset is
slewed off and the permit stays. -/
def timeMessage (w : World) (prio node theirs ours delay : Nat) : World :=
  let mine := w.myClock
  let t := w.dev.time
  let lead := w.leadClock
  let up (w : World) (f : TimeSt → TimeSt) : World := { w with dev := { w.dev with time := f w.dev.time } }
  let w1 := up w (fun x => { x with lastMsg := w.now })
  if betterClock lead (prio, node) || node == w.self then
    (if lead = mine then (up w1 (fun x => { x with master := some mine, slew := 0 })).wr oTimeState 2 else w1)
  else
    let off : Int := Int.ofNat (ours * 10) - Int.ofNat (theirs * 10 + delay)
    let w2 := (up w1 (fun x => { x with master := some (prio, node) })).wrInt oTimeOffset (max (-2147483648) (min 2147483647 off))
    let ticks : Int := -(off / 10)
    let first := w.rd oTimeState == 0 && decide (off < -10000)
    if first || (t.permit && (decide (off < -10000) || decide (10000 < off))) then
      (up (w2.timeLoad ticks) (fun x => { x with permit := if first then x.permit else false })).wr oTimeState 2
    else (up w2 (fun x => { x with slew := ticks })).wr oTimeState (if off.natAbs ≤ 50 then 2 else 1)

/-- A message to a neighbour over link `k` itself, in one flit (R29); it is not made when the link cannot carry it now. -/
def sendOver (w : World) (k dest kind : Nat) (payload : List Byte) : World :=
  let (m, w1) := w.message dest 0 0 0 kind 0 0 payload
  match (flitsOf m).head? with
  | none => w
  | some f => match w1.sendOn k { f with cls := if crossesWrap w.dims w.self (k / 4) then 1 else 0 } with
    | none => w
    | some w2 => { w2 with dev := { w2.dev with outbox := m :: w2.dev.outbox } }

/-- Timing messages to every neighbour, once per millisecond, over link 0 of each powered direction, or its lowest-numbered
ACTIVE link (R29, R359): the stamp, the master's priority and its node. -/
def timeSend (w : World) : World :=
  if Int.ofNat w.now < w.dev.time.lastSend + 100000 then w
  else
    let m := w.leadClock
    (List.range 6).foldl (fun w d => match neighbour w.dims w.self d with
      | some n => if w.powered (24 + d) then w.sendOver ((w.openLinks d).headD (d * 4)) n 0x42 (leBytes 8 w.now ++ leBytes 1 m.1 ++ leBytes 2 m.2) else w
      | none => w) { w with dev := { w.dev with time := { w.dev.time with lastSend := w.now } } }

/-- No timing message for 10 ms, R30. -/
def holdover (w : World) : World :=
  if w.rd oTimeState ≠ 0 ∧ w.dev.time.lastMsg + 1000000 ≤ Int.ofNat w.now then w.wr oTimeState 3 else w

end World

/-- LINK_FRAME_RECEIVE, R348 to R351. -/
def execLinkFrameReceive (k : Fin 24) (f : Frame) (s : State) : Host.Outcome State Fault Refusal := s.done (fun w => w.frameReceive k.val f)
/-- RETRY_REQ, R350: the frames from `seq` on are sent again; what the retry buffer holds stays as it is. -/
def execRetryReq (k : Fin 24) (_seq : BitVec 12) (s : State) : Host.Outcome State Fault Refusal := s.done (fun w => w.resend k.val)
/-- GOING_DOWN, R364. -/
def execGoingDown (k : Fin 24) (s : State) : Host.Outcome State Fault Refusal := s.done (fun w => w.goDown k.val 0x0301)
/-- LINK_RETRY_EXHAUSTED, R350. -/
def execLinkRetryExhausted (k : Fin 24) (s : State) : Host.Outcome State Fault Refusal := s.done (fun w => w.retryExhausted k.val)
/-- LOSS_OF_SIGNAL, R364. -/
def execLossOfSignal (k : Fin 24) (s : State) : Host.Outcome State Fault Refusal := s.done (fun w => w.goDown k.val 0x0301)
/-- LINK_CREDIT_TIMEOUT, R364. -/
def execLinkCreditTimeout (k : Fin 24) (s : State) : Host.Outcome State Fault Refusal := s.done (fun w => w.creditTimeout k.val)
/-- CABLE_INSERTED, R347 and R516. -/
def execCableInserted (dir : Fin 6) (c : Cable) (s : State) : Host.Outcome State Fault Refusal := s.done (fun w => w.cableIn dir.val c)
/-- LINK_UP, R351 and R353. -/
def execLinkUp (k : Fin 24) (farNode : BitVec 16) (farDims : BitVec 32) (s : State) : Host.Outcome State Fault Refusal :=
  s.done (fun w => w.trained k.val farNode.toNat farDims.toNat)
/-- PORT_SUPPLY_OVERLOAD, R515. -/
def execPortSupplyOverload (dir : Fin 6) (s : State) : Host.Outcome State Fault Refusal := s.done (fun w => w.supplyOverload dir.val)
/-- LINK_STATUS_SEND, R358. -/
def execLinkStatusSend (s : State) : Host.Outcome State Fault Refusal :=
  s.done (fun w => if w.now < w.dev.fabric.lastStatus + 10000 then w else w.sendLinkStatus)
/-- MSG_CONT_TIMEOUT, R361. -/
def execMsgContTimeout (id : Nat) (s : State) : Host.Outcome State Fault Refusal := s.done (fun w => w.contTimeout id)
/-- FABRIC_DIR_POWER_REQ, R363. -/
def execFabricDirPowerReq (p : Path) (dir : Fin 6) (v : Word) (s : State) : Host.Outcome State Fault Refusal :=
  s.done (fun w => w.odCommand p 0x5001 (1 + dir.val) v true (fun w n => w.dirPowerReq dir.val n))
/-- DIR_POWER_TRANSITION_DONE, R362. -/
def execDirPowerTransitionDone (dir : Fin 6) (s : State) : Host.Outcome State Fault Refusal := s.done (fun w => w.dirDone dir.val)
/-- TIME_SYNC, R29 to R31. -/
def execTimeSync (_dir : Fin 6) (prio : BitVec 8) (node : BitVec 16) (theirs ours : Word) (delayNs : BitVec 32) (s : State) :
    Host.Outcome State Fault Refusal :=
  s.done (fun w => w.timeMessage prio.toNat node.toNat theirs.toNat ours.toNat delayNs.toNat)
/-- TIME_SYNC_SEND, R29. -/
def execTimeSyncSend (s : State) : Host.Outcome State Fault Refusal := s.done (fun w => w.timeSend)
/-- TIME_HOLDOVER, R30. -/
def execTimeHoldover (s : State) : Host.Outcome State Fault Refusal := s.done (fun w => w.holdover)
/-- TIME_STEP_COMMAND, R31. -/
def execTimeStepCommand (p : Path) (v : Word) (s : State) : Host.Outcome State Fault Refusal :=
  s.done (fun w => w.odCommand p 0x2010 5 v true (World.onOne (fun w =>
    (0, { w with dev := { w.dev with time := { w.dev.time with permit := true } } }))))

end Sys2Proof.Machine
end

