-- ==== Sys2Proof/Machine/Collective.lean ====
section
/-! DEFINITION. The collective engines (R373 to R394) and the reductions under a deadline (R273 to R280): acceptance of a
descriptor, the sums in chain, ring and tree order, fates, result records, pieces, ring slots, resends and timeouts. -/
namespace Sys2Proof.Machine

/-! ### Descriptor fields, R375 -/

def kOp (c : Nat) : Nat := fld c 0 8
def kOrder (c : Nat) : Nat := fld c 10 2
def kGather (c : Nat) : Bool := bitAt c 12
def kGf (c : Nat) : Bool := bitAt c 13
def kDeadline (c : Nat) : Bool := bitAt c 14
def kFmtCode (c : Nat) : Nat := fld c 16 4
def kHusk (c : Nat) : Nat := fld c 20 4
def kRank (c : Nat) : Nat := fld c 216 16
def kN (c : Nat) : Nat := fld c 232 16 + 1
def kRoot (c : Nat) : Nat := fld c 248 16
def kUnit (c : Nat) : Nat := fld c 264 16
def kSlots (c : Nat) : Nat := fld c 280 8
def kShard (c : Nat) : Nat := fld c 288 24
def kStride (c : Nat) : Nat := fld c 312 32
def kCount (c : Nat) : Nat := fld c 344 40
def kSrc (c : Nat) : Nat := fld c 384 48
def kDst (c : Nat) : Nat := fld c 432 48
def kPart (c : Nat) : Nat := fld c 480 48
def kResid (c : Nat) : Nat := fld c 528 48
def kRecord (c : Nat) : Nat := fld c 576 48
def kStage (c : Nat) : Nat := fld c 624 48
def kFlag (c : Nat) : Nat := fld c 672 48
def kReady (c : Nat) : Nat := fld c 720 48
def kFlagSeq (c : Nat) : Nat := fld c 768 32
def kReadySeq (c : Nat) : Nat := fld c 800 32
def kId (c : Nat) : Nat := fld c 832 32
def kReduction (c : Nat) : Nat := fld c 864 32
def kStep (c : Nat) : Nat := fld c 896 64
def kStart (c : Nat) : Nat := fld c 960 64
/-- The RSVD bits of R375. -/
def kReserved (c : Nat) : Bool := rsvd c 64 152 && rsvd c 24 24 && rsvd c 8 2
/-- Is the operation a reduction: ALL_REDUCE, REDUCE_SCATTER, REDUCE? -/
def kReduces (c : Nat) : Bool := kOp c == 1 || kOp c == 2 || kOp c == 6
/-- The format of a reduction. -/
def kFmt (c : Nat) : Fmt := (Fmt.ofCode (kFmtCode c)).getD .f32

/-- Units a format is divided in, R378: G8E groups, else elements. -/
def collUnits (f : Fmt) (count : Nat) : Nat := if f = .g8e then (count + 511) / 512 else count
/-- Bytes of a unit. -/
def unitBytes (f : Fmt) : Nat := if f = .g8e then 544 else f.elemBytes
/-- Elements of a unit. -/
def unitElems (f : Fmt) : Nat := if f = .g8e then 512 else 1
/-- Format of the running values, R380. -/
def runFmt (f : Fmt) : Fmt := if f = .g8e then .f32 else f
/-- Does code c name a format that reductions take (R375)? -/
def reduceFmt (c : Nat) : Bool := c == 0 || c == 1 || c == 2 || c == 0xC

/-- One addition of R380: the contribution is added exactly and the sum is rounded once to the running format. -/
def collAdd (f : Fmt) (acc : F32) (x : Val) : F32 :=
  let s := (valF32 acc).add x
  match f with
  | .bf16 => (fmtBf16.decode (fmtBf16.encode .rne s)).f32
  | .f16 => (fmtF16.decode (fmtF16.encode .rne s)).f32
  | _ => s.f32

/-- Values in a format, rounded to nearest even. -/
def rneRow (f : Fmt) (l : List F32) : List Byte := f.encodeRow (l.map valF32) (List.replicate l.length .rne)

namespace CollRun

def op (r : CollRun) : Nat := kOp r.cmd
def n (r : CollRun) : Nat := kN r.cmd
def rank (r : CollRun) : Nat := kRank r.cmd
def fmt (r : CollRun) : Fmt := kFmt r.cmd
/-- Key among the running descriptors. -/
def key (r : CollRun) : Nat := r.husk * 2 ^ 32 + kId r.cmd
/-- Shards that are summed: one for each rank in REDUCE_SCATTER and in ring order, else one (R378, R381). -/
def shards (r : CollRun) : Nat := if r.op = 2 ∨ r.order = 1 then r.n else 1
/-- Does every rank send its contribution to the owner (effective order CHAIN with PLACE = GATHER)? -/
def gathers (r : CollRun) : Bool := r.order == 0 && kGather r.cmd
/-- First unit of shard j. -/
def lo (r : CollRun) (j : Nat) : Nat := j * collUnits r.fmt (kCount r.cmd) / r.shards
/-- The bytes of shard j inside a whole contribution: first and number. -/
def place (r : CollRun) (j : Nat) : Nat × Nat := (r.lo j * unitBytes r.fmt, (r.lo (j + 1) - r.lo j) * unitBytes r.fmt)
/-- Elements of shard j. -/
def elems (r : CollRun) (j : Nat) : Nat := (r.lo (j + 1) - r.lo j) * unitElems r.fmt
/-- The rank that owns shard j, R379 and R381 (that of ALL_REDUCE: the last of the chain, the root of the tree). -/
def owner (r : CollRun) (j : Nat) : Nat :=
  if r.op = 2 then j
  else if r.op = 6 then kRoot r.cmd
  else match r.order with
    | 1 => j
    | 2 => 0
    | _ => r.n - 1
/-- Every owner once. -/
def owners (r : CollRun) : List Nat := dedup ((List.range r.shards).map r.owner)
/-- The ranks that running values of shard j pass through, R379 and R381. -/
def path (r : CollRun) (j : Nat) : List Nat :=
  if r.order = 1 then (List.range r.n).map (fun i => (j + 1 + i) % r.n) else List.range r.n
/-- Children of a rank in the tree of R381, ascending by level. -/
def children (n k : Nat) : List Nat :=
  ((List.range 17).filter (fun l => k % 2 ^ (l + 1) == 0 && decide (k + 2 ^ l < n))).map (fun l => k + 2 ^ l)
/-- The parent of a rank above 0. -/
def parent (k : Nat) : Nat := match (List.range 17).find? (fun l => bitAt k l) with
  | some l => k - 2 ^ l
  | none => 0
/-- Ranks to which a rank forwards what it received of a broadcast from `root`, by the effective order (R378). -/
def nexts (r : CollRun) (root : Nat) (chain : Bool) : List Nat :=
  let v := (r.rank + r.n - root) % r.n
  if r.order = 2 && !chain then (children r.n v).map (fun x => (x + root) % r.n)
  else if v + 1 < r.n then [(r.rank + 1) % r.n] else []
/-- The values of shard j in a whole contribution or in the shard's own bytes. -/
def values (r : CollRun) (j : Nat) (d : List Byte) : List Val := (List.range (r.elems j)).map (fun i => r.fmt.valAt d i)
/-- This rank's contribution to shard j. -/
def mineOf (r : CollRun) (j : Nat) : List Val := r.values j ((r.src.drop (r.place j).1).take (r.place j).2)
/-- Running values of +0. -/
def zeros (r : CollRun) (j : Nat) : List F32 := List.replicate (r.elems j) f32Zero
/-- Values added to running values. -/
def plus (r : CollRun) (acc : List F32) (x : List Val) : List F32 := (acc.zip x).map (fun p => collAdd r.fmt p.1 p.2)
/-- The shards that this rank owns. -/
def owned (r : CollRun) : List Nat := (List.range r.shards).filter (fun j => r.owner j == r.rank)
/-- May this rank's contribution enter sums: ready, whole, and no other fate decided? -/
def usable (r : CollRun) : Bool := r.ready && !r.srcBad && (match r.own with
  | none => true
  | some f => decide (f.1 < 2))
/-- Does its contribution pass on without it: a fate other than used was decided? -/
def passes (r : CollRun) : Bool := match r.own with
  | some f => decide (2 ≤ f.1)
  | none => false
/-- Shards or pieces that are to be written at this rank. -/
def expected (r : CollRun) : List Nat :=
  match r.op with
  | 1 => List.range r.shards
  | 2 => [r.rank]
  | 6 => if r.rank = kRoot r.cmd then List.range r.shards else []
  | 3 => List.range r.n
  | 4 => List.range r.n
  | 5 => [0]
  | 7 => [0]
  | 9 => [0]
  | _ => []
/-- Has everything expected been written? -/
def allWritten (r : CollRun) : Bool := r.expected.all (fun j => r.written.elem j)
/-- Note that something poisoned was written, with its reason. -/
def met (r : CollRun) (bad : Bool) (reason : Nat) : CollRun :=
  if bad then { r with bad := true, reason := if r.bad then r.reason else reason } else r

end CollRun

namespace World

/-- Change the collective engines. -/
def upColl (w : World) (f : CollSt → CollSt) : World := { w with dev := { w.dev with coll := f w.dev.coll } }
/-- A running descriptor. -/
def collRun (w : World) (k : Nat) : Option CollRun := w.dev.coll.runs.get? k
/-- Keep a running descriptor. -/
def setColl (w : World) (r : CollRun) : World := w.upColl (fun c => { c with runs := c.runs.put r.key r })
/-- The turn of a husk. -/
def turn (w : World) (h : Nat) : Option TurnSt := w.dev.turns.get? h
/-- Has the husk's turn ended its drain without having reached RELEASED (R390)? -/
def turnShut (w : World) (h : Nat) : Bool := match w.turn h with
  | some t => [2, 3, 4, 5, 7].elem t.stage
  | none => false
/-- Master identifier of a descriptor's engine. -/
def collMaster (r : CollRun) : Nat := masterId 0xA r.engine
/-- The ring of a descriptor. -/
def collRing (r : CollRun) : RingRef := .coll (Fin.ofNat 2 r.engine) (Fin.ofNat 16 r.husk)

/-- Send a message of a collective to a rank, R389. -/
def sendColl (w : World) (r : CollRun) (rank kind seg : Nat) (payload : List Byte) (bad : Bool) : World :=
  let p := r.parts.getD rank 0
  let (m, w1) := w.message (fld p 0 16) (w.huskVc r.husk) r.husk (fld p 16 4) kind (kId r.cmd * 65536 + seg % 65536) 0 payload
  (w1.inc (oCollBytesSent r.engine) payload.length).sendMsg { m with poisoned := bad }

/-- The 8 bytes of a DECISION or RECEIPT, R389. -/
def fateBytes (f : Nat × Nat) : List Byte := leBytes 8 (f.1 + f.2 * 65536)

/-! ### Fates, R275 to R280 and R383 -/

/-- Is this rank's contribution, if used, CARRIED: was its contribution to the step before deferred (R276)? -/
def carriesOn (w : World) (r : CollRun) : Bool :=
  let old := w.dev.coll.deferrals.getD (r.husk * 2 ^ 32 + kReduction r.cmd) (0, 0)
  kReduces r.cmd && decide (0 < old.1) && old.2 + 1 == kStep r.cmd

/-- This rank's own fate becomes final: counters and the contribution ledger (R280, R399), the run of deferrals (R276). -/
def settleOwn (w : World) (r : CollRun) (f : Nat × Nat) : CollRun × World :=
  if r.own.isSome then (r, w)
  else
    let h := r.husk
    let w1 := ((w.wr (oLedgerContrib h 1) (w.rd (oLedgerContrib h 1) - 1)).inc (oLedgerContrib h 2) 1)
    let w2 := match f.1 with
      | 2 => (w1.inc (oHuskContribDeferred h) 1).inc (oLedgerContrib h 4) 1
      | 3 => (w1.inc (oHuskContribDropped h) 1).inc (oLedgerContrib h 5) 1
      | _ =>
        let w2 := (w1.inc (oHuskContribUsed h) 1).inc (oLedgerContrib h 3) 1
        if r.mine then (w2.inc (oHuskContribCarried h) 1).inc (oLedgerContrib h 6) 1 else w2
    let dk := h * 2 ^ 32 + kReduction r.cmd
    let old := w.dev.coll.deferrals.getD dk (0, 0)
    let cnt := if f.1 = 2 then (if old.2 + 1 = kStep r.cmd then old.1 + 1 else 1) else 0
    ({ r with own := some f }, w2.upColl (fun c => { c with deferrals := c.deferrals.put dk (cnt, kStep r.cmd) }))

/-- Tell a fate that this rank decided to every other owner that has not answered with a RECEIPT, R382. -/
def tellOwners (w : World) (r : CollRun) (f : Nat × Nat) : World :=
  w.each (r.owners.filter (fun k => k != r.rank && !r.receipts.has k)) (fun w k =>
    w.sendColl r k 3 (((List.range r.shards).find? (fun j => r.owner j == k)).getD 0) (fateBytes f) false)

/-- The fate that the record gives rank k once the shard is summed (R278). -/
def recorded (r : CollRun) (k : Nat) : Nat × Nat :=
  if k = r.rank then (match r.own with
    | some f => f
    | none => (if r.mine then 1 else 0, 0))
  else match r.fates.get? k with
    | some f => if f.1 < 2 then (if r.carried.elem k then 1 else 0, 0) else f
    | none => (if r.carried.elem k then 1 else 0, 0)

/-- Result record and contributor mask of REDUCE_SCATTER, R277 and R278. -/
def recordBytesOf (r : CollRun) (nonfinite poisoned : Bool) : List Byte × List Byte :=
  let fs := (List.range r.n).map (fun k => (recorded r k).1)
  let cnt (f : Nat → Bool) : Nat := (fs.filter f).length
  let used := cnt (fun c => decide (c < 2))
  let low := decide (used < r.quorum)
  let v := (r.completeTick <<< 448) + (r.deadline <<< 384) + ((kRecord r.cmd + 64) <<< 336) + ((if low then 0x0503 else 0) <<< 320)
    + (cnt (fun c => c == 1) <<< 288) + (cnt (fun c => c == 3) <<< 256) + (cnt (fun c => c == 2) <<< 224) + (used <<< 192)
    + (r.n <<< 160) + (kReduction r.cmd <<< 128) + (kStep r.cmd <<< 64)
    + (if low then 4 else 0) + (if poisoned then 2 else 0) + (if nonfinite then 1 else 0)
  let mask := (List.range ((r.n + 3) / 4)).map (fun b => BitVec.ofNat 8
    ((List.range 4).foldl (fun m i => m + fs.getD (4 * b + i) 0 * 4 ^ i) 0))
  (leBytes 64 v, mask)

/-- Write an output flag, R85 and R386; the order in which flags are set is kept (R86). -/
def collFlag (w : World) (r : CollRun) (va seq reason : Nat) : World :=
  let note (w : World) : World := match w.peek r.husk va .wr with
    | some pa => { w with dev := { w.dev with flagSets := pa :: w.dev.flagSets.filter (fun a => a != pa) } }
    | none => w
  (note w).putVirt r.husk (collMaster r) 2 va (leBytes 8 (seq % 2 ^ 32 + reason * 2 ^ 32))

/-- Flag 0 once every destination is written, an owner's record before it (R385), where no flag per piece is asked for. -/
def flagZero (w : World) (r : CollRun) : World :=
  if r.allWritten && (r.closed || !kReduces r.cmd || r.owned.isEmpty) && kFlag r.cmd != 0 && !(r.op == 3 && kGf r.cmd) then
    w.collFlag r (kFlag r.cmd) (kFlagSeq r.cmd) (if r.bad then r.reason else 0)
  else w

/-- Write bytes of a destination, poisoned whole when `bad`. -/
def collPut (w : World) (r : CollRun) (va : Nat) (data : List Byte) (bad : Bool) : World :=
  (w.writeVirt r.husk (collMaster r) 2 va (if bad then (List.range data.length).map (fun i => Config.poisonByte (va + i)) else data)
    (List.replicate data.length bad)).2

/-! ### Reductions, R378 to R385 -/

/-- An owner's receipt to itself: its own fate is final when it is the only owner or every other one has answered. -/
def selfReceipt (w : World) (r : CollRun) (f : Nat × Nat) : CollRun × World :=
  let r1 := { r with receipts := r.receipts.put r.rank f }
  if r.owners.all (fun k => r1.receipts.has k) then
    w.settleOwn r1 ((r1.receipts.vals.find? (fun x => decide (2 ≤ x.1))).getD f)
  else (r1, w)

/-- An owner closes its shards: once they are written and it knows every rank's fate (R383), it writes record and mask, tells the
contributors what it recorded, and the flag comes last (R385). -/
def closeShards (w : World) (r : CollRun) : CollRun × World :=
  let known := (List.range r.n).all (fun k => k == r.rank || r.fates.has k)
  if r.closed || r.owned.isEmpty || !known || !r.owned.all (fun i => r.written.elem i) then (r, w)
  else
    let (r1, w1) := w.selfReceipt { r with closed := true } (recorded r r.rank)
    let w2 := if r.op = 2 then
        let (rec, mask) := recordBytesOf r1 r1.nonfinite r1.bad
        (w1.putVirt r.husk (collMaster r) 2 (kRecord r.cmd) rec).putVirt r.husk (collMaster r) 2 (kRecord r.cmd + 64) mask
      else w1
    let w3 := w2.each ((List.range r.n).filter (fun k => k != r.rank)) (fun w k =>
      w.sendColl r1 k 4 (r.owned.headD 0) (fateBytes (recorded r1 k)) false)
    (r1, w3.flagZero r1)

/-- A reduced shard reaches this rank and is written. -/
def deliverShard (w : World) (r : CollRun) (j : Nat) (data : List Byte) (bad : Bool) (reason : Nat) : CollRun × World :=
  if r.written.elem j then (r, w)
  else
    let w1 := w.collPut r (kDst r.cmd + (if r.op = 2 then 0 else (r.place j).1)) data bad
    let nonfinite := r.fmt == Fmt.g8e && (List.range (r.elems j / 16)).any (fun i => ((data[Fmt.g8e.scaleAt (16 * i)]?).getD 0) == 0xFF#8)
    let r1 := { r.met bad reason with written := setInsert j r.written, nonfinite := r.nonfinite || nonfinite, completeTick := w.now }
    (w1.flagZero r1).closeShards r1

/-- The sum of shard j is complete at this rank: it is written in its format and goes where the operation says. -/
def finalShard (w : World) (r : CollRun) (j : Nat) (acc : List F32) : CollRun × World :=
  let data := rneRow r.fmt acc
  let bad := r.tainted.elem j
  let r1 := { r with sent := setInsert j r.sent }
  if r.op = 1 then
    let (r2, w1) := w.deliverShard r1 j data bad 0x0010
    (r2, w1.each (r2.nexts r2.rank false) (fun w k => w.sendColl r2 k 1 j data bad))
  else if r.owner j = r.rank then w.deliverShard r1 j data bad 0x0010
  else (r1, w.sendColl r1 (r.owner j) 1 j data bad)

/-- Running values go on to the next rank. -/
def passOn (w : World) (r : CollRun) (j next : Nat) (acc : List F32) : CollRun × World :=
  ({ r with sent := setInsert j r.sent }, w.sendColl r next 2 j (rneRow (runFmt r.fmt) acc) (r.tainted.elem j))

/-- Shard j under PASS or RING: when the running values are here and this rank's contribution is settled. -/
def passStep (w : World) (r : CollRun) (j : Nat) : CollRun × World :=
  let path := r.path j
  let p := (path.findIdx? (fun k => k == r.rank)).getD 0
  let input := if p = 0 then some (r.zeros j) else r.running.get? (j * 65536 + path.getD (p - 1) 0)
  match input with
  | none => (r, w)
  | some acc =>
    if !r.usable && !r.passes then (r, w)
    else
      let out := if r.usable then r.plus acc (r.mineOf j) else acc
      if p + 1 = r.n then w.finalShard r j out else w.passOn r j (path.getD (p + 1) 0) out

/-- Shard j in tree order: when every child's values are here; the lower rank's value comes first. -/
def treeStep (w : World) (r : CollRun) (j : Nat) : CollRun × World :=
  let cs := CollRun.children r.n r.rank
  let have' := cs.filterMap (fun k => r.running.get? (j * 65536 + k))
  if have'.length ≠ cs.length ∨ (!r.usable && !r.passes) then (r, w)
  else
    let start := if r.usable then (r.mineOf j).map (fun v => v.f32) else r.zeros j
    let out := have'.foldl (fun acc l => r.plus acc (l.map valF32)) start
    if r.rank = 0 then w.finalShard r j out else w.passOn r j (CollRun.parent r.rank) out

/-- Shard j under GATHER: a contributor sends its part to the owner; the owner adds once every rank is settled, in
ascending rank, keeping the running values in its staging buffer (R379). -/
def gatherStep (w : World) (r : CollRun) (j : Nat) : CollRun × World :=
  let o := r.owner j
  if o ≠ r.rank then
    if r.usable then ({ r with sent := setInsert j r.sent }, w.sendColl r o 1 j ((r.src.drop (r.place j).1).take (r.place j).2) false)
    else if r.passes then ({ r with sent := setInsert j r.sent }, w)
    else (r, w)
  else if !(r.usable || r.passes) || !((List.range r.n).all (fun k => k == r.rank || r.fates.has k)) then (r, w)
  else
    let acc := (List.range r.n).foldl (fun acc k =>
      if k = r.rank then (if r.usable then r.plus acc (r.mineOf j) else acc)
      else match r.fates.get? k with
        | some f => if f.1 < 2 then r.plus acc (r.values j (r.data.getD k [])) else acc
        | none => acc) (r.zeros j)
    (w.putVirt r.husk (collMaster r) 2 (kStage r.cmd) (rneRow .f32 acc)).finalShard r j acc

/-- Where running values travel, no owner receives a contribution's own data: once this rank's has gone into every shard it tells
the owners that it is used (R382, R383; log entry 31). -/
def tellUsed (w : World) (before r : CollRun) : World :=
  let whole (x : CollRun) : Bool := (List.range x.shards).all (fun j => x.sent.elem j)
  if r.gathers || !r.usable || whole before || !whole r then w else w.tellOwners r (if r.mine then 1 else 0, 0)

/-- Everything that a reduction can do now. -/
def reduceStep (w : World) (r : CollRun) : CollRun × World :=
  let (r1, w1) := (List.range r.shards).foldl (fun st j =>
    if st.1.sent.elem j then st
    else if st.1.gathers then st.2.gatherStep st.1 j
    else if st.1.order = 2 then st.2.treeStep st.1 j
    else st.2.passStep st.1 j) (r, w)
  (w1.tellUsed r r1).closeShards r1

/-- Has the descriptor nothing left to do? -/
def collOver (r : CollRun) : Bool :=
  if kReduces r.cmd then r.own.isSome && !r.folding && r.allWritten && (r.closed || r.owned.isEmpty) && (List.range r.shards).all (fun j => r.sent.elem j)
  else match r.op with
    | 3 => r.ready && r.allWritten
    | 4 => r.ready && r.allWritten
    | 8 => r.ready
    | 0xA => r.sent.elem 0
    | _ => r.allWritten

/-- A descriptor ends: its completion record is due (R385). -/
def collEnd (w : World) (r : CollRun) (status reason : Nat) : World :=
  let w1 := w.modTaken (collRing r) (fun t => t.wait == .coll && kId t.cmd == kId r.cmd)
    (fun t => { t with wait := .done, status := status, reason := reason })
  (w1.upColl (fun c => { c with runs := c.runs.del r.key })).inc (oCollDescriptorsDone r.engine) 1

/-- Keep a descriptor after it went on, or end it. -/
def collKeep (w : World) (r : CollRun) : World :=
  if collOver r then
    let fate := match r.own with
      | some f => f.2
      | none => 0
    if r.bad then w.collEnd r 2 (if fate = 0 then r.reason else fate) else w.collEnd r 0 fate
  else w.setColl r

/-- Let a descriptor go on as far as it can. -/
def collGo (w : World) (r : CollRun) : World :=
  if kReduces r.cmd then let (r1, w1) := w.reduceStep r; w1.collKeep r1 else w.collKeep r

/-! ### Pieces of the other operations, R378 and R386 to R388 -/

/-- Address of ring slot u of a descriptor and whether the release counter frees it, R387. -/
def collSlot (w : World) (r : CollRun) : Nat × Bool :=
  let u := kShard r.cmd
  let k := kSlots r.cmd
  (kDst r.cmd + 64 + u % k * kStride r.cmd, decide (u + 1 ≤ w.vnum r.husk (kDst r.cmd) 8 + k))

/-- A piece lands at this rank: its bytes, then its flag. A ring slot that is not free makes it wait. -/
def putPiece (w : World) (r : CollRun) (k : Nat) (data : List Byte) (bad : Bool) (reason : Nat) : CollRun × World :=
  if r.written.elem k then (r, w)
  else if kSlots r.cmd ≠ 0 then
    let (va, free) := w.collSlot r
    if !free then ({ r with slot := some (data, bad) }, w)
    else
      let w1 := w.collPut r (va + 8) (data.take (kCount r.cmd)) bad
      let r1 := { r.met bad reason with written := setInsert k r.written, slot := none }
      (r1, (w1.collFlag r1 va (kFlagSeq r.cmd + kShard r.cmd / kSlots r.cmd) (if bad then reason else 0)).flagZero r1)
  else
    let at' := if r.op = 3 ∨ r.op = 4 then kDst r.cmd + k * kCount r.cmd else kDst r.cmd
    let d := data.take (kCount r.cmd)
    -- HDR_LAST, R388: the first eight bytes come last
    let w1 := if bitAt r.cmd 15 then (w.collPut r (at' + 8) (d.drop 8) bad).collPut r at' (d.take 8) bad else w.collPut r at' d bad
    let r1 := { r.met bad reason with written := setInsert k r.written }
    let w2 := if r.op = 3 ∧ kGf r.cmd then w1.collFlag r1 (kFlag r.cmd + 8 * k) (kFlagSeq r.cmd) (if bad then reason else 0) else w1
    (r1, w2.flagZero r1)

/-- A broadcast piece goes on to the ranks after this one. -/
def forwardPiece (w : World) (r : CollRun) (data : List Byte) (bad : Bool) : World :=
  w.each (r.nexts (kRoot r.cmd) (r.op == 7)) (fun w k =>
    w.sendColl r k 1 (if kSlots r.cmd ≠ 0 then kShard r.cmd else 0) data bad)

/-- The source bytes of the other operations, sent and written here. -/
def sendPieces (w : World) (r : CollRun) (d : List Byte) (bad : Bool) (reason : Nat) : CollRun × World :=
  let others := (List.range r.n).filter (fun k => k != r.rank)
  match r.op with
  | 3 => (w.each others (fun w k => w.sendColl r k 1 r.rank d bad)).putPiece r r.rank d bad reason
  | 4 =>
    let blk (k : Nat) : List Byte := (d.drop (k * kCount r.cmd)).take (kCount r.cmd)
    (w.each others (fun w k => w.sendColl r k 1 r.rank (blk k) bad)).putPiece r r.rank (blk r.rank) bad reason
  | 8 => (r.met bad reason, w.sendColl r (kRoot r.cmd) 1 (kShard r.cmd) d bad)
  | _ => (w.forwardPiece r d bad).putPiece r 0 d bad reason

/-! ### Acceptance, R374 to R377 -/

/-- Bytes of the source that this rank reads. -/
def srcBytes (r : CollRun) : Nat :=
  if kReduces r.cmd then collUnits r.fmt (kCount r.cmd) * unitBytes r.fmt
  else match r.op with
    | 3 => kCount r.cmd
    | 4 => r.n * kCount r.cmd
    | 5 => if r.rank = kRoot r.cmd then kCount r.cmd else 0
    | 7 => if r.rank = kRoot r.cmd then kCount r.cmd else 0
    | 8 => kCount r.cmd
    | _ => 0

/-- Bytes of the destination that this rank writes. -/
def dstBytes (r : CollRun) : Nat :=
  match r.op with
  | 1 => srcBytes r
  | 2 => (r.place r.rank).2
  | 3 => r.n * kCount r.cmd
  | 4 => r.n * kCount r.cmd
  | 5 => kCount r.cmd
  | 6 => if r.rank = kRoot r.cmd then srcBytes r else 0
  | 7 => if kSlots r.cmd ≠ 0 then 64 + kSlots r.cmd * kStride r.cmd else kCount r.cmd
  | 9 => if kSlots r.cmd ≠ 0 then 64 + kSlots r.cmd * kStride r.cmd else kCount r.cmd
  | _ => 0

/-- A flag or ready word lies in slice scratch. -/
def inAnyScratch (w : World) (h va n : Nat) (need : Need) : Bool := allSlices.any (fun s => w.inScratch h s va n need)

/-- Row 1 of R377. -/
def collFieldsOk (c h : Nat) : Bool :=
  decide (1 ≤ kOp c) && decide (kOp c ≤ 10) && (!kReduces c || reduceFmt (kFmtCode c)) && kOrder c != 3 && kHusk c == h
    && decide (kRank c < kN c) && decide (kRoot c < kN c) && kSlots c != 1 && decide (kSlots c ≤ 64) && kReserved c && kCount c != 0
    && (kReduces c || kCount c % 64 == 0)

/-- Row 2 of R377. -/
def collAddrOk (w : World) (r : CollRun) : Bool :=
  let c := r.cmd
  let h := r.husk
  let owned := (List.range r.shards).filter (fun j => r.owner j == r.rank)
  let stage := owned.foldl (fun n j => n + 4 * r.elems j + (r.n - 1) * (r.place j).2) 0
  let ok (va n : Nat) (need : Need) : Bool := n == 0 || (va % 64 == 0 && w.mapped h va n need)
  let word (va n : Nat) (need : Need) : Bool := va == 0 || (va % 64 == 0 && w.inAnyScratch h va n need)
  ok (kPart c) (4 * r.n) .rd && ok (kSrc c) (srcBytes r) .rd && ok (kDst c) (dstBytes r) .wr
    && word (kReady c) 8 .rd && word (kFlag c) (if r.op = 3 ∧ kGf c then 8 * r.n else 8) .wr
    && (!(kReduces c && kGather c) || owned.isEmpty || (kStage c % 64 == 0 && w.inHbm h (kStage c) stage .wr))
    && (r.op != 2 || ok (kRecord c) (64 + (r.n + 3) / 4) .wr)
    && (!(kReduces c && kFmtCode c == 0xC && kResid c != 0) || ok (kResid c) (2 * kCount c) .wr)

/-- The ranges that row 2 walks. -/
def collSpans (r : CollRun) : List Span :=
  let c := r.cmd
  let owned := (List.range r.shards).filter (fun j => r.owner j == r.rank)
  let stage := owned.foldl (fun n j => n + 4 * r.elems j + (r.n - 1) * (r.place j).2) 0
  let at64 (va n : Nat) (need : Need) : List Span := if va % 64 = 0 then [(va, n, need)] else []
  let word (va n : Nat) (need : Need) : List Span := if va = 0 then [] else at64 va n need
  at64 (kPart c) (4 * r.n) .rd ++ at64 (kSrc c) (srcBytes r) .rd ++ at64 (kDst c) (dstBytes r) .wr
    ++ word (kReady c) 8 .rd ++ word (kFlag c) (if r.op = 3 ∧ kGf c then 8 * r.n else 8) .wr
    ++ (if kReduces c && kGather c && !owned.isEmpty then at64 (kStage c) stage .wr else [])
    ++ (if r.op = 2 then at64 (kRecord c) (64 + (r.n + 3) / 4) .wr else [])
    ++ (if kReduces c && kFmtCode c == 0xC && kResid c != 0 then at64 (kResid c) (2 * kCount c) .wr else [])

/-- Is this rank's contribution not present, R382? Under PASS it is absent when no running values have left with it (log entry
31). -/
def collAbsent (r : CollRun) : Bool := !r.ready || (!r.gathers && r.sent.isEmpty)

/-- This rank's engine decides, R274 and R382: an absent contribution is deferred or dropped, a present one is used; the owners that
have not answered are told. -/
def deadlineDecide (w : World) (r : CollRun) : CollRun × World :=
  if r.own.isSome then (r, w)
  else if !collAbsent r then (r, w.tellOwners r (if r.mine then 1 else 0, 0))
  else
    let old := w.dev.coll.deferrals.getD (r.husk * 2 ^ 32 + kReduction r.cmd) (0, 0)
    let run := if old.2 + 1 = kStep r.cmd then old.1 else 0
    let defer := r.policy == 1 && kFmtCode r.cmd == 0xC && kResid r.cmd != 0 && decide (run < r.deferMax)
    let f : Nat × Nat := if defer then (2, 0x0501) else (3, 0x0502)
    let (r1, w1) := w.settleOwn { r with folding := defer } f
    (r1, w1.tellOwners r1 f)

/-- The source becomes ready, R382: it is read once; a poisoned contribution is dropped whatever the policy (R275); one that is
complete after the deadline tick is absent (R274). -/
def collReadySrc (w00 : World) (r00 : CollRun) : World :=
  let late := r00.deadline != 0 && decide (r00.deadline < w00.now) && collAbsent r00
  let r0 := if r00.ready then r00 else { r00 with mine := w00.carriesOn r00 }
  let (r, w) := if late then w00.deadlineDecide r0 else (r0, w00)
  let ready := kReady r.cmd == 0 || decide (kReadySeq r.cmd ≤ w.vnum r.husk (kReady r.cmd) 8)
  if r.ready || !ready || srcBytes r == 0 then w.collGo r
  else
    let ((d, _), w1) := w.readVirt r.husk (collMaster r) 1 (kSrc r.cmd) (srcBytes r)
    let r1 := { r with ready := true, src := d.data, srcBad := d.anyBad }
    if !kReduces r.cmd then
      let (r2, w2) := w1.sendPieces r1 d.data d.anyBad d.reason
      w2.collGo r2
    else if d.anyBad && r.own.isNone then
      let (r2, w2) := w1.settleOwn r1 (3, 0x0502)
      (w2.tellOwners r2 (3, 0x0502)).collGo r2
    else
      let w2 := if r1.mine && r1.own.isNone && r1.gathers then w1.tellOwners r1 (1, 0) else w1
      w2.collGo r1

/-- A DECISION that settles or marks a rank at this owner, R276 and R383: a used contribution that is gathered is settled by its
data. -/
def decide' (r : CollRun) (k : Nat) (f : Nat × Nat) : CollRun :=
  if f.1 < 2 then
    { r with carried := if f.1 = 1 then setInsert k r.carried else r.carried,
             fates := if r.gathers || r.fates.has k then r.fates else r.fates.put k (0, 0) }
  else if r.fates.has k then r else { r with fates := r.fates.put k f }

/-- The rank of a node and husk in a descriptor's table. -/
def rankOf (r : CollRun) (node husk : Nat) : Option Nat := r.parts.findIdx? (fun p => fld p 0 16 == node && fld p 16 4 == husk)

/-- The engine takes a descriptor: R376, R377, and what can be done at once. -/
def collAccept (w : World) (c : Ctx) (e cmd : Nat) : World :=
  let h := c.husk
  if !collFieldsOk cmd h then w.finished c cmd 1 0x0003
  else
    let r0 : CollRun := ⟨e, h, cmd, w.now, kOrder cmd, [], 0, 0, 0, 0, false, [], false, [], .empty, [], .empty, [], .empty, none, false,
      .empty, [], false, none, none, false, 0, .empty, [], false, 0, false⟩
    if !w.collAddrOk r0 then w.rejected c cmd 0x0004 (collSpans r0)
    else
      let ((d, _), w1) := w.readVirt h c.master 1 (kPart cmd) (4 * kN cmd)
      if d.anyBad then (w1.consumed c (kPart cmd) d).finished c cmd 2 d.reason
      else
        let parts := (List.range (kN cmd)).map (fun i => leNat ((d.data.drop (4 * i)).take 4))
        let order := if parts.any (fun p => bitAt p 20) then 0 else kOrder cmd
        let me := parts.getD (kRank cmd) 0
        if kReduces cmd && kDeadline cmd && order != 0 then w1.finished c cmd 1 0x0003
        else if fld me 0 16 ≠ w.self ∨ fld me 16 4 ≠ h then w1.finished c cmd 1 0x0B04
        else if w.dev.coll.runs.has (h * 2 ^ 32 + kId cmd) then w1.finished c cmd 1 0x0B02
        else if w.rd (oHuskCanonicalMode h) = 1 ∧ !bitAt me 20 then w1.finished c cmd 1 0x0B05
        else
          let policy := w.rd (oHuskStragglerPolicy h)
          let dl := if kReduces cmd && kDeadline cmd && policy != 0 then kStart cmd + w.rd (oHuskReduceDeadline h) else 0
          let r1 := { r0 with order := order, parts := parts, deadline := dl, policy := policy, deferMax := w.rd (oHuskDeferMax h),
                              quorum := w.rd (oHuskReduceQuorum h) }
          let w2 := w1.waiting c cmd .coll []
          let w3 := if kReduces cmd then (w2.inc (oLedgerContrib h 0) 1).inc (oLedgerContrib h 1) 1 else w2
          let mineEarly (m : Msg) : Bool := m.dstHusk.toNat == h && m.addr.toNat / 65536 == kId cmd
          let r2 := (w3.dev.coll.early.filter mineEarly).reverse.foldl (fun r m =>
            match rankOf r m.srcNode.toNat m.srcHusk.toNat with
            | some k => decide' r k (fld (leNat m.payload) 0 2, fld (leNat m.payload) 16 16)
            | none => r) r1
          (w3.upColl (fun s => { s with early := s.early.filter (fun m => !mineEarly m) })).collReadySrc r2

/-- Is ring h the one that the engine serves next: the first after the last served with a descriptor to take (R374)? -/
def collTurn (w : World) (e : Fin 2) (h : Fin 16) : Bool :=
  let last := w.dev.coll.served.getD e.val 15
  let ready (k : Nat) : Bool := w.canTake (.coll e (Fin.ofNat 16 k)) && !w.turnShut k
  ((List.range 16).map (fun i => (last + 1 + i) % 16)).find? ready == some h.val

/-- Take the descriptor at the head of a ring when its opcode is `op`: at most 16 run on an engine (R374), none while the
husk's turn stands between drain and release (R390). -/
def collTake (w : World) (e : Fin 2) (h : Fin 16) (op : Nat) : World :=
  let busy := (allHusks.map (fun k => (w.ring (.coll e (Fin.ofNat 16 k))).taken.length)).foldl (· + ·) 0
  if !w.collTurn e h || decide (16 ≤ busy) then w
  else match w.takeEntry (.coll e h) (fun cmd => cmdOp cmd == op) with
    | none => w
    | some (cmd, w1) => (w1.upColl (fun c => { c with served := c.served.put e.val h.val })).collAccept (w1.ctx (.coll e h)) e.val cmd

/-- The running descriptor that an engine's event names. -/
def collOf (w : World) (e h id : Nat) : Option CollRun :=
  match w.collRun (h * 2 ^ 32 + id) with
  | some r => if r.engine = e then some r else none
  | none => none

/-! ### Events of a running descriptor -/

/-- A deadline that has come is decided, R274: a source that is ready by now counts as present. -/
def deadlineNow (w : World) (e h id : Nat) : World :=
  match w.collOf e h id with
  | none => w
  | some r =>
    if r.deadline = 0 ∨ w.now < r.deadline ∨ r.own.isSome then w
    else
      let w1 := if r.ready then w else w.collReadySrc r
      match w1.collOf e h id with
      | none => w1
      | some r1 => let (r2, w2) := w1.deadlineDecide r1; w2.collGo r2

/-- The deadline tick of a reduction, R274 and R382: completion in that tick itself counts as present, so the decision is taken at
its end; a deadline passed is decided at once. -/
def deadlineAt (w : World) (e h id : Nat) : World :=
  match w.collOf e h id with
  | none => w
  | some r =>
    if r.deadline = w.now then w.dueLater (.deadline e h id) else w.deadlineNow e h id

/-- A deferred contribution's fold, R275: each residual becomes bf16_rne(decode(q) × 2^e ⊕ r). -/
def foldAt (w : World) (e h id : Nat) : World :=
  match w.collOf e h id with
  | none => w
  | some r =>
    let ready := kReady r.cmd == 0 || decide (kReadySeq r.cmd ≤ w.vnum r.husk (kReady r.cmd) 8)
    if !r.folding || !ready then w
    else
      let n := kCount r.cmd
      let ((q, _), w1) := w.readVirt r.husk (collMaster r) 1 (kSrc r.cmd) (srcBytes r)
      let ((d, _), w2) := w1.readVirt r.husk (collMaster r) 1 (kResid r.cmd) (2 * n)
      let idx := List.range n
      let vals := idx.map (fun i => bf16Round (((Fmt.g8e.valAt q.data i).add (Fmt.bf16.valAt d.data i)).f32))
      let bad := idx.map (fun i => Fmt.g8e.elemBad q.bad i || Fmt.bf16.elemBad d.bad i)
      let w3 := (w2.writeVirt r.husk (collMaster r) 2 (kResid r.cmd) (rneRow .bf16 vals) (badBytes .bf16 bad (2 * n))).2
      w3.collGo { r with folding := false }

/-- HuskCollTimeout, R384. -/
def collExpire (w : World) (e h id : Nat) : World :=
  match w.collOf e h id with
  | none => w
  | some r =>
    if w.now < r.since + w.rd (oHuskCollTimeout h) then w
    else
      let (r1, w1) := if kReduces r.cmd then w.settleOwn r (3, 0x0B03) else (r, w)
      let all := (List.range r.n).filter (fun k => k != r.rank && !r1.fates.has k)
      let r2 := { r1 with fates := all.foldl (fun m k => m.put k (3, 0x0B03)) r1.fates }
      let (r3, w2) := (r2.expected.filter (fun j => !r2.written.elem j)).foldl (fun (st : CollRun × World) j =>
        if kReduces r.cmd then st.2.deliverShard st.1 j (List.replicate (r.place j).2 0) true 0x0B03
        else st.2.putPiece st.1 j (List.replicate (kCount r.cmd) 0) true 0x0B03) (r2, w1)
      let (r4, w3) := if kReduces r.cmd then w2.closeShards r3 else (r3, w2)
      w3.collEnd r4 2 0x0B03

/-- A ring slot may have come free, R387. -/
def slotFree (w : World) (e h id : Nat) : World :=
  match w.collOf e h id with
  | none => w
  | some r => match r.slot with
    | none => w
    | some (d, bad) =>
      let (r1, w1) := w.putPiece r 0 d bad 0x0010
      w1.collGo r1

/-! ### Chain sets, R78 -/

/-- The rings whose commands the unit u executes, by husk. -/
def chainRings (u : Nat) : List RingRef :=
  let i := masterIndex u
  let at' (s q : Nat) : List RingRef := allHusks.map (fun h => .slice (Fin.ofNat 16 s) (Fin.ofNat 16 q) (Fin.ofNat 16 h))
  match masterType u with
  | 0x1 => at' (i / 8) (i % 8)
  | 0xF => at' i 12
  | 0x5 => at' i 9
  | _ => []

/-- The command of unit u that waits so, with its ring. -/
def chainCmd (w : World) (u : Nat) (wait : Wait) : Option (RingRef × Taken) :=
  (chainRings u).findSome? (fun r => (w.takenWith r wait).map (fun t => (r, t)))

/-- A command that waited for a chain set runs on the oldest set its unit holds. -/
def chainWake (w : World) (u : Nat) : World :=
  if (w.engine u).sets.isEmpty then w
  else match w.chainCmd u .chainIn with
    | none => w
    | some (r, t) =>
      let c := w.ctxOf r t
      let (w1, wait, st, rs, aux) :=
        if masterType u = 1 then
          let (w1, wait, st, rs) := w.underTables r t.cmd t.husk (fun w => w.runProduct c t.cmd t.pieces (fun w => w.anyRows c t.cmd t.aux))
          (w1, wait, st, rs, t.aux)
        else if masterType u = 0xF then
          match (w.imageInfo (t.aux.getD 0 0)).records.find? (fun m => m.id == nMatrix t.cmd) with
          | some m => w.underTables r t.cmd t.husk (fun w => w.nmuRun c t.cmd (t.aux.getD 0 0) m)
          | none => (w, .done, 1, 0x0408, t.aux)
        else w.attnGo c t.cmd
      w1.modTaken r (fun x => x.wait == .chainIn) (fun x => { x with wait := wait, status := st, reason := rs, aux := aux, since := w.now })

/-- The set that the waiting send of a command carries: its bank's running values, or those kept with the command. -/
def chainValues (w : World) (u : Nat) (t : Taken) : ChainSet :=
  let kept (m n : Nat) (l : List Nat) : ChainSet := ⟨u, m, n, l.map keptF32, keptBad l⟩
  if masterType u = 1 then
    let bk := w.bank u (cmdBank t.cmd)
    kept (gM t.cmd) (gN t.cmd) ((List.range (gM t.cmd)).map (fun i => (List.range (gN t.cmd)).map (fun j =>
      keptVal (bk.vals.getD (i * 256 + j) f32Zero, bk.bad.elem (i * 256 + j))))).flatten
  else if masterType u = 0xF then
    kept (nV t.cmd) (64 * (if cmdOp t.cmd = 2 then nTcCount t.cmd else nTrCount t.cmd)) (t.aux.drop 1)
  else
    let vs := t.aux.drop (1 + t.aux.headD 0)
    kept (vs.length / setWidth t.cmd) (setWidth t.cmd) vs

/-- CHAIN_PEER of a command of unit u. -/
def chainPeer (u : Nat) (t : Taken) : Nat := if masterType u = 5 then aPeer t.cmd else gPeer t.cmd

/-- A unit accepts a set: it holds at most two that no command has taken. -/
def acceptSet (w : World) (peer : Nat) (x : ChainSet) : Option World :=
  let en := w.engine peer
  if 2 ≤ en.sets.length then none else some ((w.setEngine peer { en with sets := en.sets ++ [x] }).chainWake peer)

/-- Running values that a CHAIN_LINK received go to its local unit. -/
def linkDeliver (w : World) (r : CollRun) : World :=
  match r.link with
  | none => w
  | some x =>
    match w.acceptSet (kUnit r.cmd) x with
    | none => w
    | some w1 => w1.collGo { r with link := none, sent := setInsert 0 r.sent }

/-- The CHAIN_LINK of a collective engine that takes running values from a local unit. -/
def linkFrom (w : World) (peer unit husk : Nat) : Option CollRun :=
  w.dev.coll.runs.vals.find? (fun r => r.op == 0xA && r.engine == masterIndex peer && kUnit r.cmd == unit && r.husk == husk
    && !r.sent.elem 0 && r.link.isNone)

/-- A set of running values reaches its peer, R78: the sending command completes once it is accepted; a peer whose husk is
in reset or leaving refuses it. A set from a unit that has no send waiting is taken as it stands. -/
def chainArrive (w : World) (peer : Nat) (set : ChainSet) : World :=
  let sender := set.sender
  if masterType sender = 0xA then
    match w.dev.coll.runs.vals.find? (fun r => r.link.isSome && collMaster r == sender && kUnit r.cmd == peer) with
    | some r => w.linkDeliver r
    | none => w
  else
    let give (w : World) (x : ChainSet) (husk : Option Nat) : Option World :=
      if masterType peer = 0xA then
        match w.linkFrom peer sender (husk.getD 0) with
        | none => none
        | some r => some ((w.sendColl r (kRoot r.cmd) 2 0 (leBytes 8 (x.m + x.n * 2 ^ 32) ++ rneRow .f32 x.values) (!x.bad.isEmpty)).collGo
            { r with sent := setInsert 0 r.sent })
      else w.acceptSet peer x
    match w.chainCmd sender .chainOut with
    | some (r, t) =>
      if chainPeer sender t ≠ peer then w
      else if w.huskState t.husk = hsResetting ∨ w.huskState t.husk = hsDisabling then w.finishWait r .chainOut 2 0x0302
      else
        match give w (w.chainValues sender t) (some t.husk) with
        | some w1 => w1.modTaken r (fun x => x.wait == .chainOut) (fun x => { x with wait := .done })
        | none => w
    | none => if masterType peer = 0xA then w else (w.acceptSet peer set).getD w

/-! ### Messages, R389 and R390 -/

/-- DATA for a running descriptor. -/
def collData (w : World) (r : CollRun) (m : Msg) : World :=
  let seg := m.addr.toNat % 65536
  match rankOf r m.srcNode.toNat m.srcHusk.toNat with
  | none => w
  | some k =>
    if kReduces r.cmd then
      if r.written.elem seg then w
      else if r.gathers && r.owner seg == r.rank then
        if r.fates.has k then w
        else
          -- R379: the contribution is held in its staging slot
          let slot := if r.rank < k then k - 1 else k
          let w1 := w.collPut r (kStage r.cmd + 4 * r.elems seg + slot * (r.place seg).2) m.payload m.poisoned
          w1.collGo { r with data := r.data.put k m.payload, came := r.came.put k w.now, owed := { m with payload := [] } :: r.owed, fates := r.fates.put k (if m.poisoned then (3, 0x0502) else (0, 0)) }
      else
        let (r1, w1) := w.deliverShard r seg m.payload m.poisoned 0x0010
        let root := match r.order with
          | 1 => seg
          | 2 => 0
          | _ => r.n - 1
        let w2 := if r.op = 1 then w1.each (r.nexts root false) (fun w x => w.sendColl r x 1 seg m.payload m.poisoned) else w1
        w2.collGo r1
    else
      let piece := if r.op = 3 ∨ r.op = 4 then k else 0
      let w1 := if r.op = 5 ∨ r.op = 7 then w.forwardPiece r m.payload m.poisoned else w
      let (r1, w2) := w1.putPiece r piece m.payload m.poisoned 0x0010
      w2.collGo r1

/-- RUNNING for a running descriptor: values of a chain, or of a CHAIN_LINK with M and N before them. -/
def collRunning (w : World) (r : CollRun) (m : Msg) : World :=
  let seg := m.addr.toNat % 65536
  match rankOf r m.srcNode.toNat m.srcHusk.toNat with
  | none => w
  | some k =>
    if r.op = 0xA then
      let v := leNat (m.payload.take 8)
      let d := m.payload.drop 8
      let vs := (List.range (d.length / 4)).map (fun i => (Fmt.f32.valAt d i).f32)
      let r1 := { r with link := some ⟨collMaster r, fld v 0 32, fld v 32 32, vs, if m.poisoned then List.range vs.length else []⟩ }
      (w.setColl r1).linkDeliver r1
    else
      let f := runFmt r.fmt
      w.collGo { r with tainted := if m.poisoned then setInsert seg r.tainted else r.tainted, running := r.running.put (seg * 65536 + k) ((List.range (r.elems seg)).map (fun i => (f.valAt m.payload i).f32)) }

/-- RECEIPT, R383: the fate that an owner recorded; the rank's own is final when every owner has answered. -/
def collReceipt (w : World) (r : CollRun) (m : Msg) : World :=
  match rankOf r m.srcNode.toNat m.srcHusk.toNat with
  | none => w
  | some k =>
    let v := leNat m.payload
    let r1 := { r with receipts := r.receipts.put k (fld v 0 2, fld v 16 16) }
    if r.own.isNone && r1.owners.all (fun x => r1.receipts.has x) then
      let f := (r1.receipts.vals.find? (fun x => decide (2 ≤ x.1))).getD (fld v 0 2, fld v 16 16)
      let (r2, w1) := w.settleOwn r1 f
      w1.collGo r2
    else w.setColl r1

/-- A source that cannot contribute any more, R383: an owner drops its unsettled contribution with this reason; data that
was complete in the tick at which the source's newer epoch is recorded counts as dropped too, unless its shard is already
summed. A piece of an ALL_GATHER with GF = 1 that has not come gets the reason in its flag (R386). -/
def collLost (w : World) (node husk reason : Nat) : World :=
  w.each (w.dev.coll.runs.items) (fun w p =>
    let r := p.2
    match rankOf r node husk with
    | some k =>
      let late := reason == 0x0303 && r.came.get? k == some w.now && r.written.isEmpty
      if kReduces r.cmd && k != r.rank && r.owners.elem r.rank && (!r.fates.has k || late) then
        w.collGo { r with fates := r.fates.put k (3, reason) }
      else if r.op == 3 && kGf r.cmd && k != r.rank && !r.written.elem k then
        let (r1, w1) := w.putPiece r k (List.replicate (kCount r.cmd) 0) true reason
        w1.collGo r1
      else w
    | none => w)

/-- A reply NACK_GONE, EPOCH_STALE or ROUTE_UNREACHABLE to a collective message of husk h, R275 and R383: the contribution
cannot reach that owner and is dropped; as an owner this rank drops the other's. -/
def collRefused (w : World) (m : Msg) (reason : Nat) : World :=
  let w1 := match w.collRun (m.srcHusk.toNat * 2 ^ 32 + m.addr.toNat / 65536) with
    | some r =>
      if kReduces r.cmd && m.kind == 1#8 && r.own.isNone then
        let (r1, w1) := w.settleOwn r (3, reason)
        (w1.tellOwners r1 (3, reason)).collGo r1
      else w
    | none => w
  w1.collLost m.dest.toNat m.dstHusk.toNat reason

/-- A message refused with COLL_NOT_POSTED will be sent again, R390. -/
def keepResend (w : World) (m : Msg) : World :=
  let engine := match w.collRun (m.srcHusk.toNat * 2 ^ 32 + m.addr.toNat / 65536) with
    | some r => r.engine
    | none => 0
  match w.dev.coll.resends.items.find? (fun p => p.2.msg == m) with
  | some (id, x) => w.upColl (fun c => { c with resends := c.resends.put id { x with refused := true } })
  | none => w.upColl (fun c => { c with resends := c.resends.put c.resends.fresh ⟨m, engine, w.now, w.now, true⟩ })

/-- The 10 µs timer of a refused message, R390: it is sent again whole under a new MSG_SEQ until HuskCollTimeout. -/
def resendOne (w : World) (e id : Nat) : World :=
  match w.dev.coll.resends.get? id with
  | none => w
  | some x =>
    if x.engine ≠ e ∨ !x.refused ∨ w.now < x.last + 1000 then w
    else if x.first + w.rd (oHuskCollTimeout x.msg.srcHusk.toNat) ≤ w.now then w.upColl (fun c => { c with resends := c.resends.del id })
    else
      let (n, w1) := w.newSeq x.msg.dest.toNat x.msg.srcHusk.toNat x.msg.dstHusk.toNat x.msg.vc.toNat
      let m := { x.msg with seq := BitVec.ofNat 32 n }
      let w2 := w1.upColl (fun c => { c with resends := c.resends.put id { x with msg := m, last := w.now, refused := false } })
      ((w2.inc (oCollNotPostedResends e) 1).inc (oCollBytesSent e) m.payload.length).sendMsg m

/-- A husk reset ends its descriptors, R343 and R396: contributions in flight are dropped and counted; contributions
received and not yet answered are answered with NACK_GONE (R369). -/
def collHuskReset (w : World) (h : Nat) : World :=
  let w1 := w.each (w.dev.coll.runs.vals.filter (fun r => r.husk == h && kReduces r.cmd)) (fun w r =>
    let w1 := (w.settleOwn r (3, 0x0302)).2
    if r.allWritten then w1 else w1.each r.owed (fun w m => w.postNack m 0x0302))
  w1.upColl (fun c => { c with runs := c.runs.delIf (fun _ r => r.husk == h),
                               early := c.early.filter (fun m => m.dstHusk.toNat != h),
                               deferrals := c.deferrals.delIf (fun k _ => k / 2 ^ 32 == h),
                               resends := c.resends.delIf (fun _ x => x.msg.srcHusk.toNat == h) })

end World

/-- CHAIN_SET_ARRIVAL, R78. -/
def execChainSetArrival (peer sender : Master) (m n : Nat) (values : List F32) (bad : List Nat) (s : State) : Host.Outcome State Fault Refusal :=
  s.done (fun w => w.chainArrive peer.toNat ⟨sender.toNat, m, n, values, bad⟩)
/-- ALL_REDUCE, R378. -/
def execAllReduce (e : Fin 2) (h : Fin 16) (s : State) : Host.Outcome State Fault Refusal := s.done (fun w => w.collTake e h 1)
/-- REDUCE_SCATTER, R378. -/
def execReduceScatter (e : Fin 2) (h : Fin 16) (s : State) : Host.Outcome State Fault Refusal := s.done (fun w => w.collTake e h 2)
/-- ALL_GATHER, R378. -/
def execAllGather (e : Fin 2) (h : Fin 16) (s : State) : Host.Outcome State Fault Refusal := s.done (fun w => w.collTake e h 3)
/-- ALL_TO_ALL, R378. -/
def execAllToAll (e : Fin 2) (h : Fin 16) (s : State) : Host.Outcome State Fault Refusal := s.done (fun w => w.collTake e h 4)
/-- BROADCAST, R378. -/
def execBroadcast (e : Fin 2) (h : Fin 16) (s : State) : Host.Outcome State Fault Refusal := s.done (fun w => w.collTake e h 5)
/-- REDUCE, R378. -/
def execReduce (e : Fin 2) (h : Fin 16) (s : State) : Host.Outcome State Fault Refusal := s.done (fun w => w.collTake e h 6)
/-- CHAIN_BCAST, R378. -/
def execChainBcast (e : Fin 2) (h : Fin 16) (s : State) : Host.Outcome State Fault Refusal := s.done (fun w => w.collTake e h 7)
/-- SEND, R378. -/
def execSend (e : Fin 2) (h : Fin 16) (s : State) : Host.Outcome State Fault Refusal := s.done (fun w => w.collTake e h 8)
/-- RECV, R378. -/
def execRecv (e : Fin 2) (h : Fin 16) (s : State) : Host.Outcome State Fault Refusal := s.done (fun w => w.collTake e h 9)
/-- CHAIN_LINK, R378. -/
def execChainLink (e : Fin 2) (h : Fin 16) (s : State) : Host.Outcome State Fault Refusal := s.done (fun w => w.collTake e h 10)
/-- COLL_SOURCE_READY, R382. -/
def execCollSourceReady (e : Fin 2) (h : Fin 16) (collId : BitVec 32) (s : State) : Host.Outcome State Fault Refusal :=
  s.done (fun w => match w.collOf e.val h.val collId.toNat with
    | some r => w.collReadySrc r
    | none => w)
/-- REDUCTION_DEADLINE, R274. -/
def execReductionDeadline (e : Fin 2) (h : Fin 16) (collId : BitVec 32) (s : State) : Host.Outcome State Fault Refusal :=
  s.done (fun w => w.deadlineAt e.val h.val collId.toNat)
/-- CONTRIB_FOLD, R275. -/
def execContribFold (e : Fin 2) (h : Fin 16) (collId : BitVec 32) (s : State) : Host.Outcome State Fault Refusal :=
  s.done (fun w => w.foldAt e.val h.val collId.toNat)
/-- RING_SLOT_FREE, R387. -/
def execRingSlotFree (e : Fin 2) (h : Fin 16) (collId : BitVec 32) (s : State) : Host.Outcome State Fault Refusal :=
  s.done (fun w => w.slotFree e.val h.val collId.toNat)
/-- COLL_NOT_POSTED_RESEND, R390. -/
def execCollNotPostedResend (e : Fin 2) (id : Nat) (s : State) : Host.Outcome State Fault Refusal :=
  s.done (fun w => w.resendOne e.val id)
/-- COLL_TIMEOUT, R384. -/
def execCollTimeout (e : Fin 2) (h : Fin 16) (collId : BitVec 32) (s : State) : Host.Outcome State Fault Refusal :=
  s.done (fun w => w.collExpire e.val h.val collId.toNat)

end Sys2Proof.Machine
end

