-- ==== Sys2Proof/Machine/Pips.lean ====
section
/-! DEFINITION. Pips as the block's commands see them (R90 to R96): the Xplaos instructions, traps, waiting and
pre-emption points. -/
namespace Sys2Proof.Machine

/-- A pip with every register 0, running (log entry 13: the spec gives no reset values). -/
def Pip.init : Pip :=
  { x := List.replicate 32 0, f := List.replicate 32 0, v := List.replicate 32 0, pc := 0, fcsr := 0, vl := 0, vtype := 0,
    vstart := 0, mode := 0, mepc := 0, mcause := 0, mtval := 0, mtvec := 0, mstatus := 0, medeleg := 0, stvec := 0, sepc := 0,
    scause := 0, stval := 0, waiting := 0, waitRd := 0, waitA := 0, waitB := 0, waitSince := 0 }

/-- A register of a pip; x0 reads 0. -/
def Pip.getX (p : Pip) (r : Nat) : Word := if r = 0 then 0 else p.x.getD r 0
/-- Write a register; x0 discards writes. -/
def Pip.setX (p : Pip) (r : Nat) (v : Word) : Pip := if r = 0 then p else { p with x := p.x.set r v }
/-- The next instruction. -/
def Pip.next (p : Pip) : Pip := { p with pc := p.pc + 4 }

/-- Slice of a pip, R17. -/
def pipSlice (p : Nat) : Nat := p / 256
/-- Cluster identifier of a pip, R17 and R98. -/
def pipCluster (p : Nat) : Nat := p / 32

namespace World

/-- A pip. -/
def pip (w : World) (p : Nat) : Pip := w.dev.pips.getD p Pip.init
/-- Set a pip. -/
def setPip (w : World) (p : Nat) (x : Pip) : World := { w with dev := { w.dev with pips := w.dev.pips.put p x } }
/-- The husk whose program runs on the pip: the one that runs on its slice. -/
def pipHusk (w : World) (p : Nat) : Nat := w.running (pipSlice p)

/-- May the pip execute: an ACTIVE husk runs on its slice (R474 step H2), and it does not wait and has not stopped? -/
def pipRuns (w : World) (p : Nat) : Bool := decide (w.pipHusk p < 16) && w.active (w.pipHusk p) && (w.pip p).waiting == 0

/-- A trap (R90: the exceptions are RISC-V's; entry as the RISC-V privileged architecture has it, PRESUMED, log entry 14). Below
M mode a cause that medeleg names goes to S mode: sepc, scause and stval written, SPP and SPIE saved, SIE cleared, pc at stvec's
base. Any other goes to M mode: mepc, mcause and mtval written, MPP and MPIE saved, MIE cleared, pc at mtvec's base. -/
def trap (w : World) (p cause : Nat) (tval : Word) : World :=
  let x := w.pip p
  let ms := x.mstatus.toNat
  if x.mode < 3 ∧ bitAt x.medeleg.toNat cause then
    let ms1 := setFld (setFld (setFld ms 8 1 x.mode) 5 1 (fld ms 1 1)) 1 1 0
    let y := { x with sepc := x.pc, scause := BitVec.ofNat 64 cause, stval := tval, mode := 1, waiting := 0 }
    w.setPip p { y with mstatus := BitVec.ofNat 64 ms1, pc := BitVec.ofNat 64 (x.stvec.toNat / 4 * 4) }
  else
    let ms1 := setFld (setFld (setFld ms 11 2 x.mode) 7 1 (fld ms 3 1)) 3 1 0
    let y := { x with mepc := x.pc, mcause := BitVec.ofNat 64 cause, mtval := tval, mode := 3, waiting := 0 }
    w.setPip p { y with mstatus := BitVec.ofNat 64 ms1, pc := BitVec.ofNat 64 (x.mtvec.toNat / 4 * 4) }

/-- What a read of a pip's control and status register gives, by its number: `time` is the timestamp (R27), satp reads 0 (R90), vlenb
is VLEN ÷ 8; the numbers and the view sstatus of mstatus are the RISC-V architecture's (PRESUMED, log entry 14). -/
def pipCsr (w : World) (p n : Nat) : Option Word :=
  let x := w.pip p
  match n with
  | 0xC01 => some (BitVec.ofNat 64 w.now)
  | 0x180 => some 0
  | 0x001 => some (BitVec.ofNat 64 (fld x.fcsr.toNat 0 5))
  | 0x002 => some (BitVec.ofNat 64 (fld x.fcsr.toNat 5 3))
  | 0x003 => some x.fcsr
  | 0x008 => some x.vstart
  | 0xC20 => some x.vl
  | 0xC21 => some x.vtype
  | 0xC22 => some 64
  | 0x100 => some (x.mstatus &&& 0x122#64)
  | 0x105 => some x.stvec
  | 0x141 => some x.sepc
  | 0x142 => some x.scause
  | 0x143 => some x.stval
  | 0x300 => some x.mstatus
  | 0x302 => some x.medeleg
  | 0x305 => some x.mtvec
  | 0x341 => some x.mepc
  | 0x342 => some x.mcause
  | 0x343 => some x.mtval
  | _ => none

/-- An instruction returns a value in rd and moves on. -/
def ret (w : World) (p rd : Nat) (v : Word) : World := w.setPip p (((w.pip p).setX rd v).next)

/-- The ring that a queue operand names for husk h: slice in [7:4], queue in [3:0], every other bit 0 (R91). -/
def queueOperand (v : Word) (h : Fin 16) : Option RingRef :=
  if v.toNat < 256 then some (.slice (Fin.ofNat 16 (v.toNat / 16)) (Fin.ofNat 16 (v.toNat % 16)) h) else none

/-- May the pip's husk use the queue: a slice it may run on for queues 0 to 8, its own slice for 9 to 14 (R91, R334)? -/
def queueUsable (w : World) (r : RingRef) : Bool :=
  match r with
  | .slice s q h => decide (q.val < 15) && (if q.val < 9 then w.mayRun h.val s.val else w.ownerOf s.val == some h.val)
  | _ => false

/-- The stores that a pip made earlier become visible to every reader of memory, R92: what its cluster holds modified goes to
memory (log entry 51); a host line goes when its port carries it. -/
def storesVisible (w : World) (p : Nat) : World :=
  w.each (w.dev.coh.copies.items.filter (fun x => x.1 % 128 == pipCluster p && x.2.state == .m)) (fun w x =>
    match regionOf (x.1 / 128 * 64) with
    | .tier3 port => if w.portCarries port then w.storeLine (x.1 / 128) x.2.bytes x.2.key else w
    | _ => w.storeLine (x.1 / 128) x.2.bytes x.2.key)

/-- xq.push, R91 and R92; a push refused counts in REFUSED (R81). -/
def xqPush (w : World) (p rd rs1 rs2 : Nat) : World :=
  let x := w.pip p
  let h := Fin.ofNat 16 (w.pipHusk p)
  let m := masterId 0x2 p
  let ((d, ok), w1) := (w.storesVisible p).pipRead p h.val (x.getX rs2).toNat 128 .rd 1
  if !ok then w1.trap p 5 (x.getX rs2)
  else match queueOperand (x.getX rs1) h with
    | none => w1.ret p rd (BitVec.ofInt 64 (-2))
    | some r =>
      let q := w1.ring r
      let refuse (w : World) (v : Int) : World :=
        (w.setRing r { w.ring r with refused := Nat.min 0xFFFF ((w.ring r).refused + 1) }).ret p rd (BitVec.ofInt 64 v)
      if !w1.queueUsable r || !q.enable then refuse w1 (-2)
      else if q.producer then refuse w1 (-3)
      else if q.dist (q.tail + 1) q.head = 0 then refuse w1 (-1)
      else
        let (wrote, w2) := w1.writeVirt h.val m 2 (q.qbase + 128 * q.tail) d.data d.bad
        if wrote then (w2.setRing r { w2.ring r with tail := (q.tail + 1) % q.size }).ret p rd (BitVec.ofNat 64 q.tail)
        else refuse w2 (-2)

/-- Is a completion record present? -/
def recordPresent (w : World) (r : RingRef) : Bool := (w.ring r).cqhead != (w.ring r).cqtail

/-- xq.poll, R91: the record's first eight bytes, or all ones; all ones also on a queue that the pip may not use (log entry 151). -/
def xqPoll (w : World) (p rd rs1 : Nat) : World :=
  let x := w.pip p
  let h := Fin.ofNat 16 (w.pipHusk p)
  match queueOperand (x.getX rs1) h with
  | none => w.ret p rd (BitVec.allOnes 64)
  | some r =>
    let q := w.ring r
    if !w.queueUsable r || !w.recordPresent r then w.ret p rd (BitVec.allOnes 64)
    else
      let va := q.cqbase + 16 * q.cqhead
      let ((d, ok), w1) := w.readVirt h.val (masterId 0x2 p) 1 va 8
      if !ok then w1.trap p 5 (BitVec.ofNat 64 va)
      else (w1.setRing r { w1.ring r with cqhead := (q.cqhead + 1) % q.size }).ret p rd (BitVec.ofNat 64 d.nat)

/-- Begin a wait: kind, rd, operand and limit (R91, R94). -/
def beginWait (w : World) (p kind rd a b : Nat) : World :=
  w.setPip p { w.pip p with waiting := kind, waitRd := rd, waitA := a, waitB := b, waitSince := w.now }

/-- End a wait with a value in rd. -/
def endWait (w : World) (p : Nat) (v : Word) : World :=
  (w.setPip p { w.pip p with waiting := 0 }).ret p (w.pip p).waitRd v

/-- The ring a waiting pip waits on. -/
def waitRing (w : World) (p a : Nat) : Option RingRef := queueOperand (BitVec.ofNat 64 a) (Fin.ofNat 16 (w.pipHusk p))

/-- Has the queue of the operand a completion record? -/
def waitRecord (w : World) (p a : Nat) : Bool :=
  match w.waitRing p a with
  | some r => w.queueUsable r && w.recordPresent r
  | none => false

/-- Key of a husk's barrier. -/
def barrierKey (h b : Nat) : Nat := h * 64 + b
/-- A barrier. -/
def barrier (w : World) (h b : Nat) : Barrier := w.dev.barriers.getD (barrierKey h b) ⟨0, 0, 0⟩
/-- Set a barrier. -/
def setBarrier (w : World) (h b : Nat) (x : Barrier) : World :=
  { w with dev := { w.dev with barriers := w.dev.barriers.put (barrierKey h b) x } }

/-- rd takes a value that the spec does not state (log entry 15). -/
def retFree (w : World) (p rd : Nat) : World :=
  let (n, w1) := w.fresh
  w1.ret p rd (Config.freeWord n)

/-- xb.init, R91. -/
def xbInit (w : World) (p rd rs1 rs2 : Nat) : World :=
  let b := ((w.pip p).getX rs1).toNat
  let n := ((w.pip p).getX rs2).toNat
  let h := w.pipHusk p
  if 64 ≤ b ∨ n = 0 ∨ 4096 < n then w.retFree p rd
  else if (w.barrier h b).arrivals ≠ 0 then w.ret p rd (BitVec.ofInt 64 (-1))
  else (w.setBarrier h b ⟨n, 0, 0⟩).ret p rd 0

/-- xb.arrive, R91 and R93: the count-th arrival completes the generation. -/
def xbArrive (w : World) (p rd rs1 : Nat) : World :=
  let b := ((w.pip p).getX rs1).toNat
  let h := w.pipHusk p
  if 64 ≤ b then w.retFree p rd
  else
    let x := w.barrier h b
    let y : Barrier := if x.arrivals + 1 = x.count then { x with arrivals := 0, gen := (x.gen + 1) % 2 ^ 64 } else { x with arrivals := x.arrivals + 1 }
    (w.setBarrier h b y).ret p rd (BitVec.ofNat 64 x.gen)

/-- xb.wait, R91. -/
def xbWait (w : World) (p rd rs1 rs2 : Nat) : World :=
  let b := ((w.pip p).getX rs1).toNat
  let lim := ((w.pip p).getX rs2).toNat
  if 64 ≤ b then w.retFree p rd
  else if lim < (w.barrier (w.pipHusk p) b).gen then w.ret p rd (BitVec.ofNat 64 (w.barrier (w.pipHusk p) b).gen)
  else w.beginWait p 2 rd b lim

/-- The scratch word that an xe instruction names, or the cause of its fault: misaligned 6 or 4 (PRESUMED), not
scratch or not translated 7 or 5. -/
def scratchWord (w : World) (p va : Nat) (need : Need) : Option Nat × World :=
  let (o, w1) := w.reach (w.pipHusk p) (masterId 0x2 p) 3 need va
  match o with
  | none => (none, w1)
  | some (pa, _) => match regionOf pa with
    | .scratch _ => (some pa, w1)
    | _ => (none, w1)

/-- xe.add, R91: an atomic addition on an 8-byte scratch word. -/
def xeAdd (w : World) (p rd rs1 rs2 : Nat) : World :=
  let va := (w.pip p).getX rs1
  let n := ((w.pip p).getX rs2).toNat
  if va.toNat % 8 ≠ 0 then w.trap p 6 va
  else match w.scratchWord p va.toNat .atomic with
    | (none, w1) => w1.trap p 7 va
    | (some pa, w1) =>
      let old := w1.num pa 8
      let bad := w1.poisoned pa
      (w1.writeStored pa (leBytes 8 ((old + n) % 2 ^ 64)) (List.replicate 8 bad) 0).ret p rd (BitVec.ofNat 64 old)

/-- xe.wait, R91: until the word, unsigned, is at least rs2. -/
def xeWait (w : World) (p rd rs1 rs2 : Nat) : World :=
  let va := (w.pip p).getX rs1
  let lim := ((w.pip p).getX rs2).toNat
  if va.toNat % 8 ≠ 0 then w.trap p 4 va
  else match w.scratchWord p va.toNat .rd with
    | (none, w1) => w1.trap p 5 va
    | (some pa, w1) =>
      let v := w1.num pa 8
      if lim ≤ v then w1.ret p rd (BitVec.ofNat 64 v) else w1.beginWait p 3 rd pa lim

/-- Is pre-emption pending on the pip's slice (R96, R338)? -/
def preemptPending (w : World) (s : Nat) : Bool :=
  match w.dev.cycle.changes.get? s with
  | some ch => decide (ch.out < 16) && !ch.saved && w.running s == ch.out
  | none => false

/-- Base of the save area of husk h for slice s, R341. -/
def saveBase (h s : Nat) : Nat := (if s < 8 then 0x12FA0000000 else 0x15FA0000000) + (h * 8 + s % 8) * 0xC00000

/-- Write bytes into a save area, encrypted with the husk's key (R331, R341). -/
def saveBytes (w : World) (h a : Nat) (data : List Byte) : World :=
  w.writeStored a data (List.replicate data.length false) (w.huskKey h)

/-- The registers of a pip that the live masks name, the others +0 (R95, R339), as the save area lays them out; the flags
word, whose content R341 does not give, holds the privilege mode (log entry 33). -/
def pipImage (x : Pip) (m1 m2 : Nat) : List Byte :=
  ((List.range 32).map (fun i => leBytes 8 (if bitAt m1 i then (x.getX i).toNat else 0))).flatten
    ++ ((List.range 32).map (fun i => leBytes 8 (if bitAt m1 (32 + i) then (x.f.getD i 0).toNat else 0))).flatten
    ++ ((List.range 32).map (fun i => leBytes 64 (if bitAt m2 i then (x.v.getD i 0).toNat else 0))).flatten
    ++ ([x.pc.toNat, x.fcsr.toNat, x.vl.toNat, x.vtype.toNat, x.vstart.toNat, m1, m2, x.mode].map (leBytes 8)).flatten

/-- Save a pip and stop it, R95, R96, R341. -/
def savePip (w : World) (p m1 m2 : Nat) : World :=
  let h := w.pipHusk p
  let s := pipSlice p
  let x := w.pip p
  let w1 := w.saveBytes h (saveBase h s + 0x1000 + p % 256 * 2624) (pipImage x m1 m2)
  let live := (bitsOf (m2 >>> 32) 16).foldl (fun l k => setInsert (s * 16 + k) l) w1.dev.cycle.live
  let w2 := { w1 with dev := { w1.dev with cycle := { w1.dev.cycle with live := live } } }
  w2.setPip p { x with waiting := 4 }

/-- xp.point, R96: nothing unless pre-emption is pending; then what the masks name is saved and the pip stops. -/
def xpPoint (w : World) (p rs1 rs2 : Nat) : World :=
  let x := w.pip p
  if w.preemptPending (pipSlice p) then
    (w.setPip p x.next).savePip p (x.getX rs1).toNat (x.getX rs2).toNat
  else w.setPip p x.next

/-- A waiting pip wakes when its condition is true, R94. -/
def waitWake (w : World) (p : Nat) : World :=
  let x := w.pip p
  match x.waiting with
  | 1 => if w.waitRecord p x.waitA then w.endWait p 1 else w
  | 2 =>
    let g := (w.barrier (w.pipHusk p) x.waitA).gen
    if x.waitB < g then w.endWait p (BitVec.ofNat 64 g) else w
  | 3 =>
    let v := w.num x.waitA 8
    if x.waitB ≤ v then w.endWait p (BitVec.ofNat 64 v) else w
  | _ => w

/-- xq.wait, R91; on a queue that the pip may not use there is no record, and the wait runs to its timeout (log entry 151). -/
def xqWait (w : World) (p rd rs1 rs2 : Nat) : World :=
  let a := ((w.pip p).getX rs1).toNat
  if w.waitRecord p a then w.ret p rd 1 else w.beginWait p 1 rd a ((w.pip p).getX rs2).toNat

/-- xq.wait's ticks have passed, R91. -/
def xqWaitTimeout (w : World) (p : Nat) : World :=
  let x := w.pip p
  if x.waiting = 1 ∧ x.waitSince + x.waitB ≤ w.now then w.endWait p 0 else w

end World

/-- funct7 and funct3 of the Xplaos instructions, R91. -/
def xplaosListed (insn : Nat) : Bool :=
  let f7 := fld insn 25 7
  let f3 := fld insn 12 3
  (f3 == 0 && decide (f7 ≤ 2)) || (f3 == 1 && decide (f7 ≤ 2)) || (f3 == 2 && decide (f7 ≤ 1)) || (f3 == 3 && f7 == 0 && fld insn 7 5 == 0)

/-- XQ_PUSH, R92. -/
def execXqPush (pip : Fin 4096) (rd rs1 rs2 : Fin 32) (s : State) : Host.Outcome State Fault Refusal :=
  s.done (fun w => if w.pipRuns pip.val then w.xqPush pip.val rd.val rs1.val rs2.val else w)

/-- XQ_POLL, R91. -/
def execXqPoll (pip : Fin 4096) (rd rs1 : Fin 32) (s : State) : Host.Outcome State Fault Refusal :=
  s.done (fun w => if w.pipRuns pip.val then w.xqPoll pip.val rd.val rs1.val else w)

/-- XQ_WAIT, R91. -/
def execXqWait (pip : Fin 4096) (rd rs1 rs2 : Fin 32) (s : State) : Host.Outcome State Fault Refusal :=
  s.done (fun w => if w.pipRuns pip.val then w.xqWait pip.val rd.val rs1.val rs2.val else w)

/-- XB_INIT, R91. -/
def execXbInit (pip : Fin 4096) (rd rs1 rs2 : Fin 32) (s : State) : Host.Outcome State Fault Refusal :=
  s.done (fun w => if w.pipRuns pip.val then w.xbInit pip.val rd.val rs1.val rs2.val else w)

/-- XB_ARRIVE, R91 and R93. -/
def execXbArrive (pip : Fin 4096) (rd rs1 : Fin 32) (s : State) : Host.Outcome State Fault Refusal :=
  s.done (fun w => if w.pipRuns pip.val then w.xbArrive pip.val rd.val rs1.val else w)

/-- XB_WAIT, R91. -/
def execXbWait (pip : Fin 4096) (rd rs1 rs2 : Fin 32) (s : State) : Host.Outcome State Fault Refusal :=
  s.done (fun w => if w.pipRuns pip.val then w.xbWait pip.val rd.val rs1.val rs2.val else w)

/-- XE_ADD, R91. -/
def execXeAdd (pip : Fin 4096) (rd rs1 rs2 : Fin 32) (s : State) : Host.Outcome State Fault Refusal :=
  s.done (fun w => if w.pipRuns pip.val then w.xeAdd pip.val rd.val rs1.val rs2.val else w)

/-- XE_WAIT, R91. -/
def execXeWait (pip : Fin 4096) (rd rs1 rs2 : Fin 32) (s : State) : Host.Outcome State Fault Refusal :=
  s.done (fun w => if w.pipRuns pip.val then w.xeWait pip.val rd.val rs1.val rs2.val else w)

/-- XP_POINT, R96. -/
def execXpPoint (pip : Fin 4096) (rs1 rs2 : Fin 32) (s : State) : Host.Outcome State Fault Refusal :=
  s.done (fun w => if w.pipRuns pip.val then w.xpPoint pip.val rs1.val rs2.val else w)

/-- WAIT_WAKE, R94. -/
def execWaitWake (pip : Fin 4096) (s : State) : Host.Outcome State Fault Refusal :=
  s.done (fun w => w.waitWake pip.val)

/-- XQ_WAIT_TIMEOUT, R91. -/
def execXqWaitTimeout (pip : Fin 4096) (s : State) : Host.Outcome State Fault Refusal :=
  s.done (fun w => w.xqWaitTimeout pip.val)

/-- ILLEGAL_INSTRUCTION, R90 and R91: the RISC-V illegal-instruction exception, cause 2 (log entry 14). -/
def execIllegalInstruction (pip : Fin 4096) (insn : BitVec 32) (s : State) : Host.Outcome State Fault Refusal :=
  s.done (fun w =>
    if w.pipRuns pip.val && !(fld insn.toNat 0 7 == 0b0001011 && xplaosListed insn.toNat) then
      w.trap pip.val 2 (insn.zeroExtend 64)
    else w)

end Sys2Proof.Machine
end

