-- ==== Sys2Proof/Machine/Vector.lean ====
section
/-! DEFINITION. Vector-engine commands (R88, R89, R51, R227 to R231). Every command has one shape: check the fields and
addresses, read the operands it uses, compute the rows of z in FP32, and write them in FMT_Z with ROUND. -/
namespace Sys2Proof.Machine

/-! ### Fields of the command, R89 -/

def vRows (c : Nat) : Nat := fld c 64 24
def vCols (c : Nat) : Nat := fld c 88 24
def vFmtX (c : Nat) : Option Fmt := Fmt.ofCode (fld c 8 4)
def vFmtY (c : Nat) : Option Fmt := Fmt.ofCode (fld c 12 4)
def vFmtZ (c : Nat) : Option Fmt := Fmt.ofCode (fld c 16 4)
def vRound (c : Nat) : Nat := fld c 20 2
def vAddrX (c : Nat) : Nat := fld c 128 48
def vLdx (c : Nat) : Nat := fld c 112 16
def vAddrY (c : Nat) : Nat := fld c 192 48
def vLdy (c : Nat) : Nat := fld c 176 16
def vAddrZ (c : Nat) : Nat := fld c 256 48
def vLdz (c : Nat) : Nat := fld c 240 16
def vImm0 (c : Nat) : Nat := fld c 320 32
def vImm1 (c : Nat) : Nat := fld c 352 32

/-- The RSVD bits of R89 that must be 0. -/
def vReserved (c : Nat) : Bool := rsvd c 640 384 && rsvd c 600 40 && rsvd c 568 8 && rsvd c 304 16 && rsvd c 22 26

/-- What a vector command reads and writes: its operands and the shape of z. -/
structure VShape where
  x : Bool
  y : Bool
  zin : Bool
  /-- y and x are rows of this many elements -/
  xCols : Nat
  yRows : Nat
  yCols : Nat
  zRows : Nat
  zCols : Nat
  /-- z is written as U32 (ROW_ARGMAX) -/
  zU32 : Bool
  /-- y holds U32 indices (GATHER, SCATTER_ADD) -/
  yU32 : Bool
  deriving DecidableEq, Repr

/-- Elementwise: x, perhaps y, z of the same shape. -/
def VShape.elem (c : Nat) (y : Bool) : VShape := ⟨true, y, false, vCols c, vRows c, vCols c, vRows c, vCols c, false, false⟩
/-- One result per row of x. -/
def VShape.reduce (c : Nat) (u32 : Bool) : VShape := ⟨true, false, false, vCols c, 0, 0, vRows c, 1, u32, false⟩

/-- Rows of z before conversion: values and poison. -/
abbrev ZRows := List (List Val × List Bool)

/-- The operands as read. -/
structure VIn where
  x : List Row
  y : List Row
  z : List Row
  deriving DecidableEq, Repr

/-- U32 operands and results pass through the FP32-sized slot unconverted: 4-byte integers. -/
def u32Row (r : Rd) (n : Nat) : Row :=
  ⟨(List.range n).map (fun i => .fin false (leNat ((r.data.drop (4 * i)).take 4)) 0),
   (List.range n).map (fun i => ((r.bad.drop (4 * i)).take 4).any id), r.origins⟩

/-- The natural number of an index value. -/
def valNat : Val → Nat
  | .fin _ m e => if 0 ≤ e then m <<< e.toNat else m >>> (-e).toNat
  | _ => 0

namespace World

/-- The field and format checks common to every vector command, in order; `immOk` is the operation's check of IMM1. ROUND 2 is
accepted of every vector command (log entry 145). -/
def veFieldFail (c : Nat) (sh : VShape) (immOk : Bool) : Option Nat :=
  firstFail [
    (vReserved c, 0x0003), (vRound c != 3, 0x0003), (vRows c != 0 && vCols c != 0, 0x0003), (immOk, 0x0003),
    (!sh.x || (match vFmtX c with
      | some f => f != .g8e
      | none => false), 0x0003),
    (!sh.y || sh.yU32 || (match vFmtY c with
      | some f => f != .g8e
      | none => false), 0x0003),
    (sh.zU32 || (match vFmtZ c with
      | some f => !(sh.zin && f == .g8e)
      | none => false), 0x0003)]

/-- The addresses of a vector command, R75 and R89. -/
def veAddrOk (w : World) (c : Ctx) (cmd : Nat) (sh : VShape) : Bool :=
  let fx := (vFmtX cmd).getD .f32
  let fy := if sh.yU32 then .f32 else (vFmtY cmd).getD .f32
  let fz := if sh.zU32 then .f32 else (vFmtZ cmd).getD .f32
  (!sh.x || w.operandOk c fx (vAddrX cmd) (vLdx cmd) (vRows cmd) sh.xCols .rd)
    && (!sh.y || w.operandOk c fy (vAddrY cmd) (vLdy cmd) sh.yRows sh.yCols .rd)
    && (!sh.zin || w.operandOk c fz (vAddrZ cmd) (vLdz cmd) sh.zRows sh.zCols .rd)
    && w.operandOk c fz (vAddrZ cmd) (vLdz cmd) sh.zRows sh.zCols .wr

/-- The ranges that this check walks. -/
def veSpans (cmd : Nat) (sh : VShape) : List Span :=
  let fz := if sh.zU32 then .f32 else (vFmtZ cmd).getD .f32
  (if sh.x then operandSpans ((vFmtX cmd).getD .f32) (vAddrX cmd) (vLdx cmd) (vRows cmd) sh.xCols .rd else [])
    ++ (if sh.y then operandSpans (if sh.yU32 then .f32 else (vFmtY cmd).getD .f32) (vAddrY cmd) (vLdy cmd) sh.yRows sh.yCols .rd else [])
    ++ (if sh.zin then operandSpans fz (vAddrZ cmd) (vLdz cmd) sh.zRows sh.zCols .rd else [])
    ++ operandSpans fz (vAddrZ cmd) (vLdz cmd) sh.zRows sh.zCols .wr

/-- Write the rows of z, R77, R523 and R51. -/
def veWrite (w : World) (c : Ctx) (cmd : Nat) (sh : VShape) (z : ZRows) : World :=
  w.each ((List.range z.length).zip z) (fun w p =>
    let va := vAddrZ cmd + p.1 * vLdz cmd * 32
    if sh.zU32 then
      let data := (p.2.1.map (fun v => leBytes 4 (valNat v))).flatten
      let bb := (p.2.2.map (fun b => List.replicate 4 b)).flatten
      (w.writeVirt c.husk c.master 2 va (maskBad va data bb) bb).2
    else
      w.writeRow c ((vFmtZ cmd).getD .f32) va p.2.1 p.2.2
        (World.rowRounds c (vRound cmd) (gStream cmd) (gCtr cmd + (gRow0 cmd + p.1) * gLdlog cmd + gCol0 cmd) p.2.1.length))

/-- Read the operands. -/
def veRead (w : World) (c : Ctx) (cmd : Nat) (sh : VShape) : VIn × World :=
  let (x, w1) := if sh.x then w.readRows c ((vFmtX cmd).getD .f32) (vAddrX cmd) (vLdx cmd) (vRows cmd) sh.xCols else ([], w)
  let (y, w2) :=
    if !sh.y then ([], w1)
    else if sh.yU32 then
      let ((r, ok), w2) := w1.readVirt c.husk c.master 1 (vAddrY cmd) (4 * sh.yCols)
      ([u32Row r sh.yCols], if ok then w2.consumed c (vAddrY cmd) r else w2)
    else w1.readRows c ((vFmtY cmd).getD .f32) (vAddrY cmd) (vLdy cmd) sh.yRows sh.yCols
  let (z, w3) := if sh.zin then w2.readRows c ((vFmtZ cmd).getD .f32) (vAddrZ cmd) (vLdz cmd) sh.zRows sh.zCols else ([], w2)
  (⟨x, y, z⟩, w3)

/-- A vector command taken: checks, operands, rows of z, completion. -/
def veTake (w : World) (c : Ctx) (cmd : Nat) (sh : VShape) (immOk : Bool) (f : World → VIn → ZRows) : World :=
  match veFieldFail cmd sh immOk with
  | some r => w.finished c cmd 1 r
  | none =>
    if !w.veAddrOk c cmd sh then w.rejected c cmd 0x0004 (veSpans cmd sh)
    else
      let (i, w1) := w.veRead c cmd sh
      let z := f w1 i
      let w2 := w1.veWrite c cmd sh z
      let bad := z.any (fun r => r.2.any id)
      let (st, rs) := poisonOutcome bad (rowsOrigins i.x ++ rowsOrigins i.y ++ rowsOrigins i.z)
      w2.finished c cmd st rs

end World

/-- The ring serves a vector engine. -/
def isVectorRing : RingRef → Bool
  | .slice _ q _ => q.val == 8
  | .filler _ u => u.val == 8
  | .coll _ _ => false

/-- Run a vector row of the table: the command at the head has this opcode and selector. -/
def veRow (r : RingRef) (want : Nat → Bool) (f : World → Ctx → Nat → World) (w : World) : World :=
  if !isVectorRing r then w
  else match w.takeEntry r want with
    | none => w
    | some (cmd, w1) => f w1 (w1.ctx r) cmd

/-- Elementwise on FP32 values: poison where an operand used is poisoned. -/
def vMap (x y : List Row) (f : F32 → F32 → F32) (useY : Bool) : ZRows :=
  ((List.range x.length).zip x).map (fun p =>
    let n := p.2.vals.length
    ((List.range n).map (fun j => valF32 (f (f32At [p.2] 0 j) (if useY then f32At y p.1 j else f32Zero))),
     (List.range n).map (fun j => p.2.bad.getD j false || (useY && badAt y p.1 j))))

/-- One value per row, poisoned when any element of the row is. -/
def vReduce (x : List Row) (f : List Val → Val) : ZRows :=
  x.map (fun r => ([f r.vals], [r.bad.any id]))

/-- A row function, poisoned whole when any element of the row (or of y's row) is. -/
def vRowMap (x y : List Row) (f : List F32 → List F32 → List F32) : ZRows :=
  ((List.range x.length).zip x).map (fun p =>
    let yr := (y[p.1]?).getD ⟨[], [], []⟩
    let out := f (p.2.vals.map Val.f32) (yr.vals.map Val.f32)
    let b := p.2.bad.any id || yr.bad.any id
    (out.map valF32, out.map (fun _ => b)))

/-- Shape and body of an elementwise command. -/
def veElem (useY immOk : Bool) (f : Nat → F32 → F32 → F32) (w : World) (c : Ctx) (cmd : Nat) : World :=
  w.veTake c cmd (VShape.elem cmd useY) immOk (fun _ i => vMap i.x i.y (f cmd) useY)

/-- IMM1 has no bit but bit 0 (R88). -/
def imm1Bit (cmd : Nat) : Bool := decide (vImm1 cmd < 2)
/-- IMM1 bits [1:0] select one of three (R88). -/
def imm1Three (cmd : Nat) : Bool := decide (vImm1 cmd < 3)
/-- Opcode and IMM1 bit 0. -/
def opBit (op b : Nat) (cmd : Nat) : Bool := cmdOp cmd == op && vImm1 cmd % 2 == b
/-- IMM0 and IMM1 as FP32. -/
def imm0F (cmd : Nat) : F32 := BitVec.ofNat 32 (vImm0 cmd)
def imm1F (cmd : Nat) : F32 := BitVec.ofNat 32 (vImm1 cmd)

/-- ADD, R88; the selector 0b11 is rejected here. -/
def execAdd (r : RingRef) (s : State) : Host.Outcome State Fault Refusal :=
  s.done (veRow r (fun c => cmdOp c == 0x10 && (vImm1 c % 4 == 0 || vImm1 c % 4 == 3))
    (fun w c cmd => veElem true (imm1Three cmd) (fun _ x y => f32Add x y) w c cmd))

/-- SUB, R88. -/
def execSub (r : RingRef) (s : State) : Host.Outcome State Fault Refusal :=
  s.done (veRow r (fun c => cmdOp c == 0x10 && vImm1 c % 4 == 1)
    (fun w c cmd => veElem true (imm1Three cmd) (fun _ x y => f32Sub x y) w c cmd))

/-- MUL, R88. -/
def execMul (r : RingRef) (s : State) : Host.Outcome State Fault Refusal :=
  s.done (veRow r (fun c => cmdOp c == 0x10 && vImm1 c % 4 == 2)
    (fun w c cmd => veElem true (imm1Three cmd) (fun _ x y => f32Mul x y) w c cmd))

/-- FMA, R88: x × y + z rounded once; z is read and written. -/
def execFma (r : RingRef) (s : State) : Host.Outcome State Fault Refusal :=
  s.done (veRow r (fun c => cmdOp c == 0x11) (fun w c cmd =>
    w.veTake c cmd { VShape.elem cmd true with zin := true } true (fun _ i =>
      ((List.range i.x.length).zip i.x).map (fun p =>
        ((List.range p.2.vals.length).map (fun j => valF32 (f32Fma (f32At i.x p.1 j) (f32At i.y p.1 j) (f32At i.z p.1 j))),
         (List.range p.2.vals.length).map (fun j => badAt i.x p.1 j || badAt i.y p.1 j || badAt i.z p.1 j))))))

/-- DIV, R88. -/
def execDiv (r : RingRef) (s : State) : Host.Outcome State Fault Refusal :=
  s.done (veRow r (fun c => cmdOp c == 0x12) (veElem true true (fun _ x y => f32Div x y)))

/-- SQRT, R88. -/
def execSqrt (r : RingRef) (s : State) : Host.Outcome State Fault Refusal :=
  s.done (veRow r (opBit 0x13 0) (fun w c cmd => veElem false (imm1Bit cmd) (fun _ x _ => f32Sqrt x) w c cmd))

/-- RSQRT, R88. -/
def execRsqrt (r : RingRef) (s : State) : Host.Outcome State Fault Refusal :=
  s.done (veRow r (opBit 0x13 1) (fun w c cmd => veElem false (imm1Bit cmd) (fun _ x _ => f32Rsqrt x) w c cmd))

/-- MAX, R88. -/
def execMax (r : RingRef) (s : State) : Host.Outcome State Fault Refusal :=
  s.done (veRow r (opBit 0x14 0) (fun w c cmd => veElem true (imm1Bit cmd) (fun _ x y => f32Max x y) w c cmd))

/-- MIN, R88. -/
def execMin (r : RingRef) (s : State) : Host.Outcome State Fault Refusal :=
  s.done (veRow r (opBit 0x14 1) (fun w c cmd => veElem true (imm1Bit cmd) (fun _ x y => f32Min x y) w c cmd))

/-- SCALE_ADD, R88: IMM0 ⊗ x ⊕ IMM1 ⊗ y. -/
def execScaleAdd (r : RingRef) (s : State) : Host.Outcome State Fault Refusal :=
  s.done (veRow r (fun c => cmdOp c == 0x15)
    (veElem true true (fun cmd x y => f32Add (f32Mul (imm0F cmd) x) (f32Mul (imm1F cmd) y))))

/-- EXP, R88 and R63. -/
def execExp (r : RingRef) (s : State) : Host.Outcome State Fault Refusal :=
  s.done (veRow r (opBit 0x20 0) (fun w c cmd => veElem false (imm1Bit cmd) (fun _ x _ => f32Exp x) w c cmd))

/-- LN, R88 and R63. -/
def execLn (r : RingRef) (s : State) : Host.Outcome State Fault Refusal :=
  s.done (veRow r (opBit 0x20 1) (fun w c cmd => veElem false (imm1Bit cmd) (fun _ x _ => f32Ln x) w c cmd))

/-- 1 ⊕ exp_d(−x), the denominator of SIGMOID and SILU (R88). -/
def onePlusExpNeg (x : F32) : F32 := f32Add f32One (f32Exp (f32Neg x))

/-- SIGMOID, R88. -/
def execSigmoid (r : RingRef) (s : State) : Host.Outcome State Fault Refusal :=
  s.done (veRow r (fun c => cmdOp c == 0x21) (veElem false true (fun _ x _ => f32Div f32One (onePlusExpNeg x))))

/-- SILU, R88. -/
def execSilu (r : RingRef) (s : State) : Host.Outcome State Fault Refusal :=
  s.done (veRow r (fun c => cmdOp c == 0x22) (veElem false true (fun _ x _ => f32Div x (onePlusExpNeg x))))

/-- A row rotated by pairs, R88: (x0, x1) by (cosine, sine), each product and each sum rounded to FP32 (log entry 146). An element with no partner is unstated: a free value. -/
def ropeRow (x y : List F32) : List F32 :=
  (List.range x.length).map (fun j =>
    let a (l : List F32) (k : Nat) : F32 := l.getD k f32Zero
    let p := j / 2 * 2
    if x.length ≤ p + 1 then Config.ropeUnpaired (a x j)
    else if j % 2 = 0 then f32Sub (f32Mul (a x p) (a y p)) (f32Mul (a x (p + 1)) (a y (p + 1)))
    else f32Add (f32Mul (a x p) (a y (p + 1))) (f32Mul (a x (p + 1)) (a y p)))

/-- ROPE, R88: poison by pair. -/
def execRope (r : RingRef) (s : State) : Host.Outcome State Fault Refusal :=
  s.done (veRow r (fun c => cmdOp c == 0x23) (fun w c cmd =>
    w.veTake c cmd (VShape.elem cmd true) true (fun _ i =>
      ((List.range i.x.length).zip i.x).map (fun p =>
        let yr := (i.y[p.1]?).getD ⟨[], [], []⟩
        ((ropeRow (p.2.vals.map Val.f32) (yr.vals.map Val.f32)).map valF32,
         (List.range p.2.vals.length).map (fun j =>
           let q := j / 2 * 2
           p.2.bad.getD q false || p.2.bad.getD (q + 1) false || yr.bad.getD q false || yr.bad.getD (q + 1) false))))))

/-- ROW_SUM, R88 and R62. -/
def execRowSum (r : RingRef) (s : State) : Host.Outcome State Fault Refusal :=
  s.done (veRow r (opBit 0x30 0) (fun w c cmd => w.veTake c cmd (VShape.reduce cmd false) (imm1Bit cmd) (fun _ i =>
    vReduce i.x (fun vs => valF32 (canonicalDot f32Zero 0 (vs.map (fun v => (v, Val.fin false 1 0))))))))

/-- The canonical sum of squares of a row, R62. -/
def sumSquares (vs : List Val) : F32 := canonicalDot f32Zero 0 (vs.map (fun v => (v, v)))

/-- ROW_SUMSQ, R88 and R62. -/
def execRowSumsq (r : RingRef) (s : State) : Host.Outcome State Fault Refusal :=
  s.done (veRow r (opBit 0x30 1) (fun w c cmd => w.veTake c cmd (VShape.reduce cmd false) (imm1Bit cmd) (fun _ i =>
    vReduce i.x (fun vs => valF32 (sumSquares vs)))))

/-- ROW_MAX, R88 and R62. -/
def execRowMax (r : RingRef) (s : State) : Host.Outcome State Fault Refusal :=
  s.done (veRow r (opBit 0x31 0) (fun w c cmd => w.veTake c cmd (VShape.reduce cmd false) (imm1Bit cmd) (fun _ i =>
    vReduce i.x (fun vs => valF32 (f32MaxOf (vs.map Val.f32))))))

/-- ROW_ARGMAX, R88 and R62: a U32 whatever FMT_Z holds. -/
def execRowArgmax (r : RingRef) (s : State) : Host.Outcome State Fault Refusal :=
  s.done (veRow r (opBit 0x31 1) (fun w c cmd => w.veTake c cmd (VShape.reduce cmd true) (imm1Bit cmd) (fun _ i =>
    vReduce i.x (fun vs => .fin false (argmaxOf (vs.map Val.f32)) 0))))

/-- RMSNORM, R88: x ⊗ rsqrt(sumsq ⊘ COLS ⊕ IMM0) ⊗ y. -/
def execRmsnorm (r : RingRef) (s : State) : Host.Outcome State Fault Refusal :=
  s.done (veRow r (fun c => cmdOp c == 0x32) (fun w c cmd =>
    w.veTake c cmd (VShape.elem cmd true) true (fun _ i =>
      ((List.range i.x.length).zip i.x).map (fun p =>
        let yr := (i.y[p.1]?).getD ⟨[], [], []⟩
        let k := f32Rsqrt (f32Add (f32Div (sumSquares p.2.vals) (f32OfNat (vCols cmd))) (imm0F cmd))
        let all := p.2.bad.any id
        ((p.2.vals.zip yr.vals).map (fun q => valF32 (f32Mul (f32Mul q.1.f32 k) q.2.f32)),
         (p.2.vals.zip yr.bad).map (fun q => all || q.2))))))

/-- SOFTMAX, R88 and R62. -/
def execSoftmax (r : RingRef) (s : State) : Host.Outcome State Fault Refusal :=
  s.done (veRow r (opBit 0x33 0) (fun w c cmd =>
    w.veTake c cmd (VShape.elem cmd false) (imm1Bit cmd) (fun _ i => vRowMap i.x [] (fun x _ =>
      let (m, t) := logSumParts x
      x.map (fun z => f32Div (f32Exp (f32Sub z m)) t)))))

/-- LOGSOFTMAX, R88 and R62. -/
def execLogsoftmax (r : RingRef) (s : State) : Host.Outcome State Fault Refusal :=
  s.done (veRow r (opBit 0x33 1) (fun w c cmd =>
    w.veTake c cmd (VShape.elem cmd false) (imm1Bit cmd) (fun _ i => vRowMap i.x [] (fun x _ =>
      let (m, t) := logSumParts x
      x.map (fun z => f32Sub (f32Sub z m) (f32Ln t))))))

/-- CONVERT, R88: the exact value, narrowed once into FMT_Z (R47, R53, R523, R51). -/
def execConvert (r : RingRef) (s : State) : Host.Outcome State Fault Refusal :=
  s.done (veRow r (fun c => cmdOp c == 0x40) (fun w c cmd =>
    w.veTake c cmd (VShape.elem cmd false) true (fun _ i => i.x.map (fun r => (r.vals, r.bad)))))

/-- TRANSPOSE, R88: z has COLS rows of ROWS elements. -/
def execTranspose (r : RingRef) (s : State) : Host.Outcome State Fault Refusal :=
  s.done (veRow r (fun c => cmdOp c == 0x42) (fun w c cmd =>
    w.veTake c cmd { VShape.elem cmd false with zRows := vCols cmd, zCols := vRows cmd } true (fun _ i =>
      (List.range (vCols cmd)).map (fun k =>
        (i.x.map (fun r => (r.vals[k]?).getD (.fin false 0 0)), i.x.map (fun r => r.bad.getD k false))))))

/-- GATHER, R88: z row r is x row y[r]; a row that lies outside the slice's scratch rejects the command (R75). -/
def gatherTake (w : World) (c : Ctx) (cmd : Nat) : World :=
  let sh : VShape := ⟨false, true, false, vCols cmd, 1, vRows cmd, vRows cmd, vCols cmd, false, true⟩
  match World.veFieldFail cmd { sh with x := true } true with
  | some r => w.finished c cmd 1 r
  | none =>
    let fx := (vFmtX cmd).getD .f32
    if !w.veAddrOk c cmd sh || vAddrX cmd % 32 != 0 then w.rejected c cmd 0x0004 (World.veSpans cmd sh)
    else
      let (i, w1) := w.veRead c cmd sh
      let idx := ((i.y.map (fun r => r.vals.zip r.bad)).flatten).map (fun p => (valNat p.1, p.2))
      if idx.any (fun p => !p.2 && !w1.inScratch c.husk c.slice (vAddrX cmd + p.1 * vLdx cmd * 32) (fx.rowBytes (vCols cmd)) .rd) then
        w1.rejected c cmd 0x0004 ((idx.filter (fun p => !p.2)).map (fun p => (vAddrX cmd + p.1 * vLdx cmd * 32, fx.rowBytes (vCols cmd), .rd)))
      else
        let (rows, w2) := idx.foldl (fun (st : List Row × World) p =>
          if p.2 then (st.1 ++ [⟨List.replicate (vCols cmd) (.fin false 0 0), List.replicate (vCols cmd) true, []⟩], st.2)
          else
            let (r, w') := st.2.readRow c fx (vAddrX cmd + p.1 * vLdx cmd * 32) (vCols cmd)
            (st.1 ++ [r], w')) ([], w1)
        let w3 := w2.veWrite c cmd sh (rows.map (fun r => (r.vals, r.bad)))
        let (st, rs) := poisonOutcome (rowsBad rows) (rowsOrigins i.y ++ rowsOrigins rows)
        w3.finished c cmd st rs

/-- GATHER, R88. -/
def execGather (r : RingRef) (s : State) : Host.Outcome State Fault Refusal :=
  s.done (veRow r (fun c => cmdOp c == 0x43) gatherTake)

/-- SCATTER_ADD, R88: z row y[r] ⊕= x row r, in ascending r. A row whose index is poisoned changes nothing and the
command ends with STATUS 2 (log entry 11). -/
def scatterTake (w : World) (c : Ctx) (cmd : Nat) : World :=
  let sh : VShape := ⟨true, true, false, vCols cmd, 1, vRows cmd, 0, vCols cmd, false, true⟩
  let fz := (vFmtZ cmd).getD .f32
  match World.veFieldFail cmd { sh with zin := true } true with
  | some r => w.finished c cmd 1 r
  | none =>
    if !w.veAddrOk c cmd sh || vAddrZ cmd % 32 != 0 then w.rejected c cmd 0x0004 (World.veSpans cmd sh)
    else
      let (i, w1) := w.veRead c cmd sh
      let idx := ((i.y.map (fun r => r.vals.zip r.bad)).flatten).map (fun p => (valNat p.1, p.2))
      let zva (k : Nat) : Nat := vAddrZ cmd + k * vLdz cmd * 32
      if idx.any (fun p => !p.2 && !w1.inScratch c.husk c.slice (zva p.1) (fz.rowBytes (vCols cmd)) .wr) then
        w1.rejected c cmd 0x0004 ((idx.filter (fun p => !p.2)).map (fun p => (zva p.1, fz.rowBytes (vCols cmd), .wr)))
      else
        let (w2, bad, os) := ((List.range idx.length).zip idx).foldl (fun (st : World × Bool × List Nat) p =>
          if p.2.2 then (st.1, true, st.2.2)
          else
            let (z, w') := st.1.readRow c fz (zva p.2.1) (vCols cmd)
            let xr := (i.x[p.1]?).getD ⟨[], [], []⟩
            let vals := (List.range (vCols cmd)).map (fun j => valF32 (f32Add (f32At [z] 0 j) (f32At [xr] 0 j)))
            let bs := (List.range (vCols cmd)).map (fun j => z.bad.getD j false || xr.bad.getD j false)
            let w'' := w'.writeRow c fz (zva p.2.1) vals bs
              (World.rowRounds c (vRound cmd) (gStream cmd) (gCtr cmd + (gRow0 cmd + p.2.1) * gLdlog cmd + gCol0 cmd) (vCols cmd))
            (w'', st.2.1 || bs.any id, st.2.2 ++ z.origins)) (w1, false, [])
        let (st, rs) := poisonOutcome bad (rowsOrigins i.x ++ rowsOrigins i.y ++ os)
        w2.finished c cmd st rs

/-- SCATTER_ADD, R88. -/
def execScatterAdd (r : RingRef) (s : State) : Host.Outcome State Fault Refusal :=
  s.done (veRow r (fun c => cmdOp c == 0x44) scatterTake)

/-- One G8E block of R51: scale, element codes and new residuals (BF16 codes). -/
def g8eBlock (g r : List Val) (rs : List Rounding) : Nat × List Nat × List Nat :=
  let v := (g.zip r).map (fun p => f32Add p.1.f32 p.2.f32)
  match blockScale 15 (v.map valF32) with
  | none => (0xFF, v.map (fun _ => 0x7E), v.map (fun _ => 0))
  | some e =>
    let q := ((v.map valF32).zip rs).map (fun p => fmtE5m2.encodeSat p.2 (scaleBy (127 - e).toNat p.1))
    let back (c : Nat) : F32 := (scaleBy (e + 127).toNat (fmtE5m2.decode c)).f32
    ((e + 127).toNat, q, (v.zip q).map (fun p => fmtBf16.encode .rne (valF32 (f32Sub p.1 (back p.2)))))

/-- G8E_QUANT, R51 and R88: the formats are those of R51's pseudocode, any other rejected with 0x0003 (log entry 144); x gradients, y residuals updated in place, z the G8E output; blocks whose scale is 0xFF are
counted for the husk (R280). A block with a poisoned element is written poisoned with its residuals. -/
def g8eTake (w : World) (c : Ctx) (cmd : Nat) : World :=
  let sh := VShape.elem cmd true
  if vFmtX cmd ≠ some .bf16 ∨ vFmtY cmd ≠ some .bf16 ∨ vFmtZ cmd ≠ some .g8e then w.finished c cmd 1 0x0003
  else match World.veFieldFail cmd sh true with
    | some r => w.finished c cmd 1 r
    | none =>
      if !w.veAddrOk c cmd sh || !w.operandOk c .bf16 (vAddrY cmd) (vLdy cmd) (vRows cmd) (vCols cmd) .wr then
        w.rejected c cmd 0x0004 (World.veSpans cmd sh ++ World.operandSpans .bf16 (vAddrY cmd) (vLdy cmd) (vRows cmd) (vCols cmd) .wr)
      else
        let (i, w1) := w.veRead c cmd sh
        let n := vCols cmd
        let nb := (n + 15) / 16
        let (w2, bad) := ((List.range i.x.length).zip i.x).foldl (fun (st : World × Bool) p =>
          let yr := (i.y[p.1]?).getD ⟨[], [], []⟩
          let rs := World.rowRounds c (vRound cmd) (gStream cmd) (gCtr cmd + (gRow0 cmd + p.1) * gLdlog cmd + gCol0 cmd) n
          let blocks := ((chunksOf 16 nb p.2.vals).zip ((chunksOf 16 nb yr.vals).zip (chunksOf 16 nb rs))).map
            (fun b => g8eBlock b.1 b.2.1 b.2.2)
          let eb := (List.range n).map (fun j => p.2.bad.getD j false || yr.bad.getD j false)
          let bb := (List.range n).map (fun j => ((eb.drop (j / 16 * 16)).take 16).any id)
          let groups := chunksOf 32 ((nb + 31) / 32) blocks
          let pad := (List.range 32)
          let data := (groups.map (fun g =>
            pad.map (fun k => BitVec.ofNat 8 (((g[k]?).map (fun b => b.1)).getD 0x7F))
              ++ (pad.map (fun k => leBytes 16 (packBits 8 (((g[k]?).map (fun b => b.2.1)).getD [])))).flatten)).flatten
          let zb := badBytes .g8e bb data.length
          let va := vAddrZ cmd + p.1 * vLdz cmd * 32
          let w' := (st.1.writeVirt c.husk c.master 2 va (maskBad va data zb) zb).2
          let res := ((blocks.map (fun b => (b.2.2.map (fun k => leBytes 2 k)).flatten))).flatten
          let yb := badBytes .bf16 bb res.length
          let yva := vAddrY cmd + p.1 * vLdy cmd * 32
          let w'' := (w'.writeVirt c.husk c.master 2 yva (maskBad yva res yb) yb).2
          (w''.inc (oHuskGradNanBlocks c.husk) (blocks.filter (fun b => b.1 == 0xFF)).length, st.2 || eb.any id)) (w1, false)
        let (st, rs) := poisonOutcome bad (rowsOrigins i.x ++ rowsOrigins i.y)
        w2.finished c cmd st rs

/-- G8E_QUANT, R51. -/
def execG8eQuant (r : RingRef) (s : State) : Host.Outcome State Fault Refusal :=
  s.done (veRow r (fun c => cmdOp c == 0x41) g8eTake)

/-- The generator counter of element (m, n) of a vector command, R54. -/
def vCtr (cmd m n : Nat) : Nat := rngCtr (gStream cmd) (gCtr cmd + (gRow0 cmd + m) * gLdlog cmd + gCol0 cmd + n)

/-- Rows of z filled from the generator, R227. -/
def vGenerate (cmd : Nat) (f : Nat → F32) : ZRows :=
  (List.range (vRows cmd)).map (fun m =>
    ((List.range (vCols cmd)).map (fun n => valF32 (f (vCtr cmd m n))), List.replicate (vCols cmd) false))

/-- The shape of a command that reads nothing. -/
def VShape.gen (c : Nat) : VShape := ⟨false, false, false, vCols c, 0, 0, vRows c, vCols c, false, false⟩

/-- RNG_UNIFORM, R227 and R231. -/
def execRngUniform (r : RingRef) (s : State) : Host.Outcome State Fault Refusal :=
  s.done (veRow r (opBit 0x50 0) (fun w c cmd =>
    w.veTake c cmd (VShape.gen cmd) (decide (vImm1 cmd < 8)) (fun _ _ => vGenerate cmd (fun ctr =>
      let w0 := rngWord 0 (rngBlock c.key ctr)
      if bitAt (vImm1 cmd) 1 then openOf w0 else uniformOf w0))))

/-- A standard normal for a counter by the method of IMM1 bit 2, R228 and R230: none when the ziggurat is exhausted. -/
def normalOf (cmd key ctr : Nat) : Option F32 :=
  if bitAt (vImm1 cmd) 2 then some (boxMuller (rngBlock key ctr)) else ziggurat key ctr

/-- RNG_NORMAL, R228, R230 and R231; exhausted ziggurats give +0 and are counted (R233). -/
def execRngNormal (r : RingRef) (s : State) : Host.Outcome State Fault Refusal :=
  s.done (veRow r (opBit 0x50 1) (fun w c cmd =>
    let key := c.key
    let ok := (World.veFieldFail cmd (VShape.gen cmd) (decide (vImm1 cmd < 8))).isNone && w.veAddrOk c cmd (VShape.gen cmd)
    let lost := ((List.range (vRows cmd)).map (fun m =>
      ((List.range (vCols cmd)).filter (fun n => (normalOf cmd key (vCtr cmd m n)).isNone)).length)).foldl Nat.add 0
    (w.veTake c cmd (VShape.gen cmd) (decide (vImm1 cmd < 8)) (fun _ _ => vGenerate cmd (fun ctr =>
      (normalOf cmd key ctr).getD f32Zero))).when ok (fun w => w.inc (oRngZigguratExhausted c.slice) lost)))

/-- RNG_BERNOULLI, R227: the mask is 1 with probability p. -/
def execRngBernoulli (r : RingRef) (s : State) : Host.Outcome State Fault Refusal :=
  s.done (veRow r (opBit 0x51 0) (fun w c cmd =>
    w.veTake c cmd (VShape.gen cmd) (imm1Bit cmd) (fun _ _ => vGenerate cmd (fun ctr =>
      if stochasticU c.key ctr < vImm0 cmd % 65536 then f32One else f32Zero))))

/-- DROPOUT, R88 and R227: x ⊗ keep ⊗ (1 ⊘ (1 ⊖ p)). -/
def execDropout (r : RingRef) (s : State) : Host.Outcome State Fault Refusal :=
  s.done (veRow r (opBit 0x51 1) (fun w c cmd =>
    w.veTake c cmd (VShape.elem cmd false) (imm1Bit cmd) (fun _ i =>
      let p := vImm0 cmd % 65536
      let k := f32Div f32One (f32Sub f32One ((Val.fin false p (-16)).f32))
      ((List.range i.x.length).zip i.x).map (fun q =>
        ((List.range q.2.vals.length).map (fun n =>
          let keep := if p ≤ stochasticU c.key (vCtr cmd q.1 n) then f32One else f32Zero
          valF32 (f32Mul (f32Mul (f32At [q.2] 0 n) keep) k)), q.2.bad)))))

end Sys2Proof.Machine
end

