-- ==== Sys2Proof/Machine/Cycle.lean ====
section
/-! DEFINITION. The cycle table, pre-emption and the filler queues (R335 to R342). -/
namespace Sys2Proof.Machine

/-! ### Entries of the table, R335 -/

def ceHusk (e : Nat) : Nat := fld e 44 4
def ceDuration (e : Nat) : Nat := fld e 17 17
def ceLead (e : Nat) : Nat := fld e 3 14

/-- Are an entry's own fields valid, R336? -/
def ceValid (e : Nat) : Bool :=
  bitAt e 0 && rsvd e 1 2 && rsvd e 34 7 && rsvd e 42 2 && decide (200 ≤ ceDuration e) && decide (ceDuration e ≤ 100000)
    && decide (ceLead e ≤ 10000)

/-- Words of 8 bytes. -/
def words8 : Nat → List Byte → List Nat
  | 0, _ => []
  | n + 1, l => leNat (l.take 8) :: words8 n (l.drop 8)

/-- Sum of the slots, CyclePeriod. -/
def cyclePeriodOf (t : List Nat) : Nat := (t.map ceDuration).foldl (· + ·) 0

/-- Key of a husk's saved state for a slice. -/
def savedKey (s h : Nat) : Nat := s * 16 + h

/-- Base of a slice's guest window, R335: the top 4 MiB of its scratch. -/
def guestWindow (s : Nat) : Nat := s * 0x4000000 + 0x1C00000
/-- Bytes of a guest window. -/
def guestBytes : Nat := 0x400000

/-- A pip as its image in the save area gives it, R341; the trap registers, which the area does not hold, stay (log
entry 33). -/
def pipOfImage (cur : Pip) (d : List Byte) : Pip :=
  let w8 (o : Nat) : Word := BitVec.ofNat 64 (leNat ((d.drop o).take 8))
  { cur with
    x := (List.range 32).map (fun i => w8 (8 * i)),
    f := (List.range 32).map (fun i => w8 (256 + 8 * i)),
    v := (List.range 32).map (fun i => BitVec.ofNat 512 (leNat ((d.drop (512 + 64 * i)).take 64))),
    pc := w8 2560, fcsr := w8 2568, vl := w8 2576, vtype := w8 2584, vstart := w8 2592,
    mode := (w8 2616).toNat % 4, waiting := 0 }

/-- The rows of a bank as the save area holds them: the values and their poison. -/
def bankImage (x : Bank) : List Byte × List Bool :=
  let idx := List.range 32768
  ((idx.map (fun i => leBytes 4 (x.vals.getD i f32Zero).toNat)).flatten,
   (idx.map (fun i => List.replicate 4 (x.bad.elem i))).flatten)

/-- A bank from its rows in the save area. -/
def bankOfImage (d : List Byte) (bad : List Bool) : Bank :=
  let idx := List.range 32768
  ⟨⟨idx.filterMap (fun i =>
      let v := leNat ((d.drop (4 * i)).take 4)
      if v = 0 then none else some (i, BitVec.ofNat 32 v))⟩,
   idx.filter (fun i => bad.getD (4 * i) false)⟩

namespace World

/-- Change the cycle state. -/
def upCycle (w : World) (f : CycleSt → CycleSt) : World := { w with dev := { w.dev with cycle := f w.dev.cycle } }

/-- May the husk run in a slot on the slice: owner, or guest of a slice with a guest window (R336)? -/
def slotMayRun (w : World) (h s : Nat) : Bool :=
  bitAt (w.rd (oHuskSlices h)) s || (w.rd (oSliceGuestEnable s) == 1 && bitAt (w.rd (oHuskGuestSlices h)) s)

/-- The next table as CycleEntries and CycleTable give it. -/
def nextTable (w : World) : List Nat := words8 (w.rd oCycleEntries) (w.dev.blobs.getD 0x208100 [])

/-- Is a table valid, R336? -/
def tableValid (w : World) (t : List Nat) : Bool :=
  decide (1 ≤ t.length) && decide (t.length ≤ 1024) && t.all ceValid
    && (t.zip (t.drop (t.length - 1) ++ t)).all (fun p => decide (ceLead p.1 ≤ ceDuration p.2))
    && t.all (fun e => (bitsOf (ceMask e) 16).all (fun s => w.slotMayRun (ceHusk e) s))

/-- A write of 1 to CycleCommit, R336. -/
def cycleCommit (w : World) : Nat × World :=
  let t := w.nextTable
  if w.tableValid t then (0, w.upCycle (fun c => { c with next := some (t, w.now + 100000) })) else (0x0A04, w)

/-- The committed table takes effect; its entry 0 starts at this tick, R336. -/
def installTable (w : World) (t : List Nat) (start : Nat) : World :=
  ((w.upCycle (fun c => { c with table := t, next := none, slotStart := start })).wr oCyclePeriod (cyclePeriodOf t)).wr oCycleGeneration
    (fit 32 (w.rd oCycleGeneration + 1))

/-! ### Filler, R342 -/

/-- An engine lent to a filler goes back to its owner: the filler command is discarded and stays in its ring, the
owner's banks are restored. -/
def fillerReturn (w : World) (s unit : Nat) : World :=
  let key := s * 16 + unit
  match w.dev.cycle.lent.get? key with
  | none => w
  | some own =>
    let r : RingRef := .filler (Fin.ofNat 16 s) (Fin.ofNat 9 unit)
    let x := w.ring r
    let busy := x.taken.any (fun t => t.unit == unit)
    -- a take and an owner's doorbell of one tick are ordered with the owner first: nothing was evicted then
    let late := x.taken.any (fun t => t.unit == unit && t.since != w.now)
    let w0 := if busy then w.setRing r { x with taken := x.taken.filter (fun t => t.unit != unit) } else w
    let w1 := if late then w0.inc (oSliceFillerEvictions s) 1 else w0
    let w2 := if unit < 8 then w1.setEngine (masterId 0x1 (s * 8 + unit)) own else w1
    w2.upCycle (fun c => { c with lent := c.lent.del key })

/-- Every lent engine of a slice goes back. -/
def fillersReturn (w : World) (s : Nat) : World := w.each (List.range 9) (fun w u => w.fillerReturn s u)

/-! ### Changes of the running husk, R337 -/

/-- Did a reset of the husk that owns the slice begin in this tick (R35)? -/
def ownerResetNow (w : World) (s : Nat) : Bool :=
  let began (k : Nat) : Bool := match w.dev.resets.seqs.get? k with
    | some r => r.start == w.now
    | none => false
  began 16 || (match w.ownerOf s with
    | some o => began o
    | none => false)

/-- Does a slot of this entry grant the slice: to an ACTIVE husk, unless the boundary is skipped for the slice (R35, R337)? -/
def slotGrants (w : World) (e s : Nat) : Bool := bitAt (ceMask e) s && w.active (ceHusk e) && !w.ownerResetNow s

/-- The husk that a slice is to run in a slot of this entry: the slot's when it grants the slice, else the owner when ACTIVE. -/
def slotHusk (w : World) (e s : Nat) : Nat :=
  if w.slotGrants e s then ceHusk e
  else match w.ownerOf s with
    | some o => if w.active o then o else 0xFF
    | none => 0xFF

/-- A slice is to change to a husk at a tick, a slot's or (grant false) its owner: pre-emption of the husk that runs on it, then
restore. A husk already restored and not yet released is saved again. -/
def requestChange (w : World) (s want start : Nat) (grant : Bool) : World :=
  match w.dev.cycle.changes.get? s with
  | some ch => if ch.incoming = want then w
      else if ch.saved && ch.restored && decide (ch.incoming < 16) then w.upCycle (fun c => { c with
        changes := c.changes.put s ⟨ch.incoming, want, w.now, start, false, decide (16 ≤ want), false, grant⟩ })
      else w.upCycle (fun c => { c with changes := c.changes.put s { ch with incoming := want, restored := decide (16 ≤ want), slotStart := start, grant := grant } })
  | none =>
    let cur := w.running s
    if cur = want then w
    else
      (w.fillersReturn s).upCycle (fun c => { c with
        changes := c.changes.put s ⟨cur, want, w.now, start, decide (16 ≤ cur), decide (16 ≤ want), false, grant⟩ })

/-- Every slice returns to its owner. -/
def ownersReturn (w : World) : World := w.each allSlices (fun w s => w.requestChange s (w.slotHusk 0 s) w.now false)

/-! ### The table in force, R336 -/

/-- A write to CycleEnable, R336: 1 starts the table at CycleStartTick; 0 stops it at the end of the slot (at once when no
slot has started). -/
def cycleEnable (w : World) (v : Nat) : Nat × World :=
  let c := w.dev.cycle
  if v = 0 then
    if w.rd oCycleEnable = 0 then (0, w)
    else if c.armed then
      (0, ((w.wr oCycleEnable 0).upCycle (fun c => { c with armed := false, requested := none })).ownersReturn)
    else (0, w.upCycle (fun c => { c with stopping := true }))
  else if (c.table.isEmpty && c.next.isNone) || decide (w.rd oCycleStartTick < w.now + 100000) then (0x0A04, w)
  else if w.rd oCycleEnable = 1 then (0, w.upCycle (fun c => { c with stopping := false }))
  else
    let start := w.rd oCycleStartTick
    let w1 := match c.next with
      | some (t, _) => w.installTable t start
      | none => w.upCycle (fun c => { c with slotStart := start })
    (0, (w1.wr oCycleEnable 1).upCycle (fun c => { c with armed := true, stopping := false }))

/-- End tick of the slot in force. -/
def slotEnd (w : World) : Nat :=
  w.dev.cycle.slotStart + ceDuration (w.dev.cycle.table.getD (w.rd oCycleCurrentSlot) 0)

/-- Does the committed table take effect at the end of the slot in force, R336? -/
def tableDue (w : World) : Option (List Nat) :=
  let c := w.dev.cycle
  match c.next with
  | none => none
  | some (t, from') =>
    if w.rd oCycleEnable = 1 ∧ !c.armed ∧ w.rd oCycleCurrentSlot + 1 = c.table.length ∧ from' ≤ w.slotEnd then some t else none

/-- The next slot: its entry and start tick. -/
def nextSlot (w : World) : Option (Nat × Nat) :=
  let c := w.dev.cycle
  if w.rd oCycleEnable = 0 ∨ c.stopping then none
  else if c.armed then (c.table[0]?).map (fun e => (e, c.slotStart))
  else match w.tableDue with
    | some t => (t[0]?).map (fun e => (e, w.slotEnd))
    | none => (match c.table[w.rd oCycleCurrentSlot + 1]? with
      | some e => some (e, w.slotEnd)
      | none => (c.table[0]?).map (fun e => (e, w.slotEnd)))

/-- Rings of queues 0 to 8 of a husk on a slice. -/
def enginesOf (s h : Nat) : List RingRef :=
  (List.range 9).map (fun q => .slice (Fin.ofNat 16 s) (Fin.ofNat 16 q) (Fin.ofNat 16 h))

/-- Pips of the slice that have executed. -/
def pipsOf (w : World) (s : Nat) : List Nat := (w.dev.pips.items.map (fun p => p.1)).filter (fun p => pipSlice p == s)

/-! ### Saving and restoring, R338 and R339 -/

/-- Header of a save area. -/
def saveHeader (w : World) (s h : Nat) (forced window : Bool) : World :=
  w.saveBytes h (saveBase h s) (leBytes 256 (w.now + s * 2 ^ 64 + h * 2 ^ 68 + (if forced then 2 ^ 72 else 0) + (if window then 2 ^ 73 else 0)))

/-- The guest window goes from its resident husk, whose copy is saved, when another husk needs it. -/
def windowSave (w : World) (s h : Nat) : World :=
  match w.dev.cycle.windows.get? s with
  | none => w
  | some x =>
    if x = h then w
    else
      let r := w.readStored (guestWindow s) guestBytes 0
      let w1 := w.writeStored (saveBase x s + guestBytes) r.data r.bad (w.huskKey x)
      let hd := (w1.readStored (saveBase x s) 256 (w1.huskKey x)).nat
      let w2 := w1.saveBytes x (saveBase x s) (leBytes 256 (setFld hd 73 1 1))
      w2.upCycle (fun c => { c with windows := c.windows.del s,
                                    saved := c.saved.put (savedKey s x) (setInsert 300 (c.saved.getD (savedKey s x) [])) })

/-- A husk takes the guest window of a slice: its saved copy, or zeros the first time (R339). -/
def windowLoad (w : World) (s h : Nat) : World :=
  if w.dev.cycle.windows.get? s = some h then w
  else
    let w1 := w.windowSave s h
    let held := w1.dev.cycle.saved.getD (savedKey s h) []
    let w2 :=
      if held.elem 300 then
        let r := w1.readStored (saveBase h s + guestBytes) guestBytes (w1.huskKey h)
        w1.writeStored (guestWindow s) r.data r.bad 0
      else w1.zeroRange (guestWindow s) guestBytes
    w2.upCycle (fun c => { c with windows := c.windows.put s h, saved := c.saved.put (savedKey s h) (setErase 300 held) })

/-- The area of bank k = 2 × engine + bank. -/
def bankArea (h s k : Nat) : Nat := saveBase h s + 0xB0000 + k * 131328

/-- Save a bank: the command that uses it with the chunks it has added, then its values. -/
def saveBank (w : World) (s h k : Nat) : World :=
  let r : RingRef := .slice (Fin.ofNat 16 s) (Fin.ofNat 16 (k / 2)) (Fin.ofNat 16 h)
  let cmd := (w.ring r).taken.find? (fun t => cmdBank t.cmd == k % 2)
  let (c, n) := match cmd with
    | some t => (t.cmd, if t.wait == .done then (gK t.cmd + 31) / 32 else 0)
    | none => (0, 0)
  let (d, bad) := bankImage (w.bank (masterId 0x1 (s * 8 + k / 2)) (k % 2))
  w.writeStored (bankArea h s k) (leBytes 128 c ++ leBytes 8 n ++ List.replicate 120 0 ++ d) (List.replicate 256 false ++ bad) (w.huskKey h)

/-- Load a bank from a save area. -/
def loadBank (w : World) (s h k : Nat) : World :=
  let r := w.readStored (bankArea h s k + 256) 131072 (w.huskKey h)
  w.setBank (masterId 0x1 (s * 8 + k / 2)) (k % 2) (bankOfImage r.data r.bad)

/-- Banks of a slice that hold something of the husk on it: named by live masks, or used by a command in progress. -/
def liveBanks (w : World) (s h : Nat) : List Nat :=
  let named := (w.dev.cycle.live.filter (fun k => k / 16 == s)).map (fun k => k % 16)
  let used := ((List.range 8).map (fun e =>
    (w.ring (.slice (Fin.ofNat 16 s) (Fin.ofNat 16 e) (Fin.ofNat 16 h))).taken.map (fun t => 2 * e + cmdBank t.cmd))).flatten
  used.foldl (fun l k => setInsert k l) named

/-- Every register of a pip: the masks of a waiting pip or of one stopped by force (R96, R340). -/
def allRegs : Nat × Nat := (2 ^ 64 - 1, 2 ^ 32 - 1)

/-- Have all pips of the slice stopped, or do they wait (R96)? -/
def pipsStopped (w : World) (s : Nat) : Bool := (w.pipsOf s).all (fun p => (w.pip p).waiting != 0)

/-- Every save of the outgoing husk is visible, R338: the waiting pips, the live banks, the vector engine's command, the
guest window when another husk needs it, the header; the slice runs no husk. -/
def preemptSaved (w : World) (s : Nat) : World :=
  match w.dev.cycle.changes.get? s with
  | none => w
  | some ch =>
    let h := ch.out
    if ch.saved || !w.pipsStopped s then w
    else
      let ps := w.pipsOf s
      let w1 := (ps.filter (fun p => (w.pip p).waiting != 4)).foldl (fun w p => w.savePip p allRegs.1 allRegs.2) w
      let banks := w1.liveBanks s h
      let w2 := banks.foldl (fun w k => w.saveBank s h k) w1
      let vec := (w2.ring (.slice (Fin.ofNat 16 s) 8 (Fin.ofNat 16 h))).taken.head?
      let w3 := w2.saveBytes h (saveBase h s + 256) (match vec with
        | some t => leBytes 128 t.cmd ++ leBytes 4 (vRows t.cmd) ++ List.replicate 124 0
        | none => List.replicate 256 0)
      let guest := decide (ch.incoming < 16) && w3.ownerOf s != some ch.incoming
      let w4 := w3.saveHeader s h ch.forced false
      let w5 := if guest then w4.windowSave s ch.incoming else w4
      let keep := (w5.dev.cycle.saved.getD (savedKey s h) []).filter (fun k => k == 300)
      let list := (ps.map (fun p => p % 256) ++ banks.map (fun k => 256 + k)).foldl (fun l k => setInsert k l) keep
      let w6 := w5.upCycle (fun c => { c with
        saved := c.saved.put (savedKey s h) list, live := c.live.filter (fun k => k / 16 != s),
        changes := c.changes.put s { ch with saved := true } })
      let w7 := (enginesOf s h).foldl (fun w r => if (w.ring r).enable || !(w.ring r).taken.isEmpty then w.setRing r { w.ring r with state := 5 } else w) w6
      let took := w.now - ch.requestTick
      ((w7.inc (oHuskPreemptions h) 1).wr (oHuskPreemptWorst h) (Nat.max took (w.rd (oHuskPreemptWorst h)) % 2 ^ 32)).wr (oSliceRunning s) 0xFF

/-- What a restore of husk h on slice s reads of its save area: first bytes and lengths. -/
def restoreReads (w : World) (s h : Nat) : List (Nat × Nat) :=
  ((w.dev.cycle.saved.getD (savedKey s h) []).filter (fun k => k != 300 || w.ownerOf s != some h)).map (fun k =>
    if k < 256 then (saveBase h s + 0x1000 + k * 2624, 2624)
    else if k = 300 then (saveBase h s + guestBytes, guestBytes)
    else (bankArea h s (k - 256), 131328))
/-- Can every line that the restore reads be corrected (R142)? -/
def restoreGood (w : World) (s h : Nat) : Bool :=
  w.dev.badLines.all (fun l => (w.restoreReads s h).all (fun r => decide (l * 64 + 64 ≤ r.1) || decide (r.1 + r.2 ≤ l * 64)))

/-- The incoming husk's state comes back, R339; what its masks did not name is +0. A line of the save area that fails
correction makes the restore fail: a contained error of the husk, which is reset at once (R142). -/
def restored (w : World) (s : Nat) : World :=
  match w.dev.cycle.changes.get? s with
  | none => w
  | some ch =>
    if !ch.saved || ch.restored || decide (16 ≤ ch.incoming) then w
    else if !w.restoreGood s ch.incoming then
      (w.contained ch.incoming (masterId 0x7 s) 1 0x020A (saveBase ch.incoming s)).beginReset 1 ch.incoming 6 0 0x020A (huskSource ch.incoming)
    else
      let h := ch.incoming
      let held := w.dev.cycle.saved.getD (savedKey s h) []
      let w1 := { w with dev := { w.dev with
        pips := ⟨w.dev.pips.items.filterMap (fun (p : Nat × Pip) =>
          if pipSlice p.1 ≠ s then some p
          else some (p.1, { Pip.init with mepc := p.2.mepc, mcause := p.2.mcause, mtval := p.2.mtval, mtvec := p.2.mtvec,
                                          mstatus := p.2.mstatus, medeleg := p.2.medeleg, stvec := p.2.stvec, sepc := p.2.sepc,
                                          scause := p.2.scause, stval := p.2.stval }))⟩ } }
      let w2 := (held.filter (fun k => decide (k < 256))).foldl (fun w k =>
        let p := s * 256 + k
        w.setPip p (pipOfImage (w.pip p) (w.readStored (saveBase h s + 0x1000 + k * 2624) 2624 (w.huskKey h)).data)) w1
      let w3 := (List.range 8).foldl (fun w e => w.setEngine (masterId 0x1 (s * 8 + e)) { w.engine (masterId 0x1 (s * 8 + e)) with banks := .empty }) w2
      let w4 := (held.filter (fun k => decide (256 ≤ k) && decide (k < 272))).foldl (fun w k => w.loadBank s h (k - 256)) w3
      let w5 := if w.ownerOf s = some h then w4 else w4.windowLoad s h
      w5.upCycle (fun c => { c with
        saved := c.saved.put (savedKey s h) ((c.saved.getD (savedKey s h) []).filter (fun k => k == 300)),
        changes := c.changes.put s { ch with restored := true } })

/-! ### Slots, R337 -/

/-- The request tick of the next slot, R337. -/
def slotRequest (w : World) : World :=
  match w.nextSlot with
  | none => w
  | some (e, start) =>
    if w.now + ceLead e < start ∨ w.dev.cycle.requested = some start then w
    else (w.each allSlices (fun w s => w.requestChange s (w.slotHusk e s) start (w.slotGrants e s))).upCycle (fun c => { c with requested := some start })

/-- The husk that comes in is released, R337. -/
def slotReleased (w : World) (s : Nat) : World :=
  match w.dev.cycle.changes.get? s with
  | none => w
  | some ch =>
    if !ch.saved || !ch.restored || decide (w.now < ch.slotStart) then w
    else
      let w1 := (w.wr (oSliceRunning s) ch.incoming).upCycle (fun c => { c with changes := c.changes.del s })
      let w2 := if ch.incoming < 16 then
          -- a command that waits for a chain set takes one that came meanwhile (R78)
          ((enginesOf s ch.incoming).foldl (fun w r => if (w.ring r).state = 5 then w.setRing r { w.ring r with state := 0 } else w) w1).each
            (List.range 8) (fun w e => w.chainWake (masterId 0x1 (s * 8 + e))) |>.updateResume (Fin.ofNat 16 s)
        else w1
      if ch.grant ∧ ch.slotStart + 200 < w.now ∧ w.dev.cycle.late ≠ ch.slotStart then
        (w2.inc oCycleSlotsLate 1).upCycle (fun c => { c with late := ch.slotStart })
      else w2

/-- The units of a slice that have not stopped are stopped by force, R340: the pips still running, with all
their registers saved; when every pip has stopped, the vector engine, whose command is abandoned (log entry 34). -/
def forcedStopNow (w : World) (s : Nat) : World :=
  match w.dev.cycle.changes.get? s with
  | none => w
  | some ch =>
    if ch.saved || decide (w.now < ch.requestTick + 4000) then w
    else
      let ps := (w.pipsOf s).filter (fun p => (w.pip p).waiting == 0)
      let r : RingRef := .slice (Fin.ofNat 16 s) 8 (Fin.ofNat 16 ch.out)
      let mark (w : World) (m : Nat) : World :=
        let w1 := (w.corrected (unitSource m) m 0 0x0A05 0).upCycle (fun c => { c with changes := c.changes.put s { ch with forced := true } })
        if ch.forced then w1 else w1.inc (oHuskPreemptForced ch.out) 1
      match ps with
      | p :: _ => mark (ps.foldl (fun w p => w.savePip p allRegs.1 allRegs.2) w) (masterId 0x2 p)
      | [] =>
        if (w.ring r).taken.isEmpty then w
        else mark (w.setRing r { w.ring r with taken := (w.ring r).taken.map (fun t => { t with wait := .done, status := 3, reason := 0x0A05 }) }) (masterId 0x4 s)

/-- A unit that has not stopped 4,000 ticks after the request is stopped by force, R340; a stop in that tick itself still counts, so
it is decided at the tick's end. -/
def forcedStop (w : World) (s : Nat) : World :=
  match w.dev.cycle.changes.get? s with
  | none => w
  | some ch => if w.now = ch.requestTick + 4000 then w.dueLater (.forcedStop s) else w.forcedStopNow s

/-- The filler commands that the slot in force forbids stop, and their engines go back (R335, R342). -/
def fillersBarred (w : World) : World := w.each allSlices (fun w s => if w.noFill s then w.fillersReturn s else w)

/-- The end of a slot at a tick boundary: the next entry comes into force, or the table stops and every slice returns to
its owner. The end of the last entry waits for a committed table that is due (CYCLE_TABLE_EFFECT). -/
def slotAdvance (w : World) : World :=
  let c := w.dev.cycle
  if w.rd oCycleEnable = 0 then w
  else if c.armed then (if w.now < c.slotStart then w else ((w.upCycle (fun c => { c with armed := false })).wr oCycleCurrentSlot 0).fillersBarred)
  else if w.now < w.slotEnd then w
  else if c.stopping then
    let w1 := ((w.wr oCycleEnable 0).upCycle (fun c => { c with stopping := false }))
    w1.ownersReturn
  else if w.tableDue.isSome then w
  else
    let i := if w.rd oCycleCurrentSlot + 1 < c.table.length then w.rd oCycleCurrentSlot + 1 else 0
    ((w.upCycle (fun c => { c with slotStart := w.slotEnd })).wr oCycleCurrentSlot i).fillersBarred

/-- A committed table takes effect at the end of the table in force, R336. -/
def tableEffect (w : World) : World :=
  match w.tableDue with
  | some t => if w.slotEnd ≤ w.now ∧ !w.dev.cycle.stopping then ((w.installTable t w.slotEnd).wr oCycleCurrentSlot 0).fillersBarred else w
  | none => w

/-- An idle engine is lent to the filler husk, R342: the owner runs on the slice and its queue has been empty, with no
command running, for FillerIdleTicks; the owner's banks go to its save area. -/
def fillerTake (w : World) (s unit : Nat) : World :=
  let f := w.rd (oSliceFillerHusk s)
  let o := w.running s
  let y := w.ring (.filler (Fin.ofNat 16 s) (Fin.ofNat 9 unit))
  let ok := decide (f < 16) && w.active f && w.rd (oSliceGuestEnable s) == 1 && bitAt (w.rd (oHuskGuestSlices f)) s && w.powered s
    && w.ownerOf s == some o && w.active o && !w.dev.cycle.changes.has s && w.fillerFree s unit
    && decide (w.dev.cycle.idleSince.getD (s * 16 + unit) 0 + w.rd oFillerIdleTicks ≤ w.now)
    && !w.dev.cycle.lent.has (s * 16 + unit) && y.enable && y.head != y.tail && y.cqFree && y.taken.isEmpty
  if !ok then w
  else
    let m := masterId 0x1 (s * 8 + unit)
    let w1 := w.windowLoad s f
    let w2 := if unit < 8 then (w1.saveBank s o (2 * unit)).saveBank s o (2 * unit + 1) else w1
    w2.upCycle (fun c => { c with lent := c.lent.put (s * 16 + unit) (w.engine m) })

/-- An owner command arrives at a lent engine, R342. -/
def fillerEvict (w : World) (s unit : Nat) : World :=
  let x := w.ring (.slice (Fin.ofNat 16 s) (Fin.ofNat 16 unit) (Fin.ofNat 16 (w.running s)))
  if x.enable && x.head != x.tail then w.fillerReturn s unit else w

end World

/-- CYCLE_COMMIT, R336. -/
def execCycleCommit (p : Path) (v : Word) (s : State) : Host.Outcome State Fault Refusal :=
  s.done (fun w => w.odCommand p 0x2080 4 v true (World.onOne World.cycleCommit))
/-- CYCLE_TABLE_EFFECT, R336. -/
def execCycleTableEffect (s : State) : Host.Outcome State Fault Refusal := s.done (fun w => w.tableEffect)
/-- CYCLE_ENABLE_WRITE, R336. -/
def execCycleEnableWrite (p : Path) (v : Word) (s : State) : Host.Outcome State Fault Refusal :=
  s.done (fun w => w.odCommand p 0x2080 1 v true World.cycleEnable)
/-- CYCLE_SLOT_REQUEST, R337. -/
def execCycleSlotRequest (s : State) : Host.Outcome State Fault Refusal := s.done (fun w => w.slotRequest)
/-- PREEMPT_SAVE_DONE, R338. -/
def execPreemptSaveDone (sl : Fin 16) (s : State) : Host.Outcome State Fault Refusal := s.done (fun w => w.preemptSaved sl.val)
/-- RESTORE_DONE, R339. -/
def execRestoreDone (sl : Fin 16) (s : State) : Host.Outcome State Fault Refusal := s.done (fun w => w.restored sl.val)
/-- SLOT_RELEASE, R337. -/
def execSlotRelease (sl : Fin 16) (s : State) : Host.Outcome State Fault Refusal := s.done (fun w => w.slotReleased sl.val)
/-- PREEMPT_FORCED_STOP, R340. -/
def execPreemptForcedStop (sl : Fin 16) (s : State) : Host.Outcome State Fault Refusal := s.done (fun w => w.forcedStop sl.val)
/-- FILLER_TAKE, R342. -/
def execFillerTake (sl : Fin 16) (unit : Fin 9) (s : State) : Host.Outcome State Fault Refusal :=
  s.done (fun w => w.fillerTake sl.val unit.val)
/-- FILLER_EVICT, R342. -/
def execFillerEvict (sl : Fin 16) (unit : Fin 9) (s : State) : Host.Outcome State Fault Refusal :=
  s.done (fun w => w.fillerEvict sl.val unit.val)

end Sys2Proof.Machine
end

