-- ==== Sys2Proof/Machine/Turns.lean ====
section
/-! DEFINITION. Turns and re-sharding (R304 to R324): validation of layouts and plans, the drain, the barrier, the
transfers, the commit, and every way a turn ends. -/
namespace Sys2Proof.Machine

/-! ### Layouts and plans, R304 to R307 -/

/-- Fields of a layout entry, R305. -/
def leAddr (v : Nat) : Nat := fld v 208 48
def leSize (v : Nat) : Nat := fld v 168 40
def leRank (v : Nat) : Nat := fld v 152 16
def leObj (v : Nat) : Nat := fld v 96 32
def lePart (v : Nat) : Nat := fld v 64 32
def leKind (v : Nat) : Nat := fld v 0 4
/-- Fields of a plan entry, R307. -/
def peDst (v : Nat) : Nat := fld v 464 48
def peSrc (v : Nat) : Nat := fld v 416 48
def peSize (v : Nat) : Nat := fld v 376 40
def peTo (v : Nat) : Nat := fld v 360 16
def peFrom (v : Nat) : Nat := fld v 344 16
def peAfter (v : Nat) : Nat := fld v 320 24
def peKind (v : Nat) : Nat := fld v 0 8

/-- Is every field of a layout entry listed, R305? -/
def layoutEntOk (n v : Nat) : Bool :=
  let work := leKind v == 6
  decide (1 ≤ leKind v) && decide (leKind v ≤ 6) && decide (leRank v < n) && rsvd v 128 8 && rsvd v 24 8 && rsvd v 4 8
    && fld v 32 16 != 0 && fld v 12 4 != 0 && decide (fld v 16 4 < fld v 12 4) && decide (fld v 20 4 ≤ 2)
    && (if work then leAddr v == 0 && leSize v == 0 && decide (lePart v ≤ 2) else leAddr v % 64 == 0 && leSize v % 64 == 0)

/-- Is every field of a plan entry listed, R307? A COPY may follow only an entry of the plan. -/
def planEntOk (n total v : Nat) : Bool :=
  decide (peTo v < n) && decide (peFrom v < n) && fld v 8 280 == 0 && decide (peAfter v ≤ total)
    && (if peKind v = 1 then peDst v % 64 == 0 && peSize v % 64 == 0 else peKind v == 2 && peSize v == 0)

/-- Do two address ranges share a byte? -/
def overlaps (a b : Nat × Nat) : Bool := decide (a.1 < b.1 + b.2) && decide (b.1 < a.1 + a.2)
/-- Does range b lie in range a? -/
def within (a b : Nat × Nat) : Bool := decide (a.1 ≤ b.1) && decide (b.1 + b.2 ≤ a.1 + a.2)
/-- No two ranges of a list overlap. -/
def disjoint : List (Nat × Nat) → Bool
  | [] => true
  | a :: t => t.all (fun b => !overlaps a b) && disjoint t

/-- The non-WORK ranges of a rank in a layout: the entries. -/
def ranksEnts (rank : Nat) (l : List Nat) : List Nat := l.filter (fun v => leRank v == rank && leKind v != 6)
/-- Address range of a layout entry. -/
def leRange (v : Nat) : Nat × Nat := (leAddr v, leSize v)

/-- Conditions 3 to 6 of R308 for a rank: `old` and `new` its entries of the two layouts, `plan` every plan entry. -/
def turnPlanOk (rank : Nat) (old new plan : List Nat) : Bool :=
  let olds := old.map leRange
  let news := new.map leRange
  let copies := plan.filter (fun v => peKind v == 1)
  let sent := copies.filter (fun v => peFrom v == rank)
  let got := copies.filter (fun v => peTo v == rank)
  let dst (v : Nat) : Nat × Nat := (peDst v, peSize v)
  let dsts := got.map dst
  disjoint news
    && sent.all (fun v => olds.any (fun a => within a (peSrc v, peSize v)) || (peAfter v != 0 && (match plan[peAfter v - 1]? with
        | some b => peKind b == 1 && peTo b == rank && within (dst b) (peSrc v, peSize v)
        | none => false)))
    && dsts.all (fun d => news.any (fun a => within a d) && olds.all (fun a => !overlaps a d)) && disjoint dsts
    && new.all (fun v =>
        old.any (fun o => leRange o == leRange v && leKind o == leKind v && leObj o == leObj v && lePart o == lePart v)
          || ((dsts.filter (fun d => within (leRange v) d)).map (fun d => d.2)).foldl (· + ·) 0 == leSize v)

/-- Pieces of 64 KiB of a COPY. -/
def copyPieces (v : Nat) : Nat := (peSize v + 65535) / 65536
/-- Bytes of piece k. -/
def pieceLen (v k : Nat) : Nat := Nat.min 65536 (peSize v - k * 65536)

namespace World

/-- Keep a turn. -/
def setTurn (w : World) (h : Nat) (t : TurnSt) : World := { w with dev := { w.dev with turns := w.dev.turns.put h t } }
/-- The summary record, R315. -/
def turnSummary (w : World) (h cause rank stage : Nat) : World :=
  w.wr (oTurnStatus h 1) (cause * 2 ^ 48 + rank * 2 ^ 32 + stage * 2 ^ 28)
/-- A tick record with its progress, R315. -/
def turnRecord (w : World) (h j progress : Nat) : World :=
  (w.wr (oTurnStatus h j) w.now).setOpProgress (oTurnStatus h 0) progress j

/-- The reason of the first failed transfer goes into the transfers record, R315. -/
def turnFailed (w : World) (h reason : Nat) : World :=
  let v := w.rd (oTurnStatus h 2)
  if fld v 48 16 = 0 then w.wr (oTurnStatus h 2) (setFld v 48 16 reason) else w

/-- Send a turn message to a rank, R389 (payload layouts: log entry 30). -/
def sendTurn (w : World) (h : Nat) (t : TurnSt) (rank kind entry : Nat) (payload : List Byte) : World :=
  let p := t.parts.getD rank 0
  let (m, w1) := w.message (fld p 0 16) (w.huskVc h) h (fld p 16 4) kind (t.turnId * 65536 + entry % 65536) 0
    (leBytes 4 t.turnId ++ payload)
  (w1.inc (oCollBytesSent 0) m.payload.length).sendMsg m
/-- Every rank but this one. -/
def turnOthers (t : TurnSt) : List Nat := (List.range t.parts.length).filter (fun k => k != t.rank)

/-! ### The end of a turn, R316 -/

/-- An abort: ABORT to every rank, the old layout and phase stay, held commands are released, the operation ends; one that ends the
validation gives the records that R315 gives then. -/
def turnAbort (w : World) (h : Nat) (t : TurnSt) (cause rank state : Nat) (tell : Bool) : World :=
  let w1 := if tell then w.each (turnOthers t) (fun w k => w.sendTurn h t k 0x08 0 (leBytes 4 t.rank ++ leBytes 4 cause)) else w
  let w2 := (w1.setPhase h t.prevPhase).upSeqs (fun s => { s with turnHeld := setErase h s.turnHeld })
  let w3 := w2.setOpProgress (oTurnStatus h 0) 0 2
  let w4 := { w3 with dev := { w3.dev with t3 := w3.dev.t3.delIf (fun _ a => a.user == 3 && a.husk == h) } }
  ((w4.setOpState (oTurnStatus h 0) state cause).turnSummary h cause rank t.stage).setTurn h
    { t with stage := 8, copies := .empty, early := t.early.filter (fun m => m.addr.toNat / 65536 != t.turnId), inTick := [] }

/-- A transfer fails and with it the turn, R316. -/
def turnBroken (w : World) (h : Nat) (t : TurnSt) (reason : Nat) : World :=
  (w.turnFailed h reason).turnAbort h t 0x0609 0xFFFF 5 true

/-- OWNER entries at the commit, R313: word 0 of the shard header with the new owner, as one write; in Tier 3 it lands when the host
acknowledges it (R146). -/
def turnOwners (w : World) (h : Nat) (t : TurnSt) : World :=
  w.each t.plan (fun w p =>
    if peKind p.2 = 2 ∧ peFrom p.2 = t.rank then
      let v := w.vnum h (peSrc p.2) 8
      let d := leBytes 8 (setFld v 32 16 (fld (t.parts.getD (peTo p.2) 0) 0 16))
      match w.tier3Port h (peSrc p.2) .wr with
      | some q => if w.portCarries q then w.t3Begin ⟨q, true, peSrc p.2, 8, masterId 0xA 0, h, 4, h, d, 0⟩ else w
      | none => w.putVirt h (masterId 0xA 0) 2 (peSrc p.2) d
    else w)

/-- The commit, R313 and R314. -/
def turnCommit (w : World) (h : Nat) (t : TurnSt) : World :=
  let cfg := w.rd (oHuskTurnConfig h)
  let w1 := ((w.wr (oHuskLayoutCurrent h) (w.rd (oHuskTurnLayoutBase h))).wr (oHuskTurnIdCurrent h) t.turnId).setPhase h (fld cfg 4 4)
  let w2 := ((w1.turnOwners h t).setOpState (oTurnStatus h 0) 2 0).turnRecord h 6 950
  (w2.turnSummary h 0 0xFFFF 5).setTurn h { t with stage := 5 }

/-- Release, R314. -/
def turnRelease (w : World) (h : Nat) (t : TurnSt) : World :=
  let w1 := (w.wr (oHuskPoolTurn h) (fit 32 (w.rd (oHuskPoolTurn h) + 1))).upSeqs (fun s => { s with turnHeld := setErase h s.turnHeld })
  let w2 := ((w1.turnRecord h 7 1000).setOpState (oTurnStatus h 0) 4 0).turnSummary h 0 0xFFFF 6
  w2.setTurn h { t with stage := 8, copies := .empty }

/-! ### Transfers, R309 and R313 -/

/-- What is kept of a COPY that nothing has moved of. -/
def copyInit : CopySt := ⟨[], [], false, []⟩

/-- Every rank but this one is in the list. -/
def allOthers (t : TurnSt) (l : List Nat) : Bool := (turnOthers t).all (fun k => l.elem k)

/-- DONE goes out once every COPY sent is acknowledged and every COPY received is whole; with every rank's
acknowledgement it counts as sent; with every rank's DONE the module commits in this tick (R313, R318). -/
def turnAdvance (w : World) (h : Nat) (t : TurnSt) : World :=
  let whole := t.plan.all (fun p => peKind p.2 != 1 || (
    let c := t.copies.getD p.1 copyInit
    (peFrom p.2 != t.rank || c.acked) && (peTo p.2 != t.rank || decide (copyPieces p.2 ≤ c.got.length))))
  let (t1, w1) := if t.stage = 3 ∧ whole ∧ !t.donePosted then
      ({ t with donePosted := true }, w.each (turnOthers t) (fun w k => w.sendTurn h t k 0x07 0 (leBytes 4 t.rank)))
    else (t, w)
  let (t2, w2) := if t1.stage = 3 ∧ t1.donePosted ∧ allOthers t1 t1.doneAcks then
      ({ t1 with stage := 4, since := w.now }, (w1.turnRecord h 5 900).turnSummary h 0 0xFFFF 4)
    else (t1, w1)
  let w3 := w2.setTurn h t2
  if t2.stage = 4 ∧ allOthers t2 t2.dones then w3.dueLater (.turnCommit h false) else w3

/-- The commit that is due, R313: it takes place unless the tick has brought an ABORT or a reset (R318). -/
def turnCommitNow (w : World) (h : Nat) (forced : Bool) : World :=
  match w.turn h with
  | none => w
  | some t => if (t.stage = 4 ∧ allOthers t t.dones) ∨ (t.stage = 7 ∧ forced) then w.turnCommit h t else w

/-- Count bytes moved, R315: PROGRESS shows them from the barrier on. -/
def turnMoved (w : World) (h : Nat) (t : TurnSt) (n : Nat) : TurnSt × World :=
  let m := t.moved + n
  ({ t with moved := m }, if t.stage = 3 then
      w.setOpProgress (oTurnStatus h 0) (100 + 800 * m / Nat.max 1 t.total) (fld (w.rd (oTurnStatus h 0)) 32 6)
    else w)

/-- May piece k of a COPY be sent: its source needs no other entry, or every byte of it has arrived (R309)? -/
def pieceReady (t : TurnSt) (v k : Nat) : Bool :=
  if peAfter v = 0 then true
  else match t.plan.find? (fun p => p.1 == peAfter v - 1) with
    | none => true
    | some (i, b) =>
      let o := peSrc v + k * 65536 - peDst b
      let got := (t.copies.getD i copyInit).got
      (List.range ((o + pieceLen v k - 1) / 65536 + 1 - o / 65536)).all (fun j => got.elem (o / 65536 + j))

/-- Piece k of entry i lies at its destination on this rank: it is counted, and the sender of a whole entry is told. -/
def pieceLanded (w : World) (h : Nat) (t : TurnSt) (i v k : Nat) : TurnSt × World :=
  let c := t.copies.getD i copyInit
  let got := setInsert k c.got
  let here := peFrom v == t.rank
  let whole := decide (copyPieces v ≤ got.length)
  let c1 : CopySt := { c with got := got, moving := setErase k c.moving, acked := c.acked || (here && whole) }
  let (t1, w1) := w.turnMoved h { t with copies := t.copies.put i c1 } (if here then 2 * pieceLen v k else pieceLen v k)
  (t1, if whole && !here then w1.sendTurn h t1 (peFrom v) 0x09 i (leBytes 4 t.rank ++ leBytes 4 0 ++ leBytes 4 i) else w1)

/-- A Tier 3 access for piece k of entry i begins (R146): the piece is in motion. -/
def pieceT3 (w : World) (h : Nat) (t : TurnSt) (i k p va : Nat) (wr : Bool) (n : Nat) (d : List Byte) : TurnSt × World :=
  let c := t.copies.getD i copyInit
  ({ t with copies := t.copies.put i { c with moving := setInsert k c.moving } },
   w.t3Begin ⟨p, wr, va, n, masterId 0xA 0, h, 3, h + 16 * (i + 2 ^ 24 * k), d, 0⟩)

/-- Bytes of piece k reach this rank's destination, or the reason why they cannot. -/
def pieceStore (w : World) (h : Nat) (t : TurnSt) (i v k : Nat) (d : List Byte) : Except (Nat × World) (TurnSt × World) :=
  let va := peDst v + k * 65536
  match w.tier3Port h va .wr with
  | some p => if w.portCarries p then .ok (w.pieceT3 h t i k p va true d.length d) else .error (0x0209, w)
  | none => .ok ((w.putVirt h (masterId 0xA 0) 2 va d).pieceLanded h t i v k)

/-- The bytes of piece k have been read at this rank: they go to its destination here, or to the receiver. -/
def pieceRead (w : World) (h : Nat) (t : TurnSt) (i v k : Nat) (d : List Byte) : Except (Nat × World) (TurnSt × World) :=
  let c := t.copies.getD i copyInit
  let t1 := { t with copies := t.copies.put i { c with sent := setInsert k c.sent, moving := setErase k c.moving } }
  if peTo v = t.rank then w.pieceStore h t1 i v k d
  else .ok ((w.sendTurn h t1 (peTo v) 0x05 i (leBytes 4 i ++ leBytes 8 (k * 65536) ++ d)).turnMoved h t1 (pieceLen v k))

/-- A Tier 3 read for a turn fails, R146. -/
def pieceLost (w : World) (h p va reason : Nat) : World :=
  (w.contained h (masterId 0xA 0) 1 reason va).inc (oTier3Poisoned p) 1

/-- One COPY of this rank as sender: the pieces that can go now, or the reason for which its source could not be read, with the
machine as it then stands (R316). -/
def turnSend (w : World) (h : Nat) (t : TurnSt) (i v : Nat) : Except (Nat × World) (TurnSt × World) :=
  (List.range (copyPieces v)).foldl (fun st k => match st with
    | .error e => .error e
    | .ok (t, w) =>
      let c := t.copies.getD i copyInit
      let va := peSrc v + k * 65536
      if c.sent.elem k || c.moving.elem k || !pieceReady t v k then .ok (t, w)
      else match w.tier3Port h va .rd with
        | some p => if w.portCarries p then .ok (w.pieceT3 h t i k p va false (pieceLen v k) [])
          else .error (0x0209, w.pieceLost h p va 0x0209)
        | none =>
          let ((d, ok), w1) := w.readVirt h (masterId 0xA 0) 1 va (pieceLen v k)
          if !ok then .error (0x0004, w1)
          else if d.anyBad then .error (d.reason, w1)
          else w1.pieceRead h t i v k d.data) (.ok (t, w))

/-- The copies that this rank sends, in plan order. -/
def turnMine (t : TurnSt) : List (Nat × Nat) := t.plan.filter (fun p => peKind p.2 == 1 && peFrom p.2 == t.rank)

/-- One pass over the copies of this rank, at most 16 in flight (R309), none sent while the controller restarts (R474). -/
def turnPass (w : World) (h : Nat) (t : TurnSt) : Except (Nat × World) (TurnSt × World) :=
  (turnMine t).foldl (fun (st : Except (Nat × World) (TurnSt × World)) p => match st with
    | .error e => .error e
    | .ok (t, w) =>
      let open' := ((turnMine t).filter (fun q => decide (q.1 < p.1) && !(t.copies.getD q.1 copyInit).acked)).length
      if 16 ≤ open' || w.dev.resets.seqs.has 19 then .ok (t, w)
      else if peSize p.2 = 0 then .ok ({ t with copies := t.copies.put p.1 { copyInit with acked := true } }, w)
      else w.turnSend h t p.1 p.2) (.ok (t, w))

/-- Passes until none moves a piece: a local copy that has landed lets an earlier entry that forwards it go on. -/
def turnPasses : Nat → World → Nat → TurnSt → Except (Nat × World) (TurnSt × World)
  | 0, w, _, t => .ok (t, w)
  | f + 1, w, h, t =>
    match w.turnPass h t with
    | .error e => .error e
    | .ok (t1, w1) => if t1.moved = t.moved then .ok (t1, w1) else turnPasses f w1 h t1

/-- Copies of this rank as far as they can go (R309); then what follows. -/
def turnPump (w : World) (h : Nat) (t : TurnSt) : World :=
  if t.stage ≠ 3 then w.turnAdvance h t
  else
    match turnPasses ((turnMine t).length + 1) w h t with
    | .error (e, w1) => w1.turnBroken h t e
    | .ok (t1, w1) =>
      let done := ((turnMine t).filter (fun p => (t1.copies.getD p.1 copyInit).acked)).length
      (w1.wr (oTurnStatus h 2) (done * 2 ^ 24 + (turnMine t).length)).turnAdvance h t1

/-- A Tier 3 access for a transfer ends, R146 and R316. -/
def turnTier3End (w : World) (a : T3Access) (o : HostOutcome) : World :=
  let h := a.ref % 16
  let i := a.ref / 16 % 2 ^ 24
  let k := a.ref / 2 ^ 28
  match w.turn h with
  | none => w
  | some t =>
    match t.plan.find? (fun p => p.1 == i) with
    | none => w
    | some (_, v) =>
      if !(t.copies.getD i copyInit).moving.elem k then w
      else match o with
        | .clean =>
          if a.write then
            let (t1, w1) := (w.writeVirt h a.master 2 a.addr a.data (List.replicate a.data.length false)).2.pieceLanded h t i v k
            w1.turnPump h t1
          else
            let ((d, ok), w1) := w.readVirt h a.master 1 a.addr a.len
            if !ok then w1.turnBroken h t 0x0004
            else if d.anyBad then w1.turnBroken h t d.reason
            else match w1.pieceRead h t i v k d.data with
              | .error (e, w2) => w2.turnBroken h t e
              | .ok (t1, w2) => w2.turnPump h t1
        | .poison => (w.pieceLost h a.port a.addr 0x0204).turnBroken h t 0x0204
        | .unreachable => (if a.write then w else w.pieceLost h a.port a.addr 0x0209).turnBroken h t 0x0209

/-- The barrier completes, R312. -/
def turnBarrier (w : World) (h : Nat) (t : TurnSt) : World :=
  if t.stage = 2 ∧ (turnOthers t).all (fun k => t.arrived.elem k) then
    let bytes := t.plan.foldl (fun n p => if peKind p.2 = 1 then n + (if peFrom p.2 = t.rank then peSize p.2 else 0)
      + (if peTo p.2 = t.rank then peSize p.2 else 0) else n) 0
    let (t1, w1) := ((w.turnRecord h 4 100).turnSummary h 0 0xFFFF 3).turnMoved h { t with stage := 3, since := w.now, total := bytes } 0
    w1.turnPump h t1
  else w.setTurn h t

/-- A turn message for a husk whose turn has started: ARRIVE, DONE, ABORT (R312, R313, R316); before its validation has ended all but
an ABORT are kept. -/
def turnTake (w : World) (h : Nat) (m : Msg) : World :=
  match w.turn h with
  | none => w
  | some t =>
    let d := m.payload
    let rank := leNat ((d.drop (if m.kind = 6#8 then 12 else 4)).take 4)
    if m.kind = 8#8 then (if 8 ≤ t.stage ∨ t.stage = 5 then w else w.turnAbort h t 0x0601 rank 5 true)
    else if t.stage = 0 then w.setTurn h { t with early := m :: t.early }
    else if m.kind = 6#8 then
      if t.stage ≠ 1 ∧ t.stage ≠ 2 then w
      else if leNat ((d.drop 4).take 4) ≠ t.layoutCrc ∨ leNat ((d.drop 8).take 4) ≠ t.planCrc then w.turnAbort h t 0x0604 0xFFFF 5 true
      else w.turnBarrier h { t with arrived := setInsert rank t.arrived }
    else if 7 ≤ t.stage then w
    else
      let w1 := w.sendTurn h t rank 0x09 0 (leBytes 4 t.rank ++ leBytes 4 1 ++ leBytes 4 0)
      w1.turnAdvance h { t with dones := setInsert rank t.dones }

/-- Turn messages in the order of R318: ABORT, DONE, ARRIVE. -/
def turnTakes (w : World) (h : Nat) (l : List Msg) : World :=
  let order (k : BitVec 8) : List Msg := l.filter (fun m => m.kind == k)
  w.each (order 8#8 ++ order 7#8 ++ order 6#8) (fun w m => w.turnTake h m)

/-- The turn messages of the tick are taken, R318. -/
def turnMessages (w : World) (h : Nat) : World :=
  match w.turn h with
  | none => w
  | some t => (w.setTurn h { t with inTick := [] }).turnTakes h t.inTick.reverse

/-- What stands for a husk whose turn has not begun. -/
def turnNone : TurnSt := ⟨8, 0, 0, [], 0, 0, [], 0, 0, [], [], [], false, .empty, 0, 0, [], [], []⟩

/-- ARRIVE, DONE or ABORT received: those of a tick are taken together at its end (R318); those of a turn that the module has not
started are kept until it starts it (R312). -/
def turnMessage (w : World) (h : Nat) (m : Msg) : World :=
  let id := m.addr.toNat / 65536
  let keep (t : TurnSt) : World := w.setTurn h { t with early := m :: t.early }
  match w.turn h with
  | none => if w.rd (oHuskTurnIdCurrent h) < id then keep turnNone else w
  | some t =>
    if t.turnId = id then
      (if 8 ≤ t.stage then w else (w.setTurn h { t with inTick := m :: t.inTick }).dueLater (.turnMessages h))
    else if w.rd (oHuskTurnIdCurrent h) < id then keep t
    else w

/-- TURN_COPY, R309: the piece is written; the sender is told when the whole entry has come. -/
def turnCopyIn (w : World) (h : Nat) (m : Msg) : World :=
  match w.turn h with
  | none => w
  | some t =>
    let d := m.payload
    let i := leNat ((d.drop 4).take 4)
    let k := leNat ((d.drop 8).take 8) / 65536
    if t.turnId ≠ m.addr.toNat / 65536 ∨ (t.stage ≠ 2 ∧ t.stage ≠ 3) then w
    else match t.plan.find? (fun p => p.1 == i) with
      | none => w
      | some (_, v) =>
        let c := t.copies.getD i copyInit
        if peKind v ≠ 1 ∨ peTo v ≠ t.rank ∨ c.got.elem k ∨ c.moving.elem k then w
        else if m.poisoned then w.turnBroken h t 0x0010
        else match w.pieceStore h t i v k (d.drop 16) with
          | .error (e, w1) => w1.turnBroken h t e
          | .ok (t1, w1) => w1.turnPump h t1

/-- TURN_ACK: a COPY received whole (kind 0) or a DONE received (kind 1), R313. -/
def turnAckIn (w : World) (h : Nat) (m : Msg) : World :=
  match w.turn h with
  | none => w
  | some t =>
    let d := m.payload
    let rank := leNat ((d.drop 4).take 4)
    let i := leNat ((d.drop 12).take 4)
    if t.turnId ≠ m.addr.toNat / 65536 ∨ t.stage ≠ 3 then w
    else if leNat ((d.drop 8).take 4) = 1 then w.turnAdvance h { t with doneAcks := setInsert rank t.doneAcks }
    else
      let c := t.copies.getD i copyInit
      w.turnPump h { t with copies := t.copies.put i { c with acked := true } }

/-- A reply to a message of turn `id` that a participant is gone or out of date, R316; `failed` is the reason of a transfer that it refused, 0 when it
refused another message. -/
def turnLost (w : World) (h id node husk failed : Nat) : World :=
  match w.turn h with
  | none => w
  | some t =>
    if t.turnId = id ∧ (t.stage = 1 ∨ t.stage = 2 ∨ t.stage = 3) then
      match t.parts.findIdx? (fun p => fld p 0 16 == node && fld p 16 4 == husk) with
      | some k => (if failed = 0 then w else w.turnFailed h failed).turnAbort h t 0x060A k 5 true
      | none => w
    else w

/-! ### Start, validation and drain -/

/-- HuskTurnStart, R306 and R310. -/
def turnStart (w : World) (h : Nat) : Nat × World :=
  if !stIdleOrTerminal (w.rd (oTurnStatus h 0)) then (0x0605, w)
  else
    let id := fld (w.rd (oHuskTurnConfig h)) 32 32
    let early : List Msg := match w.turn h with
      | some t => t.early.filter (fun m => m.addr.toNat / 65536 == id)
      | none => []
    let w1 := (w.startOp (oTurnStatus h) 0x061 2).setTurn h { turnNone with stage := 0, turnId := id, prevPhase := w.rd (oHuskPhase h), since := w.now,
                                                                            early := early.filter (fun m => m.kind != 8#8) }
    (0, w1.turnTakes h (early.reverse.filter (fun m => m.kind == 8#8)))

/-- A table of R304 or R307 of at most `most` entries: TURN_ID, CRC and the entries, or none when it does not hold together. -/
def turnTable (w : World) (h base size most : Nat) (id : Option Nat) : Option (Nat × List Nat) :=
  let ((hd, ok), _) := w.readVirt h (masterId 0xA 0) 1 base 64
  let n := fld hd.nat 0 32
  if !ok || hd.anyBad || fld hd.nat 96 416 != 0 || (match id with
      | some i => fld hd.nat 64 32 != i
      | none => false) || decide (most < n) then none
  else
    let ((d, ok'), _) := w.readVirt h (masterId 0xA 0) 1 (base + 64) (n * size)
    let crc := crc32c d.data
    if !ok' || d.anyBad || crc != fld hd.nat 32 32 then none
    else some (crc, (List.range n).map (fun i => leNat ((d.data.drop (i * size)).take size)))

/-- The participant table, and this rank, R306 and condition 1 of R308. -/
def turnParts (w : World) (h cfg : Nat) : Option (List Nat × Nat) :=
  let n := fld cfg 16 16
  let ((d, ok), _) := w.readVirt h (masterId 0xA 0) 1 (w.rd (oHuskTurnParticipants h)) (4 * n)
  let ps := (List.range n).map (fun i => leNat ((d.data.drop (4 * i)).take 4))
  let mine (p : Nat) : Bool := fld p 0 16 == w.self && fld p 16 4 == h
  if decide (w.rd (oHuskTurnIdCurrent h) < fld cfg 32 32) && n != 0 && decide (n ≤ 49152)
      && fld cfg 4 4 != 2 && decide (fld cfg 4 4 ≤ 7) && fld cfg 0 2 != 3 && ok && !d.anyBad
      && (ps.filter mine).length == 1 then
    some (ps, (ps.findIdx? mine).getD 0)
  else none

/-- The layout in force: its entries, none when there is no layout. -/
def turnCurrent (w : World) (h : Nat) : List Nat :=
  if w.rd (oHuskLayoutCurrent h) = 0 then []
  else match w.turnTable h (w.rd (oHuskLayoutCurrent h)) 32 (2 ^ 32 - 1) none with
    | some x => x.2
    | none => []

/-- Validation ends, R308: the turn fails, or its drain begins in the next tick (R311). -/
def turnValid (w : World) (h : Nat) : World :=
  match w.turn h with
  | none => w
  | some t =>
    if t.stage ≠ 0 then w
    else
      let cfg := w.rd (oHuskTurnConfig h)
      match w.turnParts h cfg with
      | none => w.turnAbort h t 0x0602 0xFFFF 5 false
      | some (parts, rank) =>
        match w.turnTable h (w.rd (oHuskTurnLayoutBase h)) 32 (2 ^ 32 - 1) (some t.turnId),
            w.turnTable h (w.rd (oHuskTurnPlanBase h)) 64 16777214 (some t.turnId) with
        | some (lc, layout), some (pc, plan) =>
          let n := parts.length
          let mine := ranksEnts rank layout
          let old := match w.rd (oHuskTurnIdCurrent h) with
            | 0 => []
            | _ => ranksEnts rank (w.turnCurrent h)
          if layout.all (layoutEntOk n) && plan.all (planEntOk n plan.length) && turnPlanOk rank old mine plan then
            let keep := ((List.range plan.length).zip plan).filter (fun p => peFrom p.2 == rank || peTo p.2 == rank)
            let copies := (keep.filter (fun p => peKind p.2 == 1 && peFrom p.2 == rank)).length
            let own (m : Msg) : Bool := m.addr.toNat / 65536 == t.turnId
            let t1 := { t with stage := 1, rank := rank, parts := parts, layoutCrc := lc, planCrc := pc, plan := keep, since := w.now,
                               early := t.early.filter (fun m => !own m) }
            let w1 := ((w.setOpProgress (oTurnStatus h 0) 0 2).turnSummary h 0 0xFFFF 1).wr (oTurnStatus h 2) copies
            ((w1.setTurn h t1).dueLater (.turnDrain h t.turnId)).turnTakes h (t.early.reverse.filter own)
          else w.turnAbort h t 0x0603 0xFFFF 5 false
        | _, _ => w.turnAbort h t 0x0603 0xFFFF 5 false

/-- The first tick of the drain, R311: commands are held, and under CANCEL the husk's sequences are cancelled, after the boundaries of
the same tick (R252). -/
def turnDrainBegins (w : World) (h id : Nat) : World :=
  match w.turn h with
  | none => w
  | some t =>
    if t.stage ≠ 1 ∨ t.turnId ≠ id then w
    else
      let w1 := w.upSeqs (fun s => { s with turnHeld := setInsert h s.turnHeld })
      let cancel := fld (w.rd (oHuskTurnConfig h)) 0 2 == 1
      let w2 := if cancel then w1.tenantCatchUp else w1
      let live := if cancel then (w2.seqsOf h).filter (fun q => sqLive (w2.seqState h q)) else []
      (w2.each live (fun w q => w.seqEnd h q ssCancelled 0x0105)).setTurn h { t with cancelled := live, since := w.now }

/-- Has the drain of husk h ended, R311? -/
def turnDrained (w : World) (h : Nat) (t : TurnSt) : Bool :=
  let cfg := w.rd (oHuskTurnConfig h)
  let idle (r : RingRef) : Bool := (w.ring r).taken.isEmpty
  w.rd (oHuskSeqStepsInFlight h) == 0
    && (w.slicesOf h).all (fun s => idle (.slice (Fin.ofNat 16 s) 13 (Fin.ofNat 16 h)))
    && !w.runActive h
    && [0, 1].all (fun e => idle (.coll (Fin.ofNat 2 e) (Fin.ofNat 16 h)))
    && (fld cfg 0 2 != 0 || (w.seqsOf h).all (fun q => !sqLive (w.seqState h q)))
    && t.cancelled.all (fun q => (w.seqRt h q).held == 0)

/-- The drain ends, R311 and R312. -/
def turnDrain (w : World) (h : Nat) : World :=
  match w.turn h with
  | none => w
  | some t =>
    if t.stage ≠ 1 || !w.dev.seqs.turnHeld.elem h || !w.turnDrained h t then w
    else
      let t1 := { t with stage := 2, since := w.now }
      let w1 := ((w.setPhase h 2).turnRecord h 3 0).turnSummary h 0 0xFFFF 2
      let w2 := w1.each (turnOthers t1) (fun w k => w.sendTurn h t1 k 0x06 0 (leBytes 4 t.layoutCrc ++ leBytes 4 t.planCrc ++ leBytes 4 t.rank))
      w2.turnBarrier h t1

/-- Has the time limit of the stage expired? -/
def turnExpired (w : World) (h stage : Nat) : Bool :=
  match w.turn h with
  | none => false
  | some t =>
    let limit := match stage with
      | 1 => w.rd (oHuskTurnDrainTimeout h)
      | 2 => w.rd (oHuskTurnBarrierTimeout h)
      | _ => w.rd (oHuskTurnCommitTimeout h)
    t.stage == stage && decide (t.since + limit ≤ w.now)

/-- A stage's time limit expires: the drain's, the barrier's, the commit's (R311, R312, R317); what completes the stage in that tick
comes first, so it is decided at the tick's end (R318). -/
def turnLimit (w : World) (h stage : Nat) : World := if w.turnExpired h stage then w.dueLater (.turnLimit h stage) else w

/-- A time limit that has expired without the stage's end. -/
def turnLimitNow (w : World) (h stage : Nat) : World :=
  match w.turn h with
  | none => w
  | some t =>
    if !w.turnExpired h stage then w
    else match stage with
      | 1 => w.turnAbort h t 0x0606 0xFFFF 5 true
      | 2 => w.turnAbort h t 0x0607 0xFFFF 5 true
      | _ => ((w.setOpState (oTurnStatus h 0) 3 0x0608).turnSummary h 0x0608 0xFFFF 7).setTurn h { t with stage := 7 }

/-- The operating point of the new phase is reached, R314. -/
def turnSwitched (w : World) (h : Nat) : World :=
  match w.turn h with
  | some t => if t.stage = 5 then w.turnRelease h t else w
  | none => w

/-- HuskTurnCancel takes effect, in the tick after its write (R318 and R425). -/
def turnCancel (w : World) (h : Nat) : Nat × World :=
  if stIdleOrTerminal (w.rd (oTurnStatus h 0)) then (0x000E, w)
  else match w.turn h with
    | some t => if t.stage ≤ 3 then (0, w.turnAbort h t 0x0601 0xFFFF 6 true) else (0x0605, w)
    | none => (0x000E, w)

/-- HuskTurnResolve, R317: accepted only while PAUSED. -/
def turnResolve (w : World) (h v : Nat) : Nat × World :=
  match w.turn h with
  | some t =>
    if t.stage ≠ 7 then (0x0605, w)
    else if v = 1 then (0, w.dueLater (.turnCommit h true))
    else if v = 2 then (0, w.turnAbort h t 0x0608 0xFFFF 5 true)
    else (0x000D, w)
  | none => (0x0605, w)

/-- A husk reset ends the turn; its word was set ABANDONED at the first step (R316, R423). -/
def turnHuskReset (w : World) (h : Nat) : World :=
  match w.turn h with
  | none => w
  | some t =>
    let w1 := if t.stage = 8 then w else (w.setPhase h t.prevPhase).upSeqs (fun s => { s with turnHeld := setErase h s.turnHeld })
    { w1 with dev := { w1.dev with turns := w1.dev.turns.del h } }

end World

/-- HUSK_TURN_START, R306. -/
def execHuskTurnStart (p : Path) (h : Fin 16) (v : Word) (s : State) : Host.Outcome State Fault Refusal :=
  s.done (fun w => w.odCommand p (0x30A0 + h.val * 256) 0x05 v true (World.onOne (fun w => w.turnStart h.val)))
/-- TURN_VALIDATED, R308. -/
def execTurnValidated (h : Fin 16) (s : State) : Host.Outcome State Fault Refusal := s.done (fun w => w.turnValid h.val)
/-- TURN_DRAIN_END, R311. -/
def execTurnDrainEnd (h : Fin 16) (s : State) : Host.Outcome State Fault Refusal := s.done (fun w => w.turnDrain h.val)
/-- TURN_DRAIN_TIMEOUT, R311. -/
def execTurnDrainTimeout (h : Fin 16) (s : State) : Host.Outcome State Fault Refusal := s.done (fun w => w.turnLimit h.val 1)
/-- TURN_BARRIER_TIMEOUT, R312. -/
def execTurnBarrierTimeout (h : Fin 16) (s : State) : Host.Outcome State Fault Refusal := s.done (fun w => w.turnLimit h.val 2)
/-- TURN_COMMIT_TIMEOUT, R317. -/
def execTurnCommitTimeout (h : Fin 16) (s : State) : Host.Outcome State Fault Refusal := s.done (fun w => w.turnLimit h.val 4)
/-- HUSK_TURN_CANCEL, R318. -/
def execHuskTurnCancel (p : Path) (h : Fin 16) (v : Word) (s : State) : Host.Outcome State Fault Refusal :=
  s.done (fun w => w.odCommand p (0x30A0 + h.val * 256) 0x06 v true (World.onOne (fun w => w.cancelDue (.cancelTurn p h.val))))
/-- TURN_RESOLVE_COMMIT, R317. -/
def execTurnResolveCommit (p : Path) (h : Fin 16) (s : State) : Host.Outcome State Fault Refusal :=
  s.done (fun w => w.odCommand p (0x30A0 + h.val * 256) 0x07 1 true (fun w n => w.turnResolve h.val n))
/-- TURN_RESOLVE_ABORT, R317. -/
def execTurnResolveAbort (p : Path) (h : Fin 16) (s : State) : Host.Outcome State Fault Refusal :=
  s.done (fun w => w.odCommand p (0x30A0 + h.val * 256) 0x07 2 true (fun w n => w.turnResolve h.val n))

end Sys2Proof.Machine
end

