-- ==== Sys2Proof/Machine/Husks.lean ====
section
/-! DEFINITION. Husks (R325 to R334, R343, R344): their configuration, keys, frames, teardown and the completion of a husk
reset. -/
namespace Sys2Proof.Machine

/-- Every queue of every slice, as husk h sees it, its filler queues excepted (R334). -/
def sliceRingsOf (h : Nat) : List RingRef :=
  ((List.range 16).map (fun s => (List.range 15).map (fun q =>
    (RingRef.slice (Fin.ofNat 16 s) (Fin.ofNat 16 q) (Fin.ofNat 16 h))))).flatten

/-- The rings of husk h at the collective engines. -/
def collRingsOf (h : Nat) : List RingRef := [.coll 0 (Fin.ofNat 16 h), .coll 1 (Fin.ofNat 16 h)]

/-- Is it a unit of slice s: its matrix engines and the sequencers that receive chain sets (R18)? -/
def unitOfSlice (s m : Nat) : Bool :=
  match masterType m with
  | 0x1 => masterIndex m / 8 == s
  | 0x2 => masterIndex m / 256 == s
  | 0x4 => masterIndex m == s
  | 0x5 => masterIndex m == s
  | 0x6 => masterIndex m == s
  | 0x7 => masterIndex m == s
  | 0x8 => masterIndex m == s
  | 0x9 => masterIndex m == s
  | 0xF => masterIndex m == s
  | _ => false

/-- Kinds of message that ask something of their receiver (R369, R389). -/
def asksReply (m : Msg) : Bool := [0x01, 0x02, 0x05, 0x06, 0x07, 0x08, 0x0A, 0x0B].elem m.kind.toNat

namespace World

/-! ### Configuration, R325 and R326 -/

/-- May the husk be enabled, R326? -/
def huskConfigOk (w : World) (h : Nat) : Bool :=
  let others := allHusks.filter (fun k => k != h && w.huskState k != hsDisabled)
  let sl := w.rd (oHuskSlices h)
  let f := w.rd (oHuskTenantFirst h)
  let n := w.rd (oHuskTenantCount h)
  let share := ((h :: others).map (fun k => w.rd (oHuskNmuShare k))).foldl (· + ·) 0
  sl != 0 && others.all (fun k => w.rd (oHuskSlices k) &&& sl == 0) && w.rd (oHuskGuestSlices h) &&& sl == 0
    && decide (f + n ≤ 16384)
    && others.all (fun k =>
      let g := w.rd (oHuskTenantFirst k)
      let m := w.rd (oHuskTenantCount k)
      n == 0 || m == 0 || decide (f + n ≤ g) || decide (g + m ≤ f))
    && decide (share ≤ 256)

/-- The queue images of husk h on its slices disabled and empty. -/
def ringsOff (w : World) (rs : List RingRef) : World :=
  w.each rs (fun w r =>
    let x := w.ring r
    w.setRing r { x with enable := false, head := x.tail, taken := [], state := 0 })

/-- A key pair drawn for husk h, R330: its epoch counts, and its check value follows from its first key. -/
def drawKey (w : World) (h : Nat) : World :=
  let k := w.dev.keysDrawn + 1
  (({ w with dev := { w.dev with keysDrawn := k, keys := w.dev.keys.put h k } }).wr (oHuskKeyEpoch h)
    (fit 32 (w.rd (oHuskKeyEpoch h) + 1))).wr (oHuskKeyCheck h) (keyCheck k)

/-- HuskControl 1, R326. -/
def huskEnable (w : World) (h : Nat) : Nat × World :=
  if w.huskState h ≠ hsDisabled then (0x0A02, w)
  else if !w.huskConfigOk h then (0x0A01, w)
  else
    let w1 := (w.wr (oHuskState h) hsEnabling).drawKey h
    let w2 := w1.each (w1.slicesOf h) (fun w s => (w.zeroRange (s * 0x4000000) 0x2000000).wr (oSliceOwner s) h)
    (0, w2.selectSoon.ringsOff ((sliceRingsOf h).filter (fun r => (w.slicesOf h).elem (ringSlice r))))

/-- The teardown of a DISABLE begins, R344. -/
def disableStart (w : World) (h master : Nat) : World :=
  (w.wr (oHuskState h) hsDisabling).beginReset 1 h 14 master 0 0xFFFF

/-- A husk becomes ACTIVE: its slices that run no husk run it; a DISABLE held until now takes effect (R344). -/
def becomeActive (w : World) (h : Nat) : World :=
  match w.dev.resets.disableHeld.get? h with
  | some m => (w.upResets (fun r => { r with disableHeld := r.disableHeld.del h })).disableStart h m
  | none =>
    (w.wr (oHuskState h) hsActive).selectSoon.each (w.slicesOf h) (fun w s =>
      if w.running s = 0xFF ∧ !w.dev.cycle.changes.has s then w.wr (oSliceRunning s) h else w)

/-- HuskControl 2, R344. -/
def huskDisable (w : World) (h master : Nat) : Nat × World :=
  let st := w.huskState h
  if st = hsActive then (0, w.disableStart h master)
  else if st = hsEnabling ∨ st = hsResetting then (0, w.upResets (fun r => { r with disableHeld := r.disableHeld.put h master }))
  else if st = hsDisabled then (0x0A03, w)
  else (0x0A02, w)

/-- A write of HuskControl, R325. -/
def huskControl (w : World) (h master v : Nat) : Nat × World :=
  match v with
  | 1 => w.huskEnable h
  | 2 => w.huskDisable h master
  | _ => (0x0003, w)

/-! ### Frames, R327 -/

/-- Frames of a segment with the bytes written: those that a write ignores left out. -/
def frameWrites (w : World) (first : Nat) (data : List Byte) : List (Nat × Nat) :=
  ((List.range data.length).zip data).filterMap (fun p =>
    let f := first + p.1
    let b := p.2.toNat
    if reserveFrame f || w.podFrame f || b == 0xFE || b == 0xFF then none else some (f, b))

/-- A segment write to HbmFrameOwner, R327 and R415. -/
def frameWrite (w : World) (first : Nat) (data : List Byte) : Nat × World :=
  let ws := w.frameWrites first data
  if ws.any (fun p => decide (0x11 ≤ p.2)) then (0x000D, w)
  else if ws.any (fun p =>
      let old := w.dev.frames.getD p.1 0
      old != 0 && old != p.2 && w.huskState (old - 1) != hsDisabled) then (0x0A02, w)
  else
    let w1 := w.each ws (fun w p => { w with dev := { w.dev with
      frames := if p.2 = 0 then w.dev.frames.del p.1 else w.dev.frames.put p.1 p.2 } })
    (0, w1.each allHusks (fun w h =>
      w.wr (oHuskHbmQuota h) (0x200000 * (w1.dev.frames.vals.filter (fun b => b == h + 1)).length)))

/-! ### Teardown, R343 -/

/-- One command of a ring completes with STATUS 3 and HUSK_TORN_DOWN, while the completion ring has room. -/
def tearOne (w : World) (r : RingRef) (tag : Nat) : World :=
  let y := w.ring r
  if y.dist y.cqtail y.cqhead + 1 < y.size then w.putRecord r tag 0x0A07 3 else w

/-- The commands that wait in a ring complete so, in order. -/
def tearQueued (r : RingRef) : Nat → World → World
  | 0, w => w
  | n + 1, w =>
    let y := w.ring r
    let (d, _) := w.ringRead r (y.qbase + 128 * y.head + 6) 2
    let w1 := w.tearOne r d.1.nat
    tearQueued r n (w1.setRing r { w1.ring r with head := ((w1.ring r).head + 1) % y.size })

/-- Complete every command of a ring, taken or waiting in it, with STATUS 3 and HUSK_TORN_DOWN; then the queue is disabled
and empty. -/
def tearRing (w : World) (r : RingRef) : World :=
  let x := w.ring r
  let w1 := (w.dropReaders r).each (x.taken.map (fun t => t.tag)) (fun w tag => (w.setRing r { w.ring r with taken := [] }).tearOne r tag)
  (tearQueued r (x.dist x.tail x.head) w1).ringsOff [r]

/-- The pool of husk h: every object evicted, its bytes free (R343). -/
def poolTear (w : World) (h : Nat) : World :=
  let w1 := w.each (w.poolHeld h) (fun w p =>
    ((w.setPoolEnt h 0 p.1 { p.2 with state := 0, holds := 0 }).poolFrees h p.2.bytes (p.2.state == 2)).inc (oHuskPoolEvictions h)
      (if p.2.state = 2 then 1 else 0))
  w1.upPf (fun p => { p with poolQueue := p.poolQueue.del h })

/-- The prefetch engine of a slice stops: a publication in progress is cut off (R149). -/
def prefetchTear (w : World) (s : Nat) : World :=
  let x := w.pf s
  let es := (match x.single with
    | some e => [e]
    | none => []) ++ (match x.run with
    | some r => r.flight.vals
    | none => [])
  let w1 := w.each es (fun w e =>
    if [13, 7, 8].elem e.stage ∧ pKind e.cmd = 3 then
      (match w.peek (w.pfHusk s) (pDst e.cmd) .wr with
      | some pa => w.upPf (fun p => { p with cutShards := setInsert pa p.cutShards })
      | none => w)
    else w)
  w1.setPf s ⟨none, none⟩

/-- Messages accepted for husk h and not answered are answered with NACK_GONE (R369). -/
def repliesOwed (w : World) (h : Nat) : World :=
  let f := w.dev.fabric
  let mine (m : Msg) : Bool := m.dstHusk.toNat == h && m.vc != 0#3 && m.vc != 7#3
  let part := (f.assembling.vals.map (fun r => msgOf w.self r.vc r.hdr [])).filter mine
  let early := match w.dev.turns.get? h with
    | some t => t.early
    | none => []
  let owed := (part ++ f.inbox.filter mine ++ early).filter asksReply
  ((w.each owed (fun w m => w.postNack m 0x0302)).upFabric (fun x => { x with
    assembling := x.assembling.delIf (fun _ r => mine (msgOf w.self r.vc r.hdr [])),
    inbox := x.inbox.filter (fun m => !mine m) })).pump

/-- A slice of husk h after its teardown, R343 and R474 step H4: scratch zeroed (the guest window of another husk stays),
its pips, banks and chain sets cleared unless another husk runs there, its clusters' copies invalidated. -/
def sliceTear (w : World) (h s : Nat) : World :=
  let other := match w.dev.cycle.windows.get? s with
    | some x => x != h
    | none => false
  let lent := w.dev.cycle.lent.items.any (fun p => p.1 / 16 == s)
  let guest := decide (w.running s < 16) && w.running s != h
  let w1 := w.zeroRange (s * 0x4000000) (if other || lent || guest then 0x1C00000 else 0x2000000)
  if guest then w1
  else
    let keepEngine (m : Nat) : Bool := masterType m == 0x1 && w.dev.cycle.lent.has (s * 16 + masterIndex m % 8)
    let w2 := { w1 with dev := { w1.dev with
      pips := w1.dev.pips.delIf (fun p _ => pipSlice p == s),
      engines := w1.dev.engines.delIf (fun m _ => unitOfSlice s m && !keepEngine m),
      attn := w1.dev.attn.del s } }
    let w3 := w2.upCoh (fun c => { c with
      copies := c.copies.delIf (fun k _ => k % 128 / 8 == s),
      dir := c.dir.mapVals (fun _ d => { d with owner := d.owner.filter (fun o => o / 8 != s), sharers := d.sharers.filter (fun o => o / 8 != s),
                                                writeback := d.writeback.filter (fun o => o / 8 != s), queue := d.queue.filter (fun q => q.1 / 8 != s) }) })
    let w4 := w3.upCoh (fun c => { c with dir := c.dir.delIf (fun _ d => d == DirLine.init) })
    w4.upCycle (fun c => { c with lent := c.lent.mapVals (fun k e => if k / 16 = s then ⟨.empty, []⟩ else e),
                                  live := c.live.filter (fun k => k / 16 != s) })

/-- What husk h had on the slices of others, R343: its filler commands and guest windows go, a slice it ran on returns to
its owner. -/
def guestTear (w : World) (h s : Nat) : World :=
  let f : List RingRef := [.filler (Fin.ofNat 16 s) 0, .filler (Fin.ofNat 16 s) 8]
  let w1 := if w.rd (oSliceFillerHusk s) = h then (w.fillersReturn s).each f tearRing else w
  let wz := if w1.huskState h = hsDisabling ∧ w1.dev.cycle.windows.get? s = some h then w1.zeroRange (guestWindow s) guestBytes else w1
  let w2 := wz.upCycle (fun c => { c with
    windows := if c.windows.get? s = some h then c.windows.del s else c.windows,
    saved := c.saved.del (savedKey s h) })
  let w3 :=
    if w2.running s = h then
      let w3 := ({ w2 with dev := { w2.dev with
        pips := w2.dev.pips.delIf (fun p _ => pipSlice p == s),
        engines := w2.dev.engines.mapVals (fun m e => if unitOfSlice s m ∧ masterType m = 0x1 then ⟨.empty, []⟩ else e) } }).wr (oSliceRunning s) 0xFF
      match w3.dev.cycle.changes.get? s with
      | some ch => w3.upCycle (fun c => { c with changes := c.changes.put s { ch with out := 0xFF, saved := true } })
      | none => if w3.ownerOf s = some h then w3 else
        (let want := w3.slotHusk 0 s
         if want < 16 then w3.requestChange s want w3.now false else w3)
    else w2
  match w3.dev.cycle.changes.get? s with
  | some ch =>
    if ch.incoming = h then
      let want := if w3.slotHusk 0 s = h then 0xFF else w3.slotHusk 0 s
      if want ≥ 16 ∧ ch.saved then w3.upCycle (fun c => { c with changes := c.changes.del s })
      else w3.upCycle (fun c => { c with changes := c.changes.put s { ch with incoming := want, restored := decide (16 ≤ want) } })
    else w3
  | none => w3

/-- The teardown of husk h, R343 and steps H2 to H4 of R474. -/
def huskTeardown (w : World) (h : Nat) : World :=
  let own := w.slicesOf h
  let w0 := w.repliesOwed h
  let w1 := w0.each own (fun w s => (w.updateHuskReset (Fin.ofNat 16 s) h).prefetchTear s)
  let w2 := (((((w1.turnHuskReset h).collHuskReset h).seqHuskReset h).podHuskReset h).poolTear h).pump
  let w3 := { w2 with dev := { w2.dev with t3 := w2.dev.t3.delIf (fun _ a => decide (a.user < 4) && a.husk == h) } }
  let w4 := (w3.each (sliceRingsOf h) tearRing).each (collRingsOf h) tearRing
  let w5 := w4.each allSlices (fun w s => w.guestTear h s)
  let w6 := w5.each own (fun w s => w.sliceTear h s)
  { w6 with dev := { w6.dev with
    tlb := w6.dev.tlb.delIf (fun k _ => k / 2 ^ 32 == h),
    barriers := w6.dev.barriers.delIf (fun k _ => k / 64 == h) } }

/-- Steps 2 to 4 of R344: tokens expire, slots go UNUSED, scratch and guest windows are zeroed, the key is destroyed. -/
def disableFinish (w : World) (h : Nat) : World :=
  let f := w.rd (oHuskTenantFirst h)
  let w1 := w.each ((List.range (w.rd (oHuskTenantCount h))).map (fun i => f + i)) (fun w i =>
    w.modTenant i (fun t => { t with expired := t.expired + t.available + t.held, available := 0, held := 0, state := 0 }))
  let w2 := w1.each (w1.slicesOf h) (fun w s =>
    let w1 := (w.sliceTear h s).wr (oSliceOwner s) 0xFF
    if w1.running s = h then w1.wr (oSliceRunning s) 0xFF else w1)
  let w3 := { w2 with dev := { w2.dev with keys := w2.dev.keys.del h } }
  let dflt := w3.rd oNumericsCanonicalDefault
  let w4 := if w3.rd (oHuskCanonicalMode h) = dflt then w3
    else (w3.wr (oHuskCanonicalMode h) dflt).wr (oHuskCanonicalEpoch h) (fit 32 (w3.rd (oHuskCanonicalEpoch h) + 1))
  (((w4.wr (oHuskActiveImage h) 0xFF).imagesSettle).wr (oHuskState h) hsDisabled).selectSoon

/-- A husk reset completes, R474 step H5; a DISABLE goes on to R344 steps 2 to 4. -/
def huskResetDone (w : World) (h : Nat) : World :=
  match w.dev.resets.seqs.get? h with
  | none => w
  | some _ =>
    let w1 := (w.huskTeardown h).upResets (fun r => { r with seqs := r.seqs.del h })
    let w2 := if w1.huskState h = hsDisabling then w1.disableFinish h
      else if w1.huskState h = hsResetting then w1.becomeActive h
      else w1
    ((((w2.inc (oHuskTeardowns h) 1).inc32 (oResetCount 0) 1).msixHusk h 1).resetRecordEnd h).endStep 3 h

end World

/-- HUSK_ENABLE, R326. -/
def execHuskEnable (p : Path) (h : Fin 16) (s : State) : Host.Outcome State Fault Refusal :=
  s.done (fun w => w.odCommand p (0x3000 + h.val * 256) 2 1 true (fun w n => w.huskControl h.val (pathMaster p) n))
/-- HUSK_ENABLE_DONE, R326. -/
def execHuskEnableDone (h : Fin 16) (s : State) : Host.Outcome State Fault Refusal :=
  s.done (fun w => if w.huskState h.val = hsEnabling then w.becomeActive h.val else w)
/-- HUSK_DISABLE, R344. -/
def execHuskDisable (p : Path) (h : Fin 16) (s : State) : Host.Outcome State Fault Refusal :=
  s.done (fun w => w.odCommand p (0x3000 + h.val * 256) 2 2 true (fun w n => w.huskControl h.val (pathMaster p) n))
/-- HUSK_RESET_DONE, R474. -/
def execHuskResetDone (h : Fin 16) (s : State) : Host.Outcome State Fault Refusal := s.done (fun w => w.huskResetDone h.val)
/-- TRANSLATION_INVALIDATION, R45. -/
def execTranslationInvalidation (h : Fin 16) (s : State) : Host.Outcome State Fault Refusal :=
  s.done (fun w => { w with dev := { w.dev with tlb := w.dev.tlb.delIf (fun k _ => k / 2 ^ 32 == h.val) } })

end Sys2Proof.Machine
end

