-- ==== Sys2Proof/Machine/Faults.lean ====
section
/-! DEFINITION. Fault records, their acknowledgement, hang monitors and the recovery ladder (R446 to R465, R526). -/
namespace Sys2Proof.Machine

/-- Is the source listed in R446? -/
def sourceListed (s : Nat) : Bool :=
  decide (s ≤ 4) || (decide (0x010 ≤ s) && decide (s < 0x01F)) || (decide (0x020 ≤ s) && decide (s < 0x068))
    || (decide (0x100 ≤ s) && decide (s < 0x1A8)) || (decide (0x1B0 ≤ s) && decide (s < 0x1C2))
    || (decide (0x1D0 ≤ s) && decide (s < 0x1E8)) || s == 0x1F0 || s == 0x1F1 || (decide (0x1F8 ≤ s) && decide (s ≤ 0x1FB))

/-- May FaultRecoverUnit name the unit, R461? -/
def recoverable (m : Nat) : Bool :=
  let i := masterIndex m
  match masterType m with
  | 0x3 => decide (i < 2048)
  | 0xD => decide (i < 8)
  | 0xA => decide (i < 2)
  | 0xC => decide (i < 24)
  | 0xE => decide (i < 8)
  | _ => false

/-- The source of the unit that REINIT_UNIT acts on: an NMU's is its stack's logic (R460, R461). -/
def reinitSource (m : Nat) : Nat :=
  match masterType m with
  | 0x3 => 0x180 + masterIndex m / 256 * 4 + 1
  | _ => unitSource m

/-- Time bound of a re-initialisation, R460; 0: none stated. -/
def reinitBound (m : Nat) : Nat :=
  match masterType m with
  | 0x3 => 50000
  | 0xD => 50000
  | 0xA => 30000
  | 0xC => 500000
  | 0xE => 40000
  | _ => 0

/-- The queue and slice that a unit of a slice serves, R80. -/
def unitQueue (m : Nat) : Option (Nat × Nat) :=
  let i := masterIndex m
  match masterType m with
  | 0x1 => some (i / 8, i % 8)
  | 0x4 => some (i, 8)
  | 0x5 => some (i, 9)
  | 0x6 => some (i, 10)
  | 0x7 => some (i, 11)
  | 0xF => some (i, 12)
  | 0x9 => some (i, 13)
  | 0x8 => some (i, 14)
  | _ => none

/-- The slice of a unit owned by one husk. -/
def unitSlice (m : Nat) : Option Nat :=
  match masterType m with
  | 0x2 => some (masterIndex m / 256)
  | _ => (unitQueue m).map (fun p => p.1)

namespace World

/-- The record goes to FaultHistory, R453. -/
def toHistory (w : World) (r : FaultRec) : World :=
  let i := w.rd oFaultHistoryNext
  (w.upFaults (fun f => { f with history := f.history.put i r })).wr oFaultHistoryNext ((i + 1) % 256)

/-- The escalation timer of husk h expires, R457. -/
def escalate (w : World) (h : Nat) : World :=
  let src := huskSource h
  let r := w.faultRec src
  if r.deadline = 0 ∨ w.now < r.deadline then w
  else (w.setRec src { r with escalated := true, deadline := 0, action := 3 }).beginReset 1 h 6 0 0x0802 src

/-- A write of FaultAck is answered at the end of its tick: the tick's events merge, and a timer that expires in it is taken, before
it acts (R33, R453, R457). -/
def faultAck (p : Path) (w : World) (v : Nat) : Nat × World := w.cancelDue (.faultAck p v)

/-- An acknowledgement acts, R453, after the expiry of its tick (R457). -/
def faultAckNow (w : World) (v : Nat) : Nat × World :=
  let src := fld v 0 16
  let w0 := if 0x1B0 ≤ src ∧ src < 0x1C0 then w.escalate (src - 0x1B0) else w
  let r := w0.faultRec src
  if !r.valid || fld v 16 16 != r.seq then (0x000D, w)
  else if r.acked then (0, w0)
  else
    let r1 := { r with deadline := 0 }
    (0, (w0.toHistory r1).setRec src (if r1.conds = 0 then { r1 with valid := false } else { r1 with acked := true }))

/-- Every condition of a record has ended, R452 and R453. -/
def conditionsEnd (w : World) (src : Nat) : World :=
  let r := w.faultRec src
  if !r.valid || r.conds == 0 then w
  else w.setRec src { r with conds := 0, cleared := true, valid := !r.acked }

/-- One condition of a record ends. -/
def conditionEnds (w : World) (src : Nat) : World :=
  let r := w.faultRec src
  if 1 < r.conds then w.setRec src { r with conds := r.conds - 1 } else w.conditionsEnd src

/-! ### Re-initialisation, R460 -/

/-- Rows of a command's destination poisoned. -/
def poisonRows (w : World) (c : Ctx) (f : Fmt) (va ld rows n : Nat) : World :=
  w.each (List.range rows) (fun w i => w.poisonVirt c.husk c.master (va + i * ld * 32) (f.rowBytes n))

/-- The destination of a command in flight is poisoned, R460. -/
def poisonDest (w : World) (c : Ctx) (q cmd : Nat) : World :=
  if q < 8 then (if gOut cmd = 1 ∨ gOut cmd = 2 then w.poisonRows c (gOutFmt cmd) (gAddrC cmd) (gLdc cmd) (gM cmd) (gN cmd) else w)
  else match q with
    | 9 =>
      let rows := aRows cmd (w.lenTable c cmd)
      w.each rows (fun w r => w.writeResult c cmd r ⟨f32Zero, f32Zero, List.replicate (aD cmd) f32Zero, true⟩)
    | 12 =>
      let n := 64 * (if cmdOp cmd = 2 then nTcCount cmd else nTrCount cmd)
      if gOut cmd = 3 then w else w.poisonRows c (nOutFmt cmd) (nC cmd) (nLdc cmd) (nV cmd) n
    | _ => w

/-- The commands in flight on a queue complete with a status and a reason, their destinations poisoned. -/
def endFlight (w : World) (r : RingRef) (q status reason : Nat) (which : Taken → Bool) : World :=
  let hit (t : Taken) : Bool := t.wait != .done && which t
  let c := w.ctx r
  let w1 := w.each (((w.ring r).taken.filter hit).filter (fun t => t.wait != .chainOut)) (fun w t => w.poisonDest c q t.cmd)
  w1.setRing r { w1.ring r with taken := (w1.ring r).taken.map (fun t => if hit t then { t with wait := .done, status := status, reason := reason } else t) }

/-- The commands in flight on a queue complete with STATUS 2 and NACK_GONE, R460. -/
def failFlight (w : World) (r : RingRef) (q : Nat) (which : Taken → Bool) : World := w.endFlight r q 2 0x0302 which

/-- The husk whose commands a queue of a slice serves now. -/
def servedHusk (w : World) (s q : Nat) : Nat := if q < 9 then w.running s else (w.ownerOf s).getD 0xFF

/-- The unit of a slice's queue is re-initialised. -/
def reinitQueue (w : World) (s q : Nat) : World :=
  let h := w.servedHusk s q
  if 16 ≤ h then w
  else
    let r : RingRef := .slice (Fin.ofNat 16 s) (Fin.ofNat 16 q) (Fin.ofNat 16 h)
    let w1 := match q with
      | 11 => ((List.range 257).foldl (fun (w : World) n => match w.entry s n with
          | some e => if e.flying then (w.transferFails s n 0x0302) else w
          | none => w) w)
      | 13 => w.updateHuskReset (Fin.ofNat 16 s) h
      | 14 => w.upPods (fun p => { p with
          queue := p.queue.filter (fun a => !(a.slice == s && a.seq.isNone)),
          swaps := p.swaps.delIf (fun _ (o : SwapOp) => o.slice == s && (p.groups.get? o.group).any (fun (g : SwapGroup) => g.seq.isNone)),
          groups := p.groups.delIf (fun _ g => g.slice == s && g.seq.isNone) })
      | _ => w
    let w2 := w1.failFlight r q (fun _ => q != 11)
    if q = 9 then { w2 with dev := { w2.dev with attn := w2.dev.attn.del s } } else w2

/-- Does a waiting NMU command, or a GEMM_BSTREAM, of husk h use stack a? -/
def usesStack (w : World) (h a q : Nat) (t : Taken) : Bool :=
  let on (r : MatrixRec) (tr0 n : Nat) : Bool := r.bands.any (fun b =>
    b.stack == a && decide (b.tr0 < tr0 + n) && decide (tr0 < b.tr0 + b.trCount))
  if q = 12 then
    match w.activeSlot h with
    | some slot => ((w.imageInfo slot).records.find? (fun r => r.id == nMatrix t.cmd)).any (fun r => on r (nTr0 t.cmd) (nTrCount t.cmd))
    | none => false
  else cmdOp t.cmd == 2
    && ((w.imageInfo (t.aux.getD 0 0)).records.find? (fun r => r.id == t.aux.getD 1 0)).any (fun r =>
      on r (t.aux.getD 2 0) (((if bitAt t.cmd 31 then gK t.cmd else gN t.cmd) + 63) / 64))

/-- The commands in flight on the logic of stack a complete with a status and a reason. -/
def stackEnds (w : World) (a status reason : Nat) : World :=
  w.each allSlices (fun w s => w.each [0, 1, 2, 3, 4, 5, 6, 7, 12] (fun w q =>
    let h := w.servedHusk s q
    if 16 ≤ h then w
    else w.endFlight (.slice (Fin.ofNat 16 s) (Fin.ofNat 16 q) (Fin.ofNat 16 h)) q status reason (w.usesStack h a q)))

/-- The logic of stack a is re-initialised: the commands in flight on it fail, R460. -/
def reinitStack (w : World) (a : Nat) : World := w.stackEnds a 2 0x0302

/-- A collective engine is re-initialised: its descriptors end, those not started stay in their rings. -/
def reinitColl (w : World) (e : Nat) : World :=
  w.each (w.dev.coll.runs.vals.filter (fun r => r.engine == e)) (fun w r =>
    let w1 := if kReduces r.cmd then (w.settleOwn r (3, 0x0302)).2 else w
    let w2 := if kOp r.cmd = 8 then w1 else w1.poisonVirt r.husk (masterId 0xA e) (kDst r.cmd) (kCount r.cmd)
    w2.collEnd r 2 0x0302)

/-- REINIT_UNIT of the unit a master names begins, R460 and R461. -/
def reinit (w : World) (m : Nat) : World :=
  let src := reinitSource m
  let w0 := w.beginStep 2 src (reinitBound m)
  let w1 := if (w0.faultRec src).valid then w0.setRec src { w0.faultRec src with action := 2 } else w0
  match masterType m with
  | 0x3 => w1.reinitStack (masterIndex m / 256)
  | 0xD => w1.reinitStack (masterIndex m)
  | 0xA => w1.reinitColl (masterIndex m)
  | 0xC => w1.goDown (masterIndex m) 0x0301
  | 0xE => w1
  | _ => match unitQueue m with
    | some (s, q) => w1.reinitQueue s q
    | none => w1

/-- The husk that owns a unit now; 0xFF: none. -/
def hangHusk (w : World) (m : Nat) : Nat :=
  match unitSlice m with
  | some s => if masterType m = 0x1 ∨ masterType m = 0x2 ∨ masterType m = 0x4 then w.running s else (w.ownerOf s).getD 0xFF
  | none => 0xFF

/-- A hang monitor fires, R458: the hung unit is a contained condition, of its husk when one husk owns the unit; REASON is
a value that the spec does not state (log entry 15). -/
def hang (w : World) (m : Nat) : World :=
  let (n, w1) := w.fresh
  let rs := BitVec.ofNat 16 (openReason n)
  let owner := w.hangHusk m
  if (unitSlice m).isNone && !recoverable m then w
  else
    let src := if owner < 16 then huskSource owner else reinitSource m
    let hk := if owner < 16 then owner else 0x1F
    let w2 := w1.reportFault ⟨BitVec.ofNat 16 src, 2, rs, BitVec.ofNat 16 m, 0, 0x61, BitVec.ofNat 5 hk, true⟩
    (w2.setRec src { w2.faultRec src with action := 2 }).reinit m

/-- A re-initialisation completes or fails, R460 and R462. -/
def reinitEnds (w : World) (m : Nat) (ok : Bool) : World :=
  let src := reinitSource m
  match w.dev.faults.steps.get? (2 * 65536 + src) with
  | none => w
  | some st =>
    let owner := w.hangHusk m
    let rec_ := if owner < 16 then huskSource owner else src
    if st.quiet.isSome then w
    else if ok then (w.endStep 2 src).conditionEnds rec_
    else
      let w1 := w.upFaults (fun f => { f with steps := f.steps.del (2 * 65536 + src) })
      if st.failed then w1 else w1.climb 2 rec_

/-- FaultRecoverUnit, R461. -/
def recoverUnit (w : World) (v : Nat) : Nat × World := if recoverable v then (0, w.reinit v) else (0x000D, w)

/-- A ladder step overruns its bound, R462. -/
def stepOverrun (w : World) (src : Nat) : World :=
  match w.dev.faults.steps.vals.find? (fun st => st.quiet.isNone && !st.failed && w.stepCovers st src && st.bound != 0 && decide (st.start + st.bound < w.now)) with
  | none => w
  | some st => (w.stepFails st).climb st.action src

/-- The quiet periods that are over end, R455. -/
def quietEnd (w : World) (src : Nat) : World :=
  let past (st : LadderStep) : Bool := w.stepCovers st src && (match st.quiet with
    | some t => decide (t ≤ w.now)
    | none => false)
  w.upFaults (fun f => { f with steps := f.steps.delIf (fun _ st => past st) })

/-- FaultInject, R465. -/
def faultInject (w : World) (v : Nat) : Nat × World :=
  let src := fld v 0 16
  let cls := fld v 16 4
  if w.rd oFaultTestMode ≠ 1 then (0x000B, w)
  else if !sourceListed src || cls == 0 || decide (3 < cls) then (0x000D, w)
  else
    let h := if 0x1B0 ≤ src ∧ src < 0x1C0 then src - 0x1B0 else 0x1F
    (0, w.reportFault ⟨BitVec.ofNat 16 src, cls, 0, 0, 0, 0xFF, BitVec.ofNat 5 h, false⟩)

/-- FaultUnfence, R462: the domains named are unfenced at the next cold reset. -/
def faultUnfence (w : World) (v : Nat) : Nat × World := (0, w.upFaults (fun f => { f with unfence := f.unfence ||| v }))

/-- Fences end, R462: those of `mask`, with the FENCED bits of the records whose failing unit lies there. -/
def fencesEnd (w : World) (mask : Nat) : World :=
  let keep := (List.range 32).filter (fun d => bitAt (w.rd oFaultFencedDomains) d && !bitAt mask d)
  (w.wr oFaultFencedDomains ((keep.map (fun d => 2 ^ d)).foldl (· + ·) 0)).upFaults (fun f => { f with
    unfence := 0,
    recs := f.recs.mapVals (fun _ r => match unitDomain r.master with
      | some d => if bitAt mask d then { r with fenced := false } else r
      | none => r) })

end World

/-- FAULT_EVENT, R143 and R450 to R458. -/
def execFaultEvent (f : FaultReport) (s : State) : Host.Outcome State Fault Refusal :=
  s.done (fun w => if sourceListed f.source.toNat && decide (1 ≤ f.cls) && decide (f.cls ≤ 3) then (w.hbmEvent f).reportFault f else w)
/-- FAULT_CONDITION_END, R452. -/
def execFaultConditionEnd (source : BitVec 16) (s : State) : Host.Outcome State Fault Refusal := s.done (fun w => w.conditionsEnd source.toNat)
/-- FAULT_ACK, R453. -/
def execFaultAck (p : Path) (v : Word) (s : State) : Host.Outcome State Fault Refusal :=
  s.done (fun w => w.odCommand p 0x7000 3 v true (World.faultAck p))
/-- ESCALATION_EXPIRY, R457. -/
def execEscalationExpiry (h : Fin 16) (s : State) : Host.Outcome State Fault Refusal := s.done (fun w => w.escalate h.val)
/-- HANG_MONITOR, R458. -/
def execHangMonitor (m : Master) (s : State) : Host.Outcome State Fault Refusal := s.done (fun w => w.hang m.toNat)
/-- REINIT_DONE, R460. -/
def execReinitDone (m : Master) (ok : Bool) (s : State) : Host.Outcome State Fault Refusal := s.done (fun w => w.reinitEnds m.toNat ok)
/-- FAULT_RECOVER_UNIT, R461. -/
def execFaultRecoverUnit (p : Path) (v : Word) (s : State) : Host.Outcome State Fault Refusal :=
  s.done (fun w => w.odCommand p 0x7002 1 v true World.recoverUnit)
/-- RECOVERY_STEP_OVERRUN, R462. -/
def execRecoveryStepOverrun (source : BitVec 16) (s : State) : Host.Outcome State Fault Refusal := s.done (fun w => w.stepOverrun source.toNat)
/-- FAULT_QUIET_END, R455. -/
def execFaultQuietEnd (source : BitVec 16) (s : State) : Host.Outcome State Fault Refusal := s.done (fun w => w.quietEnd source.toNat)
/-- FAULT_INJECT, R465. -/
def execFaultInject (p : Path) (v : Word) (s : State) : Host.Outcome State Fault Refusal :=
  s.done (fun w => w.odCommand p 0x7006 1 v true World.faultInject)
/-- FAULT_UNFENCE, R462. -/
def execFaultUnfence (p : Path) (v : Word) (s : State) : Host.Outcome State Fault Refusal :=
  s.done (fun w => w.odCommand p 0x7002 3 v true World.faultUnfence)

end Sys2Proof.Machine
end

