-- ==== Sys2Proof/Machine/Ledger.lean ====
section
/-! DEFINITION. The ledgers (R395 to R406): the identities that the device checks, and snapshots. The ledgers' counters
themselves change with their quantities, where those are modelled. -/
namespace Sys2Proof.Machine

/-- Numbers of 64 bits are equal. -/
def same64 (a b : Nat) : Bool := a % 2 ^ 64 == b % 2 ^ 64

/-- The sum of a list. -/
def sumOf (l : List Nat) : Nat := l.foldl (· + ·) 0

/-- Indexes of every ledger, R399. -/
def ledgerIndexes : List Nat :=
  (List.range 24).map (fun k => 0x7810 + k) ++ [0x7830, 0x7831, 0x7840, 0x7841, 0x7850]
    ++ (List.range 16).map (fun h => 0x7860 + h) ++ (List.range 16).map (fun h => 0x7870 + h) ++ [0x7880]

namespace World

/-- Counter j (subindex j + 1) of a ledger. -/
def ledger (w : World) (index j : Nat) : Nat := w.rd (if 0x7810 ≤ index ∧ index < 0x7828 then oLedgerLink (index - 0x7810) j else ⟨index * 256 + 1 + j, 0⟩)

/-- ISSUED = HELD + RETURNED, R398. -/
def ledgerSums (w : World) (x : Nat) : Bool := same64 (w.ledger x 0) (w.ledger x 1 + w.ledger x 2)

/-- Transmit credits of link k, R399. -/
def linkLedgerOk (w : World) (k : Nat) : Bool :=
  let x := 0x7810 + k
  w.ledgerSums x && same64 (w.ledger x 1) (w.ledger x 3 + w.ledger x 4) && same64 (w.ledger x 2) (w.ledger x 5 + w.ledger x 6)
    && w.ledger x 6 == w.rd (oLinkCreditsReclaimed k) && w.ledger x 1 == (if (w.link k).up then 1024 else 0)
    && w.ledger x 7 + w.ledger x 8 == 1024

/-- On-chip credits of die d. -/
def chipLedgerOk (w : World) (d : Nat) : Bool :=
  let x := 0x7830 + d
  w.ledgerSums x && w.ledger x 3 == w.ledger x 4 + w.ledger x 1

/-- Pods and references. -/
def podLedgerOk (w : World) : Bool :=
  w.ledgerSums 0x7840 && w.ledger 0x7840 1 == sumOf (allHusks.map (fun h => w.rd (oHuskPodsHeld h)))
    && w.ledger 0x7840 3 == w.rd oPodRegionPods && w.ledger 0x7840 4 == w.rd oPodsFree
    && w.ledger 0x7840 3 == w.ledger 0x7840 4 + w.ledger 0x7840 1
def refLedgerOk (w : World) : Bool :=
  w.ledgerSums 0x7841 && w.ledger 0x7841 1 == sumOf (allHusks.map (fun h => w.rd (oHuskPodRefs h)))

/-- Tenant tokens, with R252 for every slot. -/
def tokenLedgerOk (w : World) : Bool :=
  w.ledgerSums 0x7850 && same64 (w.ledger 0x7850 1) (w.ledger 0x7850 3 + w.ledger 0x7850 4)
    && same64 (w.ledger 0x7850 2) (w.ledger 0x7850 5 + w.ledger 0x7850 6)
    && (List.range tenantSlots).all (fun i =>
      let t := w.tenant i
      same64 t.issued (t.available + t.held + t.charged + t.expired))

/-- Pool bytes of husk h. -/
def poolLedgerOk (w : World) (h : Nat) : Bool :=
  let x := 0x7860 + h
  w.ledgerSums x && w.ledger x 1 == w.rd (oHuskPoolBytesResident h) + w.rd (oHuskPoolBytesLoading h)
    && w.ledger x 3 == w.rd (oHuskPoolBytes h) && w.ledger x 3 == w.rd (oHuskPoolBytesFree h) + w.ledger x 1

/-- Contributions of husk h. -/
def contribLedgerOk (w : World) (h : Nat) : Bool :=
  let x := 0x7870 + h
  w.ledgerSums x && same64 (w.ledger x 2) (w.ledger x 3 + w.ledger x 4 + w.ledger x 5)
    && w.ledger x 3 == w.rd (oHuskContribUsed h) && w.ledger x 4 == w.rd (oHuskContribDeferred h)
    && w.ledger x 5 == w.rd (oHuskContribDropped h) && w.ledger x 6 == w.rd (oHuskContribCarried h)
    && decide (w.ledger x 6 ≤ w.ledger x 3)

/-- Module energy. -/
def energyLedgerOk (w : World) : Bool :=
  w.ledgerSums 0x7880
    && same64 (w.ledger 0x7880 2) (sumOf (allHusks.map (fun h => w.rd (oEnergyHusk h))) + w.rd oEnergyUnattributed)

/-- Do the identities of a ledger hold, R398 and R399? -/
def ledgerOk (w : World) (x : Nat) : Bool :=
  if x < 0x7828 then w.linkLedgerOk (x - 0x7810)
  else if x < 0x7840 then w.chipLedgerOk (x - 0x7830)
  else if x = 0x7840 then w.podLedgerOk
  else if x = 0x7841 then w.refLedgerOk
  else if x = 0x7850 then w.tokenLedgerOk
  else if x < 0x7870 then w.poolLedgerOk (x - 0x7860)
  else if x < 0x7880 then w.contribLedgerOk (x - 0x7870)
  else w.energyLedgerOk

/-- Every identity evaluated, R402. -/
def ledgerCheck (w : World) : World :=
  w.each (ledgerIndexes.filter (fun x => !w.ledgerOk x)) (fun w x =>
    let w1 := w.inc oLedgerViolations 1
    let w2 := if w1.rd oLedgerFirstBroken = 0 then w1.wr oLedgerFirstBroken x else w1
    w2.containedUnit 0x000 0 0x60 0x0801 x)

/-- A snapshot is requested, R404: taken at the end of the next tick, unless a warm or cold reset takes this tick too. -/
def snapshotRequest (w : World) : Nat × World :=
  let reset := match w.dev.resets.seqs.get? 16 with
    | some r => r.start == w.now && (r.scope == 2 || r.scope == 3)
    | none => false
  if reset then (0, w) else (0, { w with dev := { w.dev with snapshot := some (w.now + 1) } })

/-- The snapshot is taken, R398 and R404. -/
def snapshotTaken (w : World) : World :=
  match w.dev.snapshot with
  | none => w
  | some t =>
    if w.now < t then w
    else
      let w1 := w.each ledgerIndexes (fun w x => w.each (List.range 9) (fun w j => w.wr ⟨x * 256 + 0x81 + j, 0⟩ (w.ledger x j)))
      { w1 with dev := { w1.dev with snapshot := none } }.wr oLedgerSnapshotTick w.now

/-- LedgerFirstBroken is cleared by writing its own value, R403. -/
def firstBrokenClear (w : World) (v : Nat) : Nat × World := if v = w.rd oLedgerFirstBroken then (0, w.wr oLedgerFirstBroken 0) else (0, w)

/-- The initial state of every ledger, R397. -/
def ledgerInit (w : World) : World :=
  let gone (k : Nat) : Bool := ledgerIndexes.elem (k / 256) || k / 256 == 0x7881 || k == oLedgerViolations.key || k == oLedgerFirstBroken.key
    || k == oLedgerSnapshotTick.key
  { w with dev := { w.dev with od := w.dev.od.delIf (fun k _ => gone k), snapshot := none } }.wr oLedgerBaseTick w.now

end World

/-- LEDGER_CHECK, R402. -/
def execLedgerCheck (s : State) : Host.Outcome State Fault Refusal := s.done (fun w => w.ledgerCheck)
/-- LEDGER_SNAPSHOT, R404. -/
def execLedgerSnapshot (p : Path) (v : Word) (s : State) : Host.Outcome State Fault Refusal :=
  s.done (fun w => w.odCommand p 0x7800 1 v true (World.onOne World.snapshotRequest))
/-- LEDGER_SNAPSHOT_TAKEN, R404. -/
def execLedgerSnapshotTaken (s : State) : Host.Outcome State Fault Refusal := s.done (fun w => w.snapshotTaken)
/-- LEDGER_FIRST_BROKEN_CLEAR, R403. -/
def execLedgerFirstBrokenClear (p : Path) (v : Word) (s : State) : Host.Outcome State Fault Refusal :=
  s.done (fun w => w.odCommand p 0x7800 5 v true World.firstBrokenClear)

end Sys2Proof.Machine
end

