-- ==== Sys2Proof/Machine/Power.lean ====
section
/-! DEFINITION. The root clock (R19 to R23), power capping, droop and thermal control (R485 to R502), and the attribution of
energy (R400, R502). -/
namespace Sys2Proof.Machine

/-! ### Operating points, R486 -/

def opValid (p : Nat) : Bool := bitAt p 63
def opPower (p : Nat) : Nat := fld p 32 16
def opIssue (p : Nat) : Nat := fld p 20 4
def opRoot (p : Nat) : Nat := fld p 0 16

/-- A point as it is kept: its RSVD fields read 0 (R8). -/
def opPointKept (p : Nat) : Nat := setFld (setFld (setFld p 48 15 0) 24 8 0) 16 4 0

/-- May the point be written, R486? -/
def opPointOk (p : Nat) : Bool :=
  decide (1 ≤ opIssue p) && decide (opIssue p ≤ 8)
    && decide (3200 ≤ opRoot p) && decide (opRoot p ≤ 7200) && opRoot p % 100 == 0

/-! ### Measurement points, R498: 0 to 15 slice junctions, 16 to 23 acorn stacks, 24 to 31 HBM stacks, 32 and 33 VCORE
banks, 34 and 35 coolant inlet and outlet -/

/-- Throttle, limit and trip of a point in 1/16 °C (trip 0: none). -/
def thresholds (k : Nat) : Nat × Nat × Nat :=
  if k < 16 then (1600, 1680, 1840)
  else if k < 32 then (1440, 1520, 1680)
  else if k < 34 then (1760, 1920, 2000)
  else if k = 34 then (640, 720, 0)
  else (880, 960, 0)

/-- Slices a point acts on. -/
def pointRegion (k : Nat) : List Nat :=
  if k < 16 then [k]
  else if k < 24 then [2 * (k - 16), 2 * (k - 16) + 1]
  else if k < 32 then [2 * (k - 24), 2 * (k - 24) + 1]
  else if k = 32 then List.range 8
  else if k = 33 then (List.range 8).map (fun i => 8 + i)
  else List.range 16

/-- All measurement points. -/
def allPoints : List Nat := List.range 36

/-- The distance of two numbers. -/
def gapOf (a b : Nat) : Nat := (a - b) + (b - a)

namespace World

/-- Change the power state. -/
def upPower (w : World) (f : PowerSt → PowerSt) : World := { w with dev := { w.dev with power := f w.dev.power } }
/-- Change the clocks. -/
def upTime (w : World) (f : TimeSt → TimeSt) : World := { w with dev := { w.dev with time := f w.dev.time } }

/-- Operating point j of husk h. -/
def opPoint (w : World) (h j : Nat) : Nat := w.rd (oHuskOpPoint h j)

/-- The valid points of a husk's phase, by number 8 × phase + i. -/
def validPoints (w : World) (h : Nat) : List Nat :=
  let ph := w.rd (oHuskPhase h)
  ((List.range 8).map (fun i => 8 * ph + i)).filter (fun j => opValid (w.opPoint h j))

/-- Slices of a husk. -/
def sliceCount (w : World) (h : Nat) : Nat := (w.slicesOf h).length

/-- The claim of a husk at a point, R486. -/
def claim (w : World) (budget h j : Nat) : Nat :=
  let p := w.opPoint h j
  if opPower p = 0 then budget * w.sliceCount h / 16 else opPower p

/-- The selection of R487 over the husks' remaining points (the head is in force). -/
def selectPoints (w : World) (budget : Nat) : Nat → List (Nat × List Nat) → List (Nat × List Nat)
  | 0, l => l
  | n + 1, l =>
    let cl (p : Nat × List Nat) : Nat := match p.2 with
      | j :: _ => w.claim budget p.1 j
      | [] => 0
    let later := l.filter (fun p => decide (2 ≤ p.2.length))
    match later with
    | [] => l
    | q :: qs =>
      if (l.map cl).foldl (· + ·) 0 ≤ budget then l
      else
        let best := qs.foldl (fun b p => if cl b < cl p then p else b) q
        selectPoints w budget n (l.map (fun p => if p.1 = best.1 then (p.1, p.2.drop 1) else p))

/-- The points in force, R487: HuskOpPointNow and HuskPowerClaim. A husk with no valid point keeps none and claims
nothing (log entry 35). -/
def applySelection (w : World) : World :=
  let budget := w.rd oPowerSustainedLimit - w.rd oPowerStaticAllowance
  let hs := allHusks.filter (fun h => w.active h && w.rd (oHuskSlices h) != 0)
  let sel := w.selectPoints budget 128 (hs.map (fun h => (h, w.validPoints h)))
  let forced (m : AMap Nat) (p : Nat × List Nat) : AMap Nat := match p.2 with
    | j :: _ => m.put p.1 (w.opPoint p.1 j)
    | [] => m
  let w1 := w.each allHusks (fun w h => if hs.elem h then w else w.wr (oHuskPowerClaim h) 0)
  (w1.each sel (fun w p => match p.2 with
    | j :: _ => (w.wr (oHuskOpPointNow p.1) j).wr (oHuskPowerClaim p.1) (fit 16 (w.claim budget p.1 j))
    | [] => (w.wr (oHuskOpPointNow p.1) (8 * w.rd (oHuskPhase p.1))).wr (oHuskPowerClaim p.1) 0)).upPower
    (fun s => { s with selectDue := false, inForce := sel.foldl forced .empty })

/-- ISSUE of the point in force of the husk that runs on a slice, R490; no point in force limits nothing (log entry 35). -/
def issueOf (w : World) (s : Nat) : Nat :=
  match w.dev.power.inForce.get? (w.running s) with
  | some p => opIssue p
  | none => 8

/-! ### The root, R20 to R23 and R488 -/

/-- The root target, R488. -/
def clippedTarget (w : World) : Nat :=
  let nom := w.dev.time.nominal
  let s := w.dev.power
  let roots := (allHusks.filter (fun h => w.active h)).filterMap (fun h => (s.inForce.get? h).map opRoot)
  if w.rd oClockFixedFrequency = 1 then nom
  else
    let t := match roots with
      | [] => nom
      | r :: rs => rs.foldl Nat.max r
    let boost := w.rd oClockBoostEnable == 1 && !s.peakSpent && s.throttled.isEmpty && decide (s.measured ≤ 3500)
    Nat.min (if boost then t else Nat.min t nom) s.rootCap

/-- A 100 MHz step begins when none is in progress and the root is not at its target. -/
def beginRootStep (w : World) : World :=
  let now := w.rd oClockRootNow
  let t := w.dev.time.rootTarget
  if w.dev.time.rootStepEnd.isSome || now == t then w
  else w.upTime (fun s => { s with rootStepEnd := some (w.now + 1000), rootStepUp := decide (now < t) })

/-- The target is taken anew at a power-management step, R22 and R488. -/
def retarget (w : World) : World :=
  (w.upTime (fun s => { s with rootTarget := w.clippedTarget })).beginRootStep

/-- An accepted ClockNominalRoot comes into force at the first tick after its write that is a multiple of 200, R22. -/
def nominalStep (w : World) : World :=
  match w.dev.time.rootPending with
  | some t => if w.now % 200 = 0 ∧ w.now ≠ t then
      (w.upTime (fun s => { s with nominal := w.rd oClockNominalRoot, rootPending := none })).retarget
    else w
  | none => w

/-- A step of the root ends, R20 and R21. -/
def rootStepDone (w : World) : World :=
  match w.dev.time.rootStepEnd with
  | none => w
  | some t =>
    if w.now < t then w
    else
      let r := w.rd oClockRootNow
      ((w.wr oClockRootNow (if w.dev.time.rootStepUp then r + 100 else r - 100)).upTime (fun s => { s with rootStepEnd := none })).beginRootStep

/-- Is the root descending: a downward step is in progress, or the target lies below? -/
def rootFalls (w : World) : Bool :=
  (w.dev.time.rootStepEnd.isSome && !w.dev.time.rootStepUp) || decide (w.dev.time.rootTarget < w.rd oClockRootNow)

/-- VCORE in mV at a root, R488: linear between the rows of its table, rounded up to 5 mV. -/
def vcoreAt (root : Nat) : Nat :=
  let row (r0 v0 v1 : Nat) : Nat := (v0 * 800 + (root - r0) * (v1 - v0) + 3999) / 4000 * 5
  if root ≤ 4000 then row 3200 600 650
  else if root ≤ 4800 then row 4000 650 690
  else if root ≤ 5600 then row 4800 690 720
  else if root ≤ 6400 then row 5600 720 750
  else row 6400 750 850

/-- The VCORE that is commanded now, R488: it rises to a step's value before the step and falls after it. -/
def vcoreNow (w : World) : Nat :=
  let r := w.rd oClockRootNow
  vcoreAt (if w.dev.time.rootStepEnd.isSome && w.dev.time.rootStepUp then r + 100 else r)

/-- Nominal voltage of a rail in mV, R477. -/
def railNominal (r : Nat) : Nat :=
  match r with
  | 1 => 1200
  | 2 => 1100
  | 3 => 750
  | 5 => 750
  | 6 => 750
  | 7 => 750
  | 8 => 3300
  | _ => 800

/-- Setpoint of a rail in mV, R480: VCORE follows the root, a VSER rail its direction's power state (R362). -/
def railSet (w : World) (r : Nat) : Nat :=
  if r = 5 ∨ r = 6 then w.vcoreNow
  else if 9 ≤ r then
    match w.rd (oFabricDirState (r - 9)) with
    | 0 => 800
    | 1 => 720
    | 2 => 720
    | _ => 0
  else railNominal r

/-- A rail's voltage as it is measured: of a GOOD rail within 90 to 110 % of its setpoint (R480), of one that is OFF at most 10 % of its
nominal value (R479), otherwise any; the spec does not state it more closely (log entry 165). -/
def railVoltage (w : World) (r : Nat) : Nat × World :=
  let (n, w1) := w.fresh
  let x := (Config.freeWord n).toNat
  let set := w.railSet r
  match w.rd (oRailState r) with
  | 2 => if set = 0 then (x % (railNominal r / 10 + 1), w1) else ((set * 9 + 9) / 10 + x % (set * 11 / 10 - (set * 9 + 9) / 10 + 1), w1)
  | 0 => (x % (railNominal r / 10 + 1), w1)
  | _ => (x % 65536, w1)

/-! ### The governor and the capper, R490 to R496 -/

/-- A ceiling of a slice. -/
def ceilOf (m : AMap Nat) (s : Nat) : Nat := m.getD s 8
/-- One eighth toward a target. -/
def toward (c t : Nat) : Nat := if c < t then c + 1 else if t < c then c - 1 else c

/-- The thermal ceiling that a limit imposes on a slice: 4 eighths. -/
def limitedSlice (w : World) (s : Nat) : Bool := w.dev.power.limited.any (fun k => (pointRegion k).elem s)

/-- The active limit, R493 and R494. -/
def activeLimit (w : World) : Nat := if w.dev.power.peakSpent then w.dev.power.limitNow else w.rd oPowerPeakLimit

/-- Does a switched domain stand in reset: in a module reset each, a slice whose owner is RESETTING, a port in its own reset? -/
def partReset (w : World) (d : Nat) : Bool :=
  w.dev.resets.seqs.has 16 || (decide (d < 16) && (w.ownerOf d).any (fun h => w.huskState h == hsResetting || w.huskState h == hsDisabling))
    || (decide (30 ≤ d) && w.dev.resets.seqs.has (17 + (d - 30)))

/-- A telemetry sample marks the parts that are in reset, R35. -/
def markParts (w : World) : World := w.upPower (fun s => { s with marked := (List.range 32).filter w.partReset })

/-- A capper step with the measured power of the last 100 ticks, R490 and R493. -/
def capperStep (w : World) (watts : Nat) : World :=
  if w.now % 200 ≠ 0 then w
  else
    let w0 := (w.markParts.wr oPowerInput (fit 16 watts)).upPower (fun s => { s with measured := watts })
    let w1 := w0.retarget
    let limit := w1.activeLimit
    let next (c : Nat) : Nat :=
      if w1.dev.power.excursion ∨ limit < watts then c - 1
      else if watts * 100 ≤ 98 * limit ∧ !w1.rootFalls then Nat.min 8 (c + 1) else c
    w1.each allSlices (fun w s =>
      let cap := next (ceilOf w.dev.power.capCeil s)
      let th := ceilOf w.dev.power.thermCeil s
      let th1 := if w.limitedSlice s ∧ 4 < th then th - 1 else th
      let c := toward (ceilOf w.dev.power.ceil s) (Nat.min (w.issueOf s) (Nat.min cap th1))
      w.upPower (fun p => { p with capCeil := p.capCeil.put s cap, thermCeil := p.thermCeil.put s th1, ceil := p.ceil.put s c }))

/-- A tick sample above the excursion limit, R495. -/
def excursion (w : World) (watts : Nat) : World :=
  if watts ≤ w.rd oPowerExcursionLimit then w
  else (w.inc32 oPowerExcursionEvents 1).upPower (fun s => { s with excursion := true })

/-- Has the slice work pending: a command taken or waiting in a queue of its engines? -/
def workPending (w : World) (s : Nat) : Bool :=
  let h := w.running s
  decide (h < 16) && (List.range 15).any (fun q =>
    let x := w.ring (.slice (Fin.ofNat 16 s) (Fin.ofNat 16 q) (Fin.ofNat 16 h))
    !x.taken.isEmpty || (x.enable && x.head != x.tail))

/-- A sample of the gated fraction, in per mille summed over the 16 slices (log entry 36). -/
def gatedNow (w : World) : Nat :=
  ((allSlices.map (fun s => if w.workPending s then (8 - ceilOf w.dev.power.capCeil s) * 125 else 0)).foldl (· + ·) 0)

/-- PowerCapReason as the conditions that hold give it. -/
def capReason (w : World) : World :=
  w.wr oPowerCapReason (if w.dev.power.peakSpent then 0x0702 else if w.dev.power.conflict then 0x0701 else 0)

/-- The gated fraction at a window's end, R496. -/
def gatedWindow (w : World) : World :=
  let l := (w.gatedNow :: w.dev.power.gated).take 100000
  let sum := l.foldl (· + ·) 0
  let w1 := (w.wr oPowerIssueGated (sum / 1600000)).upPower (fun s => { s with gated := l })
  let fixed := w1.rd oClockFixedFrequency == 1
  if w1.dev.power.conflict then
    (if sum < 40 * 1600000 ∨ !fixed then (w1.upPower (fun s => { s with conflict := false })).capReason else w1)
  else if fixed ∧ 50 * 1600000 < sum then
    (((w1.upPower (fun s => { s with conflict := true })).inc32 oCapConflictCount 1).pldmEvent .capConflict).wr oPowerCapReason 0x0701
  else w1

/-- The peak budget at a window's end, R494 and R495. -/
def peakWindow (w : World) (watts : Nat) : World :=
  let s := w.dev.power
  let kept := s.overWindows.filter (fun t => decide (w.now < t + 6000000000))
  let l := if s.limitNow < watts then w.now :: kept else kept
  let used := l.length
  let w1 := (w.wr oPowerPeakUsed used).upPower (fun s => { s with
    overWindows := l,
    excursion := s.excursion && !(decide (watts ≤ s.limitNow) && allSlices.all (fun i => ceilOf s.capCeil i == 0)) })
  if !s.peakSpent ∧ 1000000 ≤ used then
    ((w1.upPower (fun s => { s with peakSpent := true })).inc32 oPeakBudgetSpentCount 1).wr oPowerCapReason 0x0702
  else if s.peakSpent ∧ used ≤ 900000 then (w1.upPower (fun s => { s with peakSpent := false })).capReason
  else w1

/-- The estimates of R502: what the coefficient table and the activity counts make of a window is not stated in numbers
(log entry 37); a husk that is DISABLED owns no slice and has no activity. -/
def energyShares (w : World) : List Nat × World :=
  allHusks.foldl (fun st h =>
    if st.2.huskState h = hsDisabled then (st.1 ++ [0], st.2)
    else
      let (n, w1) := st.2.fresh
      (st.1 ++ [(Config.freeWord n).toNat], w1)) ([], w)

/-- A window's energy is attributed, R400 and R502. -/
def shareEnergy (w : World) (e : Nat) : World :=
  let (est, w1) := w.energyShares
  let total := est.foldl (· + ·) 0
  let share (x : Nat) : Nat := if e < total then x * e / total else x
  let w2 := w1.each (allHusks.zip est) (fun w p => w.inc (oEnergyHusk p.1) (share p.2))
  let given := (est.map share).foldl (· + ·) 0
  ((w2.inc oEnergyUnattributed (e - given)).inc (oLedgerEnergy 0) e).inc (oLedgerEnergy 2) e

/-- A window ends, R400, R487, R492 to R496, R501. -/
def windowEnd (w : World) (e : Nat) : World :=
  if w.now % 1000 ≠ 0 then w
  else
    let watts := e / 10
    let w1 := ((w.markParts.shareEnergy e).wr oPowerWindow (fit 16 watts)).peakWindow watts
    let w2 := w1.gatedWindow
    let w3 := w2.upPower (fun s => { s with limitNow := w2.rd oPowerSustainedLimit })
    (if w3.dev.power.selectDue then w3.applySelection else w3).retarget

/-! ### Thermal, R498 to R500 -/

/-- The voted reading of a point, R498; when its sensors differ by more than 4 °C, the one nearer the controller's
estimate, which the spec does not state (log entry 38). -/
def vote (w : World) (k a b : Nat) : Nat × World :=
  if gapOf a b ≤ 64 then ((a + b) / 2, w)
  else
    let (n, w1) := w.fresh
    let e := (Config.freeWord n).toNat % 65536
    if gapOf a e ≤ gapOf b e then (a, w1.correctedOpen (0x021 + 2 * k) 0 0x51 0)
    else (b, w1.correctedOpen (0x020 + 2 * k) 0 0x51 0)

/-- The voted reading that a point had. -/
def voted (w : World) (k : Nat) : Nat := w.rd (oThermalReading (2 * k))

/-- A crossing of a threshold, R499. -/
def pointSample (w : World) (k a b : Nat) : World :=
  let old := w.voted k
  let (v, w1) := w.vote k a b
  let (thr, lim, _) := thresholds k
  let w2 := ((w1.wr (oThermalReading (2 * k)) v).wr (oThermalReading (2 * k + 1)) v).upPower (fun s => { s with
    readings := (s.readings.put (2 * k) a).put (2 * k + 1) b,
    throttled := if thr ≤ v then setInsert k s.throttled else if v + 32 < thr then setErase k s.throttled else s.throttled,
    limited := if lim ≤ v then setInsert k s.limited else if v + 48 < lim then setErase k s.limited else s.limited })
  let w3 := if old < thr ∧ thr ≤ v then (w2.inc32 oThermalThrottleEvents 1).pldmEvent (.threshold (2 * k)) else w2
  if old < lim ∧ lim ≤ v then
    ((w3.inc32 oThermalLimitEvents 1).pldmEvent (.threshold (2 * k))).condition 1 (0x020 + 2 * k) 0 0x51 none 0
  else w3

/-- The sensors are read, R498. -/
def thermalSample (w : World) (readings : List Nat) : World :=
  if w.now % 100 ≠ 0 then w
  else w.markParts.each allPoints (fun w k =>
    match readings[2 * k]?, readings[2 * k + 1]? with
    | some a, some b => w.pointSample k (fit 16 a) (fit 16 b)
    | _, _ => w)

/-- Has the interval since the last step of a key passed? -/
def stepDue (w : World) (key every : Nat) : Bool :=
  match w.dev.power.lastStep.get? key with
  | some t => decide (t + every ≤ w.now)
  | none => true

/-- A throttle step, R499: the root for slice junctions outside fixed-frequency mode, else the ceilings of the regions. -/
def throttleStep (w : World) : World :=
  let hot := allPoints.filter (fun k => decide ((thresholds k).1 ≤ w.voted k))
  let fixed := w.rd oClockFixedFrequency == 1
  let onRoot := hot.any (fun k => decide (k < 16)) && !fixed && w.stepDue 0 100000
  let w1 :=
    if onRoot then
      (w.upPower (fun s => { s with rootCap := Nat.max 3200 (Nat.min s.rootCap (w.rd oClockRootNow) - 100), lastStep := s.lastStep.put 0 w.now })).retarget
    else w
  let slices := allSlices.filter (fun s => hot.any (fun k => (decide (16 ≤ k) || fixed) && (pointRegion k).elem s) && w.stepDue (1 + s) 100000)
  w1.each slices (fun w s => w.upPower (fun p => { p with
    thermCeil := p.thermCeil.put s (ceilOf p.thermCeil s - 1), lastStep := p.lastStep.put (1 + s) w.now }))

/-- A recovery step, R499: what no point holds down any more rises by one step every 10 ms. -/
def recoveryStep (w : World) : World :=
  let held := w.dev.power.throttled
  let onRoot := !held.any (fun k => decide (k < 16)) && decide (w.dev.power.rootCap < 7200) && w.stepDue 0 1000000
  let w1 := if onRoot then (w.upPower (fun s => { s with rootCap := s.rootCap + 100, lastStep := s.lastStep.put 0 w.now })).retarget else w
  let slices := allSlices.filter (fun s => !held.any (fun k => (pointRegion k).elem s) && !w.limitedSlice s
    && decide (ceilOf w.dev.power.thermCeil s < 8) && w.stepDue (1 + s) 1000000)
  w1.each slices (fun w s => w.upPower (fun p => { p with
    thermCeil := p.thermCeil.put s (ceilOf p.thermCeil s + 1), lastStep := p.lastStep.put (1 + s) w.now }))

/-- Do both sensors of a point read at or above trip now? -/
def atTrip (w : World) (k : Nat) : Bool :=
  let t := (thresholds k).2.2
  t != 0 && decide (t ≤ w.dev.power.readings.getD (2 * k) 0) && decide (t ≤ w.dev.power.readings.getD (2 * k + 1) 0)

/-- A tick of the trip counters, R499. -/
def tripTick (w : World) : World :=
  w.upPower (fun s => { s with tripTicks := (allPoints.filter w.atTrip).foldl (fun m k => m.put k (s.tripTicks.getD k 0 + 1)) .empty })

/-- A trip, R500. -/
def thermalTrip (w : World) (k : Nat) : World :=
  if w.dev.power.tripTicks.getD k 0 < 10 ∨ w.rd oPowerState = 0 ∨ w.rd oPowerState = 4 then w
  else
    let w1 := (w.condition 2 (0x020 + 2 * k) 0 0x51 (some 0x0705) 0).upResets (fun r => { r with power := { r.power with trip := some w.now } })
    w1.beginReset 7 0 8 0 0x0705 (0x020 + 2 * k)

/-- Is the point in force reached, R489: the root stands at its clipped target, and every slice's ceiling at the value in force? -/
def pointReached (w : World) : Bool :=
  let p := w.dev.power
  !p.selectDue && w.rd oClockRootNow == w.clippedTarget && w.dev.time.rootStepEnd.isNone
    && allSlices.all (fun s => ceilOf p.ceil s == Nat.min (w.issueOf s) (Nat.min (ceilOf p.capCeil s) (ceilOf p.thermCeil s)))

/-! ### Writes -/

/-- A write of an operating point, R486. -/
def opPointWrite (w : World) (h j v : Nat) : Nat × World :=
  if opPointOk v then (0, (w.wr (oHuskOpPoint h j) (opPointKept v)).selectSoon) else (0x000D, w)

/-- Is the husk's turn between VALIDATE and RELEASED, R486? -/
def turnStands (w : World) (h : Nat) : Bool :=
  match w.turn h with
  | some t => t.stage != 8
  | none => false

/-- A write of HuskPhaseSet, R486. -/
def phaseSet (w : World) (h v : Nat) : Nat × World :=
  if v = 2 ∨ 7 < v then (0x000D, w)
  else if w.turnStands h then (0x0605, w)
  else (0, w.setPhase h v)

/-- A write of ClockNominalRoot, R22. -/
def nominalWrite (w : World) (v : Nat) : Nat × World :=
  (0, (w.wr oClockNominalRoot v).upTime (fun s => { s with rootPending := some w.now }))

/-- A write of PowerSustainedLimit or PowerStaticAllowance, R487 and R501. -/
def limitWrite (k : OKey) (w : World) (v : Nat) : Nat × World := (0, (w.wr k v).selectSoon)

end World

/-- CLOCK_NOMINAL_ROOT_WRITE, R22. -/
def execClockNominalRootWrite (p : Path) (v : Word) (s : State) : Host.Outcome State Fault Refusal :=
  s.done (fun w => w.odCommand p 0x2000 1 v true World.nominalWrite)
/-- ROOT_STEP, R20. -/
def execRootStep (s : State) : Host.Outcome State Fault Refusal := s.done (fun w => w.rootStepDone)
/-- ENERGY_WINDOW_END, R400. -/
def execEnergyWindowEnd (microjoules : Nat) (s : State) : Host.Outcome State Fault Refusal := s.done (fun w => w.windowEnd microjoules)
/-- CAPPER_STEP, R493. -/
def execCapperStep (watts : Nat) (s : State) : Host.Outcome State Fault Refusal := s.done (fun w => w.capperStep watts)
/-- POWER_EXCURSION, R495. -/
def execPowerExcursion (watts : Nat) (s : State) : Host.Outcome State Fault Refusal := s.done (fun w => w.excursion watts)
/-- DROOP_DETECT, R497. -/
def execDroopDetect (sl : Fin 16) (s : State) : Host.Outcome State Fault Refusal :=
  s.done (fun w => if w.dev.power.stretched.elem sl.val then w
    else (w.inc (oDroopEvents sl.val) 1).upPower (fun p => { p with stretched := setInsert sl.val p.stretched }))
/-- DROOP_RECOVER, R497: `cycles` core cycles were stretched. -/
def execDroopRecover (sl : Fin 16) (cycles : Nat) (s : State) : Host.Outcome State Fault Refusal :=
  s.done (fun w => if w.dev.power.stretched.elem sl.val then
      (w.inc (oDroopStretchedCycles sl.val) cycles).upPower (fun p => { p with stretched := setErase sl.val p.stretched })
    else w)
/-- THERMAL_SAMPLE, R498. -/
def execThermalSample (readings : List Nat) (s : State) : Host.Outcome State Fault Refusal := s.done (fun w => w.thermalSample readings)
/-- THERMAL_THROTTLE_STEP, R499. -/
def execThermalThrottleStep (s : State) : Host.Outcome State Fault Refusal := s.done (fun w => w.throttleStep)
/-- THERMAL_RECOVERY_STEP, R499. -/
def execThermalRecoveryStep (s : State) : Host.Outcome State Fault Refusal := s.done (fun w => w.recoveryStep)
/-- THERMAL_TRIP, R500. -/
def execThermalTrip (point : Fin 36) (s : State) : Host.Outcome State Fault Refusal := s.done (fun w => w.thermalTrip point.val)
/-- TURN_SWITCH_DONE, R314 and R489: the capper reports the point reached. -/
def execTurnSwitchDone (h : Fin 16) (s : State) : Host.Outcome State Fault Refusal :=
  s.done (fun w => if w.pointReached then w.turnSwitched h.val else w)
/-- HUSK_PHASE_SET, R486. -/
def execHuskPhaseSet (p : Path) (h : Fin 16) (v : Word) (s : State) : Host.Outcome State Fault Refusal :=
  s.done (fun w => w.odCommand p (0x30C1 + h.val * 256) 3 v true (fun w n => w.phaseSet h.val n))
/-- HUSK_OP_POINT_WRITE, R486. -/
def execHuskOpPointWrite (p : Path) (h : Fin 16) (point : Fin 64) (v : Word) (s : State) : Host.Outcome State Fault Refusal :=
  s.done (fun w => w.odCommand p (0x30C0 + h.val * 256) (1 + point.val) v true (fun w n => w.opPointWrite h.val point.val n))
/-- POWER_SUSTAINED_LIMIT_WRITE, R501. -/
def execPowerSustainedLimitWrite (p : Path) (v : Word) (s : State) : Host.Outcome State Fault Refusal :=
  s.done (fun w => w.odCommand p 0x20A0 1 v true (World.limitWrite oPowerSustainedLimit))

end Sys2Proof.Machine
end

