-- ==== Sys2Proof/Machine/Tier3.lean ====
section
/-! DEFINITION. The host's answers to Tier 3 accesses in flight (R146): each goes to the mechanism that waits for it. -/
namespace Sys2Proof.Machine

namespace World

/-- Change the firmware state. -/
def upFw (w : World) (f : FwSt → FwSt) : World := { w with dev := { w.dev with firmware := f w.dev.firmware } }

/-- The firmware update ends, R443. -/
def fwEnd (w : World) (state reason : Nat) : World := (w.setOpState (oFirmwareUpdateStatus 0) state reason).fwDrop

/-- The read of an image in Tier 3 ends, R443: its bytes are there, or the update fails with the read's reason. -/
def fwTier3End (w : World) (a : T3Access) (o : HostOutcome) : World :=
  match w.dev.firmware.update with
  | none => w
  | some u =>
    if u.stage ≠ a.ref then w
    else
      let failed (reason : Nat) : World := ((w.containedUnit 0x000 a.master 0x20 reason a.addr).inc (oTier3Poisoned a.port) 1).fwEnd 5 reason
      match o with
      | .clean =>
        let (d, w1) := w.readPhys none a.master 0x20 a.addr a.len 0
        if d.anyBad then w1.fwEnd 5 d.reason else w1.upFw (fun f => { f with update := some { u with read := some d.data } })
      | .poison => failed 0x0204
      | .unreachable => failed 0x0209

/-- What an access that the host completes meets in the lines whose modified copies a PORT reset discarded, R473: a read is poisoned,
a clean write of a whole line heals it (log entry 163). -/
def lostOutcome (w : World) (a : T3Access) (o : HostOutcome) : HostOutcome × World :=
  if o ≠ .clean then (o, w)
  else if a.write then
    let whole (l : Nat) : Bool := decide (a.addr ≤ l * 64) && decide (l * 64 + 64 ≤ a.addr + a.len)
    (o, { w with dev := { w.dev with lostLines := w.dev.lostLines.filter (fun l => !whole l) } })
  else if w.dev.lostLines.any (fun l => decide (a.addr < l * 64 + 64) && decide (l * 64 < a.addr + a.len)) then (.poison, w)
  else (o, w)

/-- A Tier 3 access in flight ends: a pip's, a prefetch entry's, the update sequencer's, a turn's transfer, an OWNER word at a commit
(R313), a firmware update's, a home's. -/
def tier3End (w : World) (id : Nat) (o : HostOutcome) : World :=
  match w.dev.t3.get? id with
  | none => w
  | some a =>
    let (o, w0) := { w with dev := { w.dev with t3 := w.dev.t3.del id } }.lostOutcome a o
    match a.user with
    | 0 => w0.pipTier3End a o
    | 1 => w0.entryTier3End a o
    | 2 => w0.updateTier3End a o
    | 3 => w0.turnTier3End a o
    | 6 => w0.fwTier3End a o
    | 4 => if o = .clean then w0.putVirt a.husk a.master 2 a.addr a.data else w0
    | _ => w0.hostAnswers a o

/-- Every access of a port ends without a completion (its link is down, or it is in reset). -/
def portLost (w : World) (p : Nat) : World :=
  (w.dev.t3.items.filter (fun x => x.2.port == p)).foldl (fun w x => w.tier3End x.1 .unreachable) w

end World

/-- TIER3_READ_COMPLETION, R146. -/
def execTier3ReadCompletion (port : Fin 2) (id : Nat) (o : HostOutcome) (s : State) : Host.Outcome State Fault Refusal :=
  s.done (fun w => match w.dev.t3.get? id with
    | some a => if a.port = port.val ∧ !a.write then w.tier3End id o else w
    | none => w)
/-- TIER3_COMPLETION_TIMEOUT, R146. -/
def execTier3CompletionTimeout (port : Fin 2) (id : Nat) (s : State) : Host.Outcome State Fault Refusal :=
  s.done (fun w => match w.dev.t3.get? id with
    | some a => if a.port = port.val then w.tier3End id .unreachable else w
    | none => w)
/-- TIER3_WRITE_ACK, R146. -/
def execTier3WriteAck (port : Fin 2) (id : Nat) (acked : Bool) (s : State) : Host.Outcome State Fault Refusal :=
  s.done (fun w => match w.dev.t3.get? id with
    | some a => if a.port = port.val ∧ a.write then w.tier3End id (if acked then .clean else .unreachable) else w
    | none => w)

end Sys2Proof.Machine
end

