-- ==== Sys2Proof/Machine/Reset.lean ====
section
/-! DEFINITION. The reset controller and the power sequencer (R466 to R484), input power (R478, R509, R512) and the end of a
thermal trip's hold (R500). The first steps of every reset stand in Flags. -/
namespace Sys2Proof.Machine

/-- Ramp of a rail in ticks, R477. -/
def railRamp (r : Nat) : Nat :=
  match r with
  | 0 => 100000
  | 1 => 20000
  | 2 => 50000
  | 3 => 30000
  | 4 => 20000
  | 5 => 15000
  | 6 => 15000
  | 7 => 15000
  | 8 => 50000
  | _ => 16000

/-- The rails that a rail must outlive, R477; VAON outlives every other. -/
def mustOutlive (r : Nat) : List Nat :=
  match r with
  | 0 => (List.range 14).map (fun i => i + 1)
  | 1 => [3, 9, 10, 11, 12, 13, 14]
  | 2 => [3]
  | 4 => [5, 6]
  | 5 => [10, 12, 14]
  | 6 => [9, 11, 13]
  | 7 => [8]
  | _ => []

/-- The switched rails, R477. -/
def switchedRails : List Nat := (List.range 14).map (fun i => i + 1)

/-- The objects that a cold reset sets to their defaults hold none of their own value afterwards; RWS objects take their
saved values, R408 and R472. -/
def coldObjects (od saved : AMap Word) : AMap Word :=
  let kept := od.delIf (fun k _ => match odLookup (k / 256) (k % 256) with
    | some r => !r.keep
    | none => true)
  saved.items.foldl (fun m p => m.put p.1 p.2) kept

namespace World

/-- Change the power sequencer. -/
def upSeq (w : World) (f : PowerSeq → PowerSeq) : World := w.upResets (fun r => { r with power := f r.power })
/-- RailState of rail r. -/
def railState (w : World) (r : Nat) : Nat := w.rd (oRailState r)
/-- The sequencer of the power rails. -/
def pseq (w : World) : PowerSeq := w.dev.resets.power

/-! ### Husks, pods and slices after a module reset -/

/-- Every pod is freed, R211. -/
def podsAllFree (w : World) : World :=
  (w.each w.allPods (fun w p =>
    let x := w.pod p
    if x.state = podFree then w else (w.setPod p { x with refs := 0, readers := 0, state := podRetiring }).retireFree p)).podSync

/-- The entries of husk h's sequence table become FREE, step W5 of R474. -/
def seqsAllFree (w : World) (h : Nat) : World :=
  w.each (w.seqsOf h) (fun w q => if w.seqState h q = 0 then w else w.setSeqWord h q (setFld (w.seqWord h q) 60 4 0))

/-- The slices of both dies as W7 leaves them: scratch zero, pips, caches, engines and barriers clear. -/
def slicesClear (w : World) : World :=
  let w1 := w.each allSlices (fun w s => w.zeroRange (s * 0x4000000) 0x2000000)
  { w1 with dev := { w1.dev with
    pips := .empty, barriers := .empty, engines := .empty, coh := ⟨.empty, .empty⟩, tlb := .empty, attn := .empty,
    cycle := { w1.dev.cycle with changes := .empty, live := [], saved := .empty, windows := .empty, idleSince := .empty, lent := .empty } } }

/-- A warm reset completes, steps W2 to W8 of R474. -/
def warmDone (w : World) : World :=
  match w.dev.resets.seqs.get? 16 with
  | none => w
  | some r =>
    if r.scope ≠ 2 ∨ w.pulseInProgress then w
    else
      let on := allHusks.filter (fun h => w.huskState h != hsDisabled)
      let back := w.dev.resets.wasActive
      let w1 := ((w.each on (fun w h => w.huskTeardown h)).podsAllFree.each on (fun w h => w.seqsAllFree h)).slicesClear.acornAfterReset
      let w2 := w1.upResets (fun x => { x with seqs := x.seqs.del 16, wasActive := [] })
      let w3 := w2.each allSlices (fun w s => if w.running s < 16 ∧ w.ownerOf s ≠ some (w.running s) then w.wr (oSliceRunning s) 0xFF else w)
      let w4 := w3.each on (fun w h =>
        if w.huskState h = hsDisabling then ((w.disableFinish h).inc (oHuskTeardowns h) 1).resetRecordEnd h
        else if back.elem h then (w.becomeActive h).msixHusk h 1
        else w)
      ((w4.inc32 (oResetCount 1) 1).resetRecordEnd 16).endStep 4 0

/-- What a cold reset and a power-down take away, R472: all but the always-on domain's state, the host's memory and the
acorn cells with their tables; objects go to their defaults and saved values. A publication in progress is cut off (R149). -/
def coldWipe (w00 : World) : World :=
  let w := w00.each allHusks (fun w h => w.each (w.slicesOf h) (fun w s => (w.updateHuskReset (Fin.ofNat 16 s) h).prefetchTear s))
  let d := w.dev
  let canon := d.saved.getD oNumericsCanonicalDefault.key 1
  let fresh := Dev.init
  let w0 := ((w.zeroRange 0x10000000000 0x6000000000).zeroRange 0 0x40000000)
  let w1 : World := { w0 with dev := { fresh with
    time := { d.time with rootStepEnd := none, rootPending := none },
    od := coldObjects d.od d.saved, saved := d.saved,
    blobs := (match d.blobs.get? 0x1808001 with
      | some l => (AMap.empty.put 0x808001 l).put 0x1808001 l
      | none => .empty),
    replies := d.replies, faults := d.faults,
    resets := { d.resets with wasActive := [], disableHeld := .empty }, msixSent := d.msixSent, pldm := d.pldm,
    power := { fresh.power with readings := d.power.readings }, keysDrawn := d.keysDrawn, free := d.free, lastingLines := d.lastingLines, lostLines := d.lostLines,
    prefetch := { fresh.prefetch with cutShards := d.prefetch.cutShards }, outbox := d.outbox,
    fabric := { fresh.fabric with cables := d.fabric.cables, overload := d.fabric.overload },
    acorn := { d.acorn with overlays := .empty, repair := [] }, odHeld := d.odHeld,
    mgmt := d.mgmt, firmware := d.firmware } }
  let w2 := w1.acornAfterReset
  let w3 := w2.each allHusks (fun w h =>
    let w1 := w.wr (oHuskCanonicalMode h) canon.toNat
    if d.od.getD (oHuskCanonicalMode h).key 1 = canon then w1
    else w1.wr (oHuskCanonicalEpoch h) (fit 32 (w1.rd (oHuskCanonicalEpoch h) + 1)))
  let w4 := (w3.wr oClockRootNow (w3.rd oClockNominalRoot)).upTime (fun t => { t with rootTarget := w3.rd oClockNominalRoot, nominal := w3.rd oClockNominalRoot })
  w4.upPower (fun s => { s with limitNow := w4.rd oPowerSustainedLimit })

/-- The domains powered with every allowed domain on, fabric directions OFF: R482. -/
def domainsOn (w : World) : Nat :=
  let f := w.rd oFaultFencedDomains
  ((List.range 32).filter (fun d => bitAt (w.rd oDomainPowerMask) d && !bitAt f d && !(decide (24 ≤ d) && decide (d < 30)))).foldl
    (fun m d => m + 2 ^ d) 0

/-- A cold reset or a bring-up after a power-up completes, steps C2 to C8 of R474. -/
def coldDone (w : World) : World :=
  match w.dev.resets.seqs.get? 16 with
  | none => w
  | some r =>
    let up := w.rd oPowerState == 2 && w.pseq.dir == 0 && w.dev.fabric.drainSince.isNone
    if (r.scope ≠ 3 ∧ r.scope ≠ 4) ∨ !up ∨ w.dev.resets.resetN ∨ w.pulseInProgress then w
    else
      let w1 := w.coldWipe.ledgerInit.windowRestart r.start
      let w2 := w1.fencesEnd (if r.scope = 4 then 0xFFFFFFFF else w1.dev.faults.unfence)
      let w3 := (w2.wr oDomainPowered w2.domainsOn).upResets (fun x => { x with seqs := x.seqs.del 16 })
      ((w3.inc32 (oResetCount (r.scope - 1)) 1).resetRecordEnd 16).endStep (if r.scope = 4 then 6 else 5) 0

/-! ### The reset commands and the held resets, R468 and R470 -/

/-- ResetCommand, R468. -/
def resetCommand (w : World) (master v : Nat) : Nat × World :=
  let scope := v % 4
  let h := fld v 4 4
  if scope = 0 ∨ fld v 2 2 ≠ 0 ∨ 256 ≤ v then (0x000D, w)
  else if scope = 1 then
    if w.huskState h = hsDisabled then (0x0A03, w) else (0, w.beginReset 1 h 4 master 0 0xFFFF)
  else (0, w.beginReset scope 0 4 master 0 0xFFFF)

/-- What a port loses when its domain goes down or is reset, R146 and R473: its accesses end unreachable, the lines of
its window that pips hold in M are discarded, its functions' settings go. -/
def portDown (w : World) (p : Nat) : World :=
  let w1 := (w.portLost p).swapsLost p
  let mine (l : Nat) : Bool := regionOf (l * 64) == .tier3 p
  let lost (k : Nat) (x : LineCopy) : Bool := mine (k / 128) && x.state == .m
  let gone := (w1.dev.coh.copies.items.filter (fun x => lost x.1 x.2)).map (fun x => x.1 / 128)
  let w1 := { w1 with dev := { w1.dev with lostLines := gone.foldl (fun m l => setInsert l m) w1.dev.lostLines } }
  let w2 := w1.upCoh (fun c =>
    let copies := c.copies.delIf lost
    { c with copies := copies, dir := (c.dir.mapVals (fun l d =>
      if mine l then { d with owner := d.owner.filter (fun o => copies.has (copyKey l o)), writeback := none } else d)).delIf (fun _ d => d == DirLine.init) })
  ((w2.wr (oHostLinkRate p) 0).wr (oHostLinkWidth p) 0).wr (oHostCxlActive p) 0

/-- The functions of a port as its configuration space leaves them after a reset. -/
def portFunctions (w : World) (p : Nat) : World :=
  { w with dev := { w.dev with
    busMaster := w.dev.busMaster.filter (fun f => f / 32 != p),
    msix := w.dev.msix.delIf (fun k _ => k / 8 / 32 == p),
    windows := w.dev.windows.delIf (fun k _ => k / 32 == p) } }

/-- A port domain leaves reset, R470. -/
def portRelease (w : World) (p : Nat) : World :=
  if w.dev.resets.perst.getD p false || !w.dev.resets.seqs.has (17 + p) then w
  else ((w.upResets (fun r => { r with seqs := r.seqs.del (17 + p) })).resetRecordEnd (17 + p)).inc32 (oResetCount 4) 1

/-- A PORT reset begins, unless it is held. -/
def portReset (w : World) (p source : Nat) : World :=
  let w1 := w.beginReset 5 p source 0 0 0xFFFF
  if w1.dev.resets.seqs.has (17 + p) then (w1.portDown p).portFunctions p else w1

/-- The held resets in the order of R34: by descending scope, then by husk; the PORT resets last. -/
def heldInOrder (l : List HeldReset) : List HeldReset :=
  let mod := (l.filter (fun x => x.scope == 4 || x.scope == 7)) ++ l.filter (fun x => x.scope == 3) ++ l.filter (fun x => x.scope == 2)
  let husks := (allHusks.map (fun h => l.filter (fun x => x.scope == 1 && x.target == h))).flatten
  mod ++ husks ++ ([0, 1].map (fun p => l.filter (fun x => x.scope == 5 && x.target == p))).flatten

/-- The held resets are taken in the first tick after the bring-up completes, R470. -/
def takeHeld (w : World) : World :=
  let l := w.dev.resets.held
  if l.isEmpty || w.dev.resets.seqs.has 16 || w.rd oPowerState != 2 then w
  else
    (w.upResets (fun r => { r with held := [] })).each (heldInOrder l) (fun w x =>
      if x.scope = 5 then (w.portReset x.target x.source).portRelease x.target
      else if x.scope = 1 ∧ w.huskState x.target = hsDisabled then w
      else w.beginReset x.scope x.target x.source x.master x.cause x.faultSource)

/-! ### Power-up and power-down, R475 to R480 -/

/-- Stage r is enabled. -/
def upAt (w : World) (r : Nat) : World :=
  ((w.wr oPowerStage r).wr (oRailState r) 1).upSeq (fun p => { p with since := w.now })

/-- A power-up begins from stage 1, R479. -/
def powerUpStart (w : World) : World :=
  ((w.wr oPowerState 1).upSeq (fun p => { p with dir := 1, forced := [], committed := none, inputBack := false })).upAt 1

/-- A power-up from OFF or FAILED, with its module record, R475. -/
def powerUp (w : World) (scope source master : Nat) : World :=
  let r : ResetSeq := ⟨scope, source, master, 0, 0xFFFF, w.now, 0, false⟩
  ((w.upResets (fun x => { x with seqs := x.seqs.put 16 r })).resetRecord 16 r).powerUpStart

/-- Do all switched rails stand OFF? -/
def railsOff (w : World) : Bool := switchedRails.all (fun r => w.railState r == 0)

/-- May PowerOnAuto start a power-up now (R475, R500, R513)? -/
def autoMay (w : World) : Bool :=
  w.rd oPowerOnAuto == 1 && !w.dev.resets.resetN && w.pseq.trip.isNone && w.pseq.dir == 0
    && (w.rd oPowerState == 0 || w.rd oPowerState == 4)

/-- A power-down has ended, R475, R479 and R480. -/
def downEnd (w : World) : World :=
  let a := w.pseq.after
  let w1 := (w.wr oPowerStage 0xFF).wr oDomainPowered 0
  if a = 1 then (w1.wr oPowerState 0).upSeq (fun p => { p with dir := 3, since := w.now, forced := [] })
  else
    let scope := match w.dev.resets.seqs.get? 16 with
      | some r => r.scope
      | none => 7
    let w2 := (w1.coldWipe.resetRecordEnd 16).upResets (fun r => { r with seqs := r.seqs.del 16 })
    let w3 := ((if a = 2 then w2 else w2.inc32 (oResetCount (scope - 1)) 1).wr oPowerState (if a = 2 then 4 else 0)).upSeq (fun p =>
      { p with dir := 0, forced := [] })
    let w4 := w3.wr oDomainPowered 0
    if w4.pseq.inputBack && w4.autoMay then (w4.powerUp 4 0 0) else w4

/-- The power-down reaches stage k (R479): rails that are OFF or have FAILED are passed over; a rail that must outlive one
still up waits while that one is force-discharged (R480). -/
def downAt : Nat → World → World
  | 0, w => w.downEnd
  | k + 1, w =>
    let r := k + 1
    let w1 := w.wr oPowerStage r
    let st := w1.railState r
    let dep := (mustOutlive r).filter (fun d => w1.railState d != 0)
    if st = 0 ∨ st = 4 then downAt k w1
    else if dep.isEmpty then
      if st = 3 then w1 else (w1.wr (oRailState r) 3).upSeq (fun p => { p with since := w1.now })
    else (w1.each dep (fun w d => if w.railState d = 4 then w else w.wr (oRailState d) 3)).upSeq (fun p =>
      { p with forced := dep.foldl (fun l d => setInsert d l) p.forced })

/-- The rails go down once the ports have drained and no write pulse is in progress, R471 and R475. -/
def downReady (w : World) : World :=
  if w.pseq.dir = 2 ∧ w.rd oPowerStage = 0xFF ∧ w.dev.fabric.drainSince.isNone ∧ !w.pulseInProgress then downAt 14 w else w

/-- The ports begin to drain, R370. -/
def drainBegin (w : World) : World := w.linksDrain

/-- A rail has failed, R480: recorded in its source and counted. -/
def railFailed (w : World) (r : Nat) (reason : Option Nat) (address : Nat) : World :=
  ((w.condition 2 (0x010 + r) 0 0x50 reason address).inc32 (oRailFaults r) 1).wr (oRailState r) 4

/-- The dependents of a rail that are still up are force-discharged at once, R480. -/
def forceDependents (w : World) (r : Nat) : World :=
  let dep := (mustOutlive r).filter (fun d => w.railState d != 0)
  (w.each dep (fun w d => if w.railState d = 4 then w else w.wr (oRailState d) 3)).upSeq (fun p =>
    { p with forced := dep.foldl (fun l d => setInsert d l) p.forced })

/-- A power-up aborts, R480: the module record gains the cause, the rails go down in reverse order. -/
def powerUpAbort (w : World) (r : Nat) : World :=
  let w1 := (w.railFailed r (some 0x0704) 0).upSeq (fun p => { p with forced := setInsert r p.forced })
  let w2 := match w1.dev.resets.seqs.get? 16 with
    | none => w1
    | some s =>
      let s1 := { s with cause := 0x0704, faultSource := 0x010 + r }
      (w1.upResets (fun x => { x with seqs := x.seqs.put 16 s1 })).wr (oResetRecordModule 2) (resetWord3 s1)
  downAt 14 (((w2.forceDependents r).wr oPowerState 3).upSeq (fun p => { p with dir := 2, after := 2 }))

/-- Rail r reaches power-good, R479. -/
def railGood (w : World) (r : Nat) : World :=
  if w.railState r ≠ 1 ∨ w.pseq.dir ≠ 1 ∨ w.rd oPowerStage ≠ r then w
  else
    let w1 := w.wr (oRailState r) 2
    if r < 14 then w1.upAt (r + 1)
    else ((w1.wr oPowerState 2).wr oPowerStage 0xFF).upSeq (fun p => { p with dir := 0 })

/-- Rail r falls below 10 % of nominal, R479 and R480. -/
def railDown (w : World) (r : Nat) : World :=
  let st := w.railState r
  if r = 0 ∨ (st ≠ 3 ∧ st ≠ 4) then w
  else
    let w1 := (w.wr (oRailState r) 0).upSeq (fun p => { p with forced := setErase r p.forced })
    let k := w1.rd oPowerStage
    if w1.pseq.dir ≠ 2 ∨ 14 < k then w1
    else if w1.railState k = 3 then w1
    else downAt k w1

/-- A rail misses its window, R479 and R480. -/
def railLate (w : World) (r : Nat) : World :=
  let p := w.pseq
  if w.rd oPowerStage ≠ r then w
  else if p.dir = 1 ∧ w.railState r = 1 ∧ p.since + railRamp r + 100000 ≤ w.now then w.powerUpAbort r
  else if p.dir = 2 ∧ w.railState r = 3 ∧ p.since + 100000 ≤ w.now then downAt (r - 1) (w.railFailed r (some 0x0703) r)
  else w

/-- Is the object's value stored in a place that keeps it without VAON: the configuration store, the firmware flash, the
acorn stacks? -/
def storedObject (k : Nat) : Bool :=
  k == oNvConfigWrites.key || (k / 256 == 0x1030 && decide (6 ≤ k % 256) && decide (k % 256 ≤ 0xA)) || k / 256 == 0x8000
    || k == oAcornPoisonCount.key || k / 256 == 0x8041 || k / 256 == 0x8060 || k / 256 == 0x8061 || k / 256 == 0x8070

/-- The always-on domain is lost with everything it holds, R478 and R481: kept are the cells of the acorn stacks with
their images, poison list and journal, the saved values, the firmware flash, the host's memory, and what stands on the pins. -/
def alwaysOnLost (w : World) : World :=
  let d := w.dev
  let w0 := (if d.firmware.update.isSome then w.fwDrop else w).coldWipe
  let od0 := w0.dev.od.delIf (fun k _ => !(storedObject k || d.saved.has k || (k % 65536 == 0x2001 && decide (0x30 ≤ k / 65536) && decide (k / 65536 < 0x40))))
  { w0 with dev := { Dev.init with
    od := od0.put oDomainPowered.key 0, saved := d.saved, blobs := w0.dev.blobs, acorn := w0.dev.acorn, free := d.free,
    lastingLines := d.lastingLines, lostLines := d.lostLines,
    keysDrawn := d.keysDrawn, outbox := d.outbox, msixSent := d.msixSent,
    fabric := { FabricSt.init with cables := d.fabric.cables },
    resets := { ResetSt.init with resetN := d.resets.resetN, perst := d.resets.perst }, firmware := w0.dev.firmware } }

/-- A rail failure in service, R481, or while the rails are brought up or down, R480. -/
def railFault (w : World) (r : Nat) : World :=
  let dir := w.pseq.dir
  if w.railState r = 0 ∨ w.railState r = 4 then w
  else if r = 0 then w.alwaysOnLost
  else if dir = 1 then w.powerUpAbort r
  else if dir = 2 then
    let w1 := (w.railFailed r (some 0x0703) (w.rd oPowerStage)).forceDependents r
    if w1.rd oPowerStage = r then downAt (r - 1) w1 else w1
  else if 9 ≤ r then
    let d := r - 9
    let w1 := (w.railFailed r none 0).wr (oFabricDirState d) 3
    ((w1.upFabric (fun f => { f with target := f.target.put d 3 })).dirDown d 0x0301).wr oDomainPowered (setFld (w1.rd oDomainPowered) (24 + d) 1 0)
  else if r = 8 then
    let w1 := w.railFailed r none 0
    let w2 := if stIdleOrTerminal (w1.rd (oAcornInstallStatus 0)) then w1 else w1.installEnd 5 0x0402
    if stIdleOrTerminal (w2.rd (oAcornRefreshStatus 0)) then w2
    else (w2.setOpState (oAcornRefreshStatus 0) 5 0x0402).upAcorn (fun x => { x with
      queues := x.queues.mapVals (fun _ l => l.filter (fun q => !q.refresh)), refreshCancel := false })
  else ((w.railFailed r (some 0x0703) 0).beginReset 7 0 12 0 0x0703 (0x010 + r)).forceDependents r

/-! ### Pins and commands -/

/-- RESET_N counts as asserted, R469: a COLD reset begins, held while the input stays asserted; a module whose rails are
off or going down stays so (R513). -/
def resetNLow (w : World) : World :=
  if w.dev.resets.resetN then w
  else
    let w1 := w.upResets (fun r => { r with resetN := true })
    if w1.rd oPowerState = 1 ∨ w1.rd oPowerState = 2 then w1.beginReset 3 0 1 0 0 0xFFFF else w1

/-- RESET_N counts as released, R469, R475 and R500. -/
def resetNHigh (w : World) : World :=
  if !w.dev.resets.resetN then w
  else
    let w1 := w.upResets (fun r => { r with resetN := false })
    if w1.pseq.trip.isSome then w1.upSeq (fun p => { p with releaseHeld := true })
    else if w1.autoMay then w1.powerUp 3 1 0 else w1

/-- PowerCommand, R467, R468, R475 and R500. -/
def powerCommand (w : World) (master v : Nat) : Nat × World :=
  match v with
  | 1 => if w.railsOff then (0x000D, w) else (0, w.beginReset 7 0 9 master 0 0xFFFF)
  | 2 =>
    if w.pseq.trip.isSome then (0x0705, w)
    else if (w.rd oPowerState = 0 ∨ w.rd oPowerState = 4) ∧ w.pseq.dir = 0 then (0, w.powerUp 4 9 master)
    else (0, w.beginReset 4 0 9 master 0 0xFFFF)
  | _ => (0x000D, w)

/-- PWRFAIL_N asserts, R478. -/
def pwrfailLow (w : World) : World :=
  if w.pseq.pwrfail.isSome then w
  else (w.inc32 oPwrfailEvents 1).upSeq (fun p => { p with pwrfail := some w.now })

/-- PWRFAIL_N releases, R478: write pulses resume; a commitment stands. -/
def pwrfailHigh (w : World) : World :=
  if w.pseq.pwrfail.isNone then w
  else
    let w1 := w.upSeq (fun p => { p with pwrfail := none, inputBack := p.committed.isSome })
    let w2 := w1.each (List.range 8) (fun w a => w.startPulse a)
    if w2.pseq.inputBack && w2.autoMay then w2.powerUp 4 0 0 else w2

/-- The module commits to power down, R478. -/
def pwrfailCommit (w : World) : World :=
  match w.pseq.pwrfail with
  | none => w
  | some t =>
    if w.now < t + 180000 ∨ w.pseq.committed.isSome then w
    else (w.drainBegin).upSeq (fun p => { p with committed := some t })

/-- The power-down of a committed module starts, R478; its ports have drained already. -/
def pwrfailDown (w : World) : World :=
  match w.pseq.committed with
  | none => w
  | some t =>
    if w.now < t + 200000 ∨ w.railsOff ∨ w.pseq.dir = 2 then w
    else
      let drained := w.dev.fabric.drainSince.isNone
      let w1 := w.beginReset 7 0 11 0 0x0706 0xFFFF
      (if drained then w1.upFabric (fun f => { f with drainSince := none }) else w1).downReady

/-- Input is applied, R509 and R512: VAON starts, GA is sampled, the power-up follows when PowerOnAuto allows it. -/
def inputApplied (w : World) (ga : Nat) : World :=
  if w.railState 0 = 2 then w
  else
    let w1 := (((w.wr (oRailState 0) 2).wr oModuleGa ga).wr oFieldNetState (if bitAt ga 3 then 2 else 0)).wr oPowerStage 0xFF
    if w1.autoMay then w1.powerUp 4 0 0 else w1

/-- VAON's own store is spent, R478. -/
def vaonSpent (w : World) : World := if w.pseq.pwrfail.isSome && w.railState 0 != 0 then w.alwaysOnLost else w

/-- ThermalTripHold has passed and the inlet is cool, R500. -/
def tripHoldEnd (w : World) : World :=
  match w.pseq.trip with
  | none => w
  | some t =>
    let cool (i : Nat) : Bool := decide (w.dev.power.readings.getD i 0 ≤ 640)
    if w.now < t + w.rd oThermalTripHold * 100000 || !cool 68 || !cool 69 then w
    else
      let held := w.pseq.releaseHeld
      let w1 := w.upSeq (fun p => { p with trip := none, releaseHeld := false })
      if held && w1.autoMay then w1.powerUp 3 1 0 else w1

/-- The controller's firmware restarts, R467 source 5 and R474; its watchdog is an event of source 0x001. -/
def watchdog (w : World) : World :=
  let (n, w1) := w.fresh
  ((w1.containedUnit 0x001 0 0x61 (openReason n) 0).inc32 oControllerRestarts 1).beginReset 6 0 5 0 0 0xFFFF

/-! ### Switched domains, R482 and R483 -/

/-- The work of a slice without an owner stops as in step H2 of R474 (R482): the commands of the husks whose images drive it complete
under R343, guests and fillers are discarded, its units come to rest. -/
def sliceStops (w : World) (s : Nat) : World :=
  let w1 := w.each allHusks (fun w h =>
    let w1 := if w.running s = h then w.each ((List.range 9).map (fun q => .slice (Fin.ofNat 16 s) (Fin.ofNat 16 q) (Fin.ofNat 16 h))) tearRing else w
    if w1.running s = h || w1.rd (oSliceFillerHusk s) = h || w1.dev.cycle.windows.get? s = some h then w1.guestTear h s else w1)
  (w1.upCycle (fun c => { c with changes := c.changes.del s })).sliceTear 16 s

/-- A domain is powered down after its husk work has stopped (R482; log entry 109). -/
def domainOff (w : World) (d : Nat) : World :=
  let off (w : World) : World := w.wr oDomainPowered (setFld (w.rd oDomainPowered) d 1 0)
  if d < 16 then off (w.sliceStops d)
  else if d < 24 then off (w.stackEnds (d - 16) 3 0x0A07)
  else off ((w.portDown (d - 30)).portFunctions (d - 30))

/-- A domain is powered up: a slice comes up as W7 leaves it. -/
def domainOn (w : World) (d : Nat) : World :=
  let w1 := w.wr oDomainPowered (setFld (w.rd oDomainPowered) d 1 1)
  if d < 16 then w1.zeroRange (d * 0x4000000) 0x2000000 else w1

/-- A write of DomainPowerMask, R482 and R483. -/
def domainMask (w : World) (v : Nat) : Nat × World :=
  let v1 := v ||| 0x3F000000
  let off := (List.range 32).filter (fun d => bitAt (w.rd oDomainPowerMask) d && !bitAt v1 d)
  let busy := !stIdleOrTerminal (w.rd (oAcornInstallStatus 0)) || !stIdleOrTerminal (w.rd (oAcornRefreshStatus 0))
  if off.any (fun d => decide (d < 16) && (w.ownerOf d).isSome) then (0x0A02, w)
  else if off.any (fun d => decide (16 ≤ d) && decide (d < 24)) && busy then (0x0405, w)
  else
    let w1 := w.wr oDomainPowerMask v1
    let down := (List.range 32).filter (fun d => !bitAt v1 d && w.powered d)
    let up := (List.range 32).filter (fun d => bitAt v1 d && !w.powered d && !bitAt (w.rd oFaultFencedDomains) d
      && !(decide (24 ≤ d) && decide (d < 30)) && w.rd oPowerState == 2)
    (0, (w1.each down (fun w d => w.domainOff d)).each up (fun w d => w.domainOn d))

end World

/-- WRITE_PULSE_END, R134, R135 and R471. -/
def execWritePulseEnd (a : Fin 8) (verified : Bool) (s : State) : Host.Outcome State Fault Refusal :=
  s.done (fun w => (w.pulseEnd a.val verified).downReady)
/-- PORT_DRAIN_END, R370 and R475. -/
def execPortDrainEnd (s : State) : Host.Outcome State Fault Refusal := s.done (fun w => w.drainEnd.downReady)
/-- RESET_N_ASSERT, R469. -/
def execResetNAssert (s : State) : Host.Outcome State Fault Refusal := s.done (fun w => w.resetNLow)
/-- RESET_N_RELEASE, R469. -/
def execResetNRelease (s : State) : Host.Outcome State Fault Refusal := s.done (fun w => w.resetNHigh)
/-- PERST_ASSERT, R469. -/
def execPerstAssert (port : Fin 2) (s : State) : Host.Outcome State Fault Refusal :=
  s.done (fun w => if w.dev.resets.perst.getD port.val false then w
    else (w.upResets (fun r => { r with perst := r.perst.set port.val true })).portReset port.val (2 + port.val))
/-- PERST_RELEASE, R469. -/
def execPerstRelease (port : Fin 2) (s : State) : Host.Outcome State Fault Refusal :=
  s.done (fun w => (w.upResets (fun r => { r with perst := r.perst.set port.val false })).portRelease port.val)
/-- RESET_COMMAND_HUSK, R468. -/
def execResetCommandHusk (p : Path) (v : Word) (s : State) : Host.Outcome State Fault Refusal :=
  s.done (fun w => w.odCommand p 0x2090 1 v true (fun w n => w.resetCommand (pathMaster p) n))
/-- RESET_COMMAND_WARM, R468. -/
def execResetCommandWarm (p : Path) (v : Word) (s : State) : Host.Outcome State Fault Refusal :=
  s.done (fun w => w.odCommand p 0x2090 1 v true (fun w n => w.resetCommand (pathMaster p) n))
/-- RESET_COMMAND_COLD, R468. -/
def execResetCommandCold (p : Path) (v : Word) (s : State) : Host.Outcome State Fault Refusal :=
  s.done (fun w => w.odCommand p 0x2090 1 v true (fun w n => w.resetCommand (pathMaster p) n))
/-- WARM_RESET_DONE, R474. -/
def execWarmResetDone (s : State) : Host.Outcome State Fault Refusal := s.done (fun w => w.warmDone)
/-- COLD_RESET_DONE, R474. -/
def execColdResetDone (s : State) : Host.Outcome State Fault Refusal := s.done (fun w => w.coldDone)
/-- POWER_COMMAND_DOWN, R475. -/
def execPowerCommandDown (p : Path) (s : State) : Host.Outcome State Fault Refusal :=
  s.done (fun w => w.odCommand p 0x2091 1 1 true (fun w n => w.powerCommand (pathMaster p) n))
/-- POWER_COMMAND_CYCLE, R475. -/
def execPowerCommandCycle (p : Path) (s : State) : Host.Outcome State Fault Refusal :=
  s.done (fun w => w.odCommand p 0x2091 1 2 true (fun w n => w.powerCommand (pathMaster p) n))
/-- CONTROLLER_WATCHDOG, R467. -/
def execControllerWatchdog (s : State) : Host.Outcome State Fault Refusal := s.done (fun w => w.watchdog)
/-- RAIL_POWER_GOOD, R479. -/
def execRailPowerGood (r : Fin 15) (s : State) : Host.Outcome State Fault Refusal := s.done (fun w => w.railGood r.val)
/-- RAIL_DISCHARGED, R479. -/
def execRailDischarged (r : Fin 15) (s : State) : Host.Outcome State Fault Refusal := s.done (fun w => w.railDown r.val)
/-- RAIL_WINDOW_EXPIRY, R480. -/
def execRailWindowExpiry (r : Fin 15) (s : State) : Host.Outcome State Fault Refusal := s.done (fun w => w.railLate r.val)
/-- RAIL_FAULT, R481. -/
def execRailFault (r : Fin 15) (s : State) : Host.Outcome State Fault Refusal := s.done (fun w => w.railFault r.val)
/-- POWER_OFF_HOLD_EXPIRY, R475. -/
def execPowerOffHoldExpiry (s : State) : Host.Outcome State Fault Refusal :=
  s.done (fun w => if w.pseq.dir = 3 ∧ w.pseq.since + w.rd oPowerOffHold ≤ w.now then w.coldWipe.powerUpStart else w)
/-- PWRFAIL_ASSERT, R478. -/
def execPwrfailAssert (s : State) : Host.Outcome State Fault Refusal := s.done (fun w => w.pwrfailLow)
/-- PWRFAIL_RELEASE, R478. -/
def execPwrfailRelease (s : State) : Host.Outcome State Fault Refusal := s.done (fun w => w.pwrfailHigh)
/-- PWRFAIL_COMMIT, R478. -/
def execPwrfailCommit (s : State) : Host.Outcome State Fault Refusal := s.done (fun w => w.pwrfailCommit)
/-- PWRFAIL_POWER_DOWN, R478. -/
def execPwrfailPowerDown (s : State) : Host.Outcome State Fault Refusal := s.done (fun w => w.pwrfailDown)
/-- INPUT_APPLIED, R509. -/
def execInputApplied (ga : BitVec 4) (s : State) : Host.Outcome State Fault Refusal := s.done (fun w => w.inputApplied ga.toNat)
/-- DOMAIN_POWER_MASK_WRITE, R483. -/
def execDomainPowerMaskWrite (p : Path) (v : Word) (s : State) : Host.Outcome State Fault Refusal :=
  s.done (fun w => w.odCommand p 0x209A 1 v true World.domainMask)
/-- THERMAL_TRIP_HOLD_EXPIRY, R500. -/
def execThermalTripHoldExpiry (s : State) : Host.Outcome State Fault Refusal := s.done (fun w => w.tripHoldEnd)
/-- VAON_STORE_EXPIRY, R478. -/
def execVaonStoreExpiry (s : State) : Host.Outcome State Fault Refusal := s.done (fun w => w.vaonSpent)

end Sys2Proof.Machine
end

