-- ==== Sys2Proof/Machine/Firmware.lean ====
section
/-! DEFINITION. Firmware update and the root of trust's fuses (R440 to R444). -/
namespace Sys2Proof.Machine

/-- A little-endian number at a byte offset of an image. -/
def imageNum (l : List Byte) (off n : Nat) : Nat := leNat ((l.drop off).take n)

/-- Bytes of an image before its payload, R441. -/
def imageHeader : Nat := 352

namespace World

/-- The bank that receives updates, R440. -/
def inactiveBank (w : World) : Nat := 1 - w.rd oFirmwareActiveBank

/-- A firmware bank. -/
def fwBank (w : World) (b : Nat) : FwBank := w.dev.firmware.banks.getD b ⟨false, 0, 0, []⟩

/-- Is a firmware update running? -/
def fwRunning (w : World) : Bool := w.dev.firmware.update.isSome

/-- `n` bytes of the image from `off` for the stage of the update, R442: of FirmwareStage, or as read from Tier 3. -/
def imageRead (w : World) (u : FwUpdate) (off n : Nat) : Option (List Byte) :=
  if u.source = 0 then some (((w.dev.blobs.getD 0x103100 []).drop off).take n) else u.read

/-- The read of an image in Tier 3 begins, R443 and R146: what the port cannot carry, or what is no Tier 3 address, fails it. -/
def imageFetch (w : World) (u : FwUpdate) (off n : Nat) : World :=
  let a := u.source + off
  if u.source = 0 ∨ n = 0 then w
  else match regionOf a with
    | .tier3 p =>
      if w.portCarries p then w.t3Begin ⟨p, false, a, n, 0, 0, 6, u.stage, [], 0⟩
      else
        let (d, w1) := w.readPhys none 0 0x20 a n 0
        w1.fwEnd 5 d.reason
    | _ => w.fwEnd 5 0x0209

/-- FirmwareStart, R443: PARTIALS is 1 from the start (log entry 39). -/
def fwStart (w : World) : Nat × World :=
  if w.fwRunning then (0x0405, w)
  else
    let u : FwUpdate := ⟨1, w.rd oFirmwareSource, none, 0, 0, 0, 0⟩
    (0, (((w.startOp oFirmwareUpdateStatus 0x0F1 2).setOpProgress (oFirmwareUpdateStatus 0) 0 1).upFw (fun f =>
      { f with update := some u })).imageFetch u 0 imageHeader)

/-- Why a manifest fails, R441 and R443: 0 when it passes. -/
def manifestResult (w : World) (l : List Byte) : Nat :=
  let magic := imageNum l 0 4
  let sec := imageNum l 8 4
  let len := imageNum l 12 4
  let key := (l.drop 16).take 97
  let sign := (l.drop 256).take 96
  if l.length < imageHeader ∨ magic ≠ 0x4A757446 ∨ 0x4000000 < len ∨ w.rd oFirmwareLength ≠ imageHeader + len
      ∨ 63 < sec ∨ sec < w.rd oFirmwareSecurityCounter then 0x040F
  else
    let d := Config.sha384 key
    let good := (List.range 4).any (fun i => (Config.fuseDigests[i]?) == some d && !bitAt w.dev.firmware.revoked i)
    if good && Config.p384Verify key (Config.sha384 (l.take 256)) sign then 0 else 0x0403

/-- The manifest has been checked, R443 step 2: the inactive bank is erased, or the update fails. -/
def fwManifest (w : World) : World :=
  match w.dev.firmware.update with
  | none => w
  | some u =>
    match u.stage, w.imageRead u 0 imageHeader with
    | 1, some l =>
      let reason := w.manifestResult l
      let w2 := w.wr (oFirmwareUpdateStatus 1) (reason * 2 ^ 48 + imageNum l 4 4)
      if reason ≠ 0 then w2.fwEnd 5 reason
      else
        let b := w2.inactiveBank
        let u1 : FwUpdate := ⟨2, u.source, none, imageNum l 4 4, imageNum l 8 4, imageNum l 12 4, imageNum l 113 48⟩
        ((((w2.setOpProgress (oFirmwareUpdateStatus 0) 0 2).upFw (fun f => { f with
          update := some u1, banks := f.banks.put b ⟨false, 0, 0, []⟩ })).wr oFirmwarePendingBank 0xFF).wr oFirmwareBootFailures 0).imageFetch
            u1 imageHeader u1.length
    | _, _ => w

/-- The payload has been written, R443 step 3, or the flash failed to program. -/
def fwWritten (w : World) (programmed : Bool) : World :=
  match w.dev.firmware.update with
  | none => w
  | some u =>
    match u.stage, w.imageRead u imageHeader u.length with
    | 2, some l =>
      if !programmed then w.fwEnd 5 0x0402
      else
        let b := w.inactiveBank
        ((w.wr (oFirmwareUpdateStatus 2) (u.length * 2 ^ 32)).setOpProgress (oFirmwareUpdateStatus 0) 1000 2).upFw (fun f => { f with
          update := some { u with stage := 3, read := none }, banks := f.banks.put b ⟨false, u.version, u.security, l⟩ })
    | _, _ => w

/-- The bank has been read back, R443 steps 4 and 5. -/
def fwVerified (w : World) : World :=
  match w.dev.firmware.update with
  | none => w
  | some u =>
    if u.stage ≠ 3 then w
    else
      let b := w.inactiveBank
      let w1 := w.wr (oFirmwareUpdateStatus 2) (u.length * 2 ^ 32 + u.length)
      if Config.sha384 (w1.fwBank b).data ≠ u.digest then w1.fwEnd 5 0x0404
      else ((w1.setOpState (oFirmwareUpdateStatus 0) 4 0).upFw (fun f => { f with
        update := none, banks := f.banks.modify b ⟨false, 0, 0, []⟩ (fun x => { x with valid := true }) })).wr oFirmwarePendingBank b

/-- FirmwareCancel takes effect, R425 and R443. -/
def fwCancel (w : World) : Nat × World := if w.fwRunning then (0, w.fwEnd 6 0) else (0x000E, w)

/-- FirmwareActivate, R444. -/
def fwActivate (w : World) (master : Nat) : Nat × World :=
  if w.rd oFirmwarePendingBank = 0xFF then (0x040A, w)
  else if w.fwRunning then (0x0405, w)
  else (0, (w.upFw (fun f => { f with booting := true })).beginReset 3 0 10 master 0 0xFFFF)

/-- A boot of the pending bank, R444. -/
def fwBoot (w : World) (good : Bool) : World :=
  let b := w.rd oFirmwarePendingBank
  if !w.dev.firmware.booting || b == 0xFF then w
  else if good then
    let x := w.fwBank b
    ((((w.wr oFirmwareActiveBank b).wr oFirmwareActiveVersion x.version).wr oFirmwarePendingBank 0xFF).wr oFirmwareSecurityCounter
      (Nat.max (w.rd oFirmwareSecurityCounter) x.security)).upFw (fun f => { f with booting := false })
  else
    let w1 := w.inc oFirmwareBootFailures 1
    if w1.rd oFirmwareBootFailures < 3 then w1
    else (w1.wr oFirmwarePendingBank 0xFF).upFw (fun f => { f with
      booting := false, banks := f.banks.modify b ⟨false, 0, 0, []⟩ (fun x => { x with valid := false }) })

/-- FirmwareKeyRevoke, R442. -/
def fwRevoke (w : World) (v : Nat) : Nat × World := (0, w.upFw (fun f => { f with revoked := f.revoked ||| 2 ^ (v % 4) }))

end World

/-- FIRMWARE_START, R443. -/
def execFirmwareStart (p : Path) (v : Word) (s : State) : Host.Outcome State Fault Refusal :=
  s.done (fun w => w.odCommand p 0x1030 3 v true (World.onOne World.fwStart))
/-- FIRMWARE_MANIFEST_VERIFIED, R443. -/
def execFirmwareManifestVerified (s : State) : Host.Outcome State Fault Refusal := s.done (fun w => w.fwManifest)
/-- FIRMWARE_WRITE_DONE, R443. -/
def execFirmwareWriteDone (programmed : Bool) (s : State) : Host.Outcome State Fault Refusal := s.done (fun w => w.fwWritten programmed)
/-- FIRMWARE_READBACK_DONE, R443. -/
def execFirmwareReadbackDone (s : State) : Host.Outcome State Fault Refusal := s.done (fun w => w.fwVerified)
/-- FIRMWARE_CANCEL, R443. -/
def execFirmwareCancel (p : Path) (v : Word) (s : State) : Host.Outcome State Fault Refusal :=
  s.done (fun w => w.odCommand p 0x1030 4 v true (World.onOne (fun w => w.cancelDue (.cancelFirmware p))))
/-- FIRMWARE_ACTIVATE, R444. -/
def execFirmwareActivate (p : Path) (v : Word) (s : State) : Host.Outcome State Fault Refusal :=
  s.done (fun w => w.odCommand p 0x1030 5 v true (World.onOne (fun w => w.fwActivate (pathMaster p))))
/-- FIRMWARE_BOOT_RESULT, R444. -/
def execFirmwareBootResult (good : Bool) (s : State) : Host.Outcome State Fault Refusal := s.done (fun w => w.fwBoot good)
/-- FIRMWARE_KEY_REVOKE, R442. -/
def execFirmwareKeyRevoke (p : Path) (v : Word) (s : State) : Host.Outcome State Fault Refusal :=
  s.done (fun w => w.odCommand p 0x1030 0xB v true World.fwRevoke)

end Sys2Proof.Machine
end

