-- ==== Sys2Proof/Machine/Ports.lean ====
section
/-! DEFINITION. Host links, MCTP and PLDM, I3C and the test port (R427 to R439). -/
namespace Sys2Proof.Machine

/-- Completion codes of DSP0240 and DSP0248, which R438 names and does not list (log entry 40). -/
def pldmBadType : Nat := 0x20
def pldmBadCommand : Nat := 0x05

/-- Commands of PLDM Types 0 and 2 (log entry 40). -/
def pldmKnown (type command : Nat) : Bool :=
  if type = 0 then [0x01, 0x02, 0x03, 0x04, 0x05].elem command else [0x01, 0x02, 0x04, 0x05, 0x0A, 0x0B, 0x11, 0x21, 0x50, 0x51].elem command

namespace World

/-- Change the management ports. -/
def upMgmt (w : World) (f : MgmtSt → MgmtSt) : World := { w with dev := { w.dev with mgmt := f w.dev.mgmt } }

/-- Send an answer. -/
def answer (w : World) (a : MgmtAnswer) : World := w.upMgmt (fun m => { m with answers := a :: m.answers })

/-- Rates and widths of a host link, R427; HostLinkRate counts whole GT/s, so 2.5 GT/s reads 2 (DESIGN CHOICE, log entry 161). -/
def linkOption (rate width : Nat) : Bool := [64, 32, 16, 8, 5, 2].elem rate && [16, 8, 4, 2, 1].elem width

/-- A host port's link has trained, R427 and R428. -/
def linkUp (w : World) (p rate width : Nat) : World :=
  if !linkOption rate width || w.dev.resets.perst.getD p false || w.dev.resets.seqs.has (17 + p) || !w.powered (30 + p) || w.rd oPowerState != 2 then w
  else
    let cxl := rate == 64 && (width == 16 || width == 8)
    ((w.wr (oHostLinkRate p) rate).wr (oHostLinkWidth p) width).wr (oHostCxlActive p) (if cxl then 1 else 0)

/-- A CXL.mem write to the HDM range, R429. -/
def hdmDiscard (w : World) (p : Nat) : World := if w.portCarries p then w.inc (oHostHdmWritesDiscarded p) 1 else w

/-- The highest voted reading of some points. -/
def hottest (w : World) (ks : List Nat) : Nat := (ks.map (fun k => w.rd (oThermalReading (2 * k)))).foldl Nat.max 0

/-- A numeric sensor of R438, in the order R438 names them (log entry 40): 0 and 1 each die's hottest junction, 2 to 9 the
acorn stacks, 10 to 17 the HBM stacks, 18 input voltage (a value that the spec does not state), 19 input power, 20 to 34
the rails in mV. -/
def sensorValue (w : World) (i : Nat) : Nat × World :=
  if i < 2 then (w.hottest ((List.range 8).map (fun k => 8 * i + k)), w)
  else if i < 10 then (w.rd (oThermalReading (2 * (14 + i))), w)
  else if i < 18 then (w.rd (oThermalReading (2 * (14 + i))), w)
  else if i = 19 then (w.rd oPowerInput, w)
  else
    let (n, w1) := w.fresh
    ((Config.freeWord n).toNat % 65536, w1)

/-- The number of a pending PLDM event: its kind in [19:16] and what it names. -/
def pldmCode : PldmEvent → Nat
  | .fault src => 0x10000 + src
  | .threshold k => 0x20000 + k
  | .capConflict => 0x30000

/-- A PLDM request is answered, R438; PollForPlatformEventMessage delivers the oldest pending event. -/
def pldm (w : World) (b type command item : Nat) : World :=
  let say (w : World) (code v : Nat) : World := w.answer ⟨b, 1, type * 256 + command, item, code, v⟩
  if type ≠ 0 ∧ type ≠ 2 then say w pldmBadType 0
  else if !pldmKnown type command then say w pldmBadCommand 0
  else if type = 2 ∧ command = 0x11 then
    let (v, w1) := w.sensorValue item
    say w1 0 v
  else if type = 2 ∧ command = 0x21 then say w 0 (w.huskState (item % 16))
  else if type = 2 ∧ command = 0x0B then
    match w.dev.pldm.getLast? with
    | none => say w 0 0
    | some e => say { w with dev := { w.dev with pldm := w.dev.pldm.dropLast } } 0 (pldmCode e)
  else
    let (n, w1) := w.fresh
    say w1 0 (Config.freeWord n).toNat

/-- The I3C static address, R437. -/
def i3cStatic (w : World) : Nat := 0x30 + w.rd oModuleGa % 16

/-- Are both compute dies held in cold reset (R439)? -/
def inColdReset (w : World) : Bool :=
  match w.dev.resets.seqs.get? 16 with
  | some r => r.scope == 3 || r.scope == 4
  | none => false

end World

/-- HOST_LINK_UP, R428. -/
def execHostLinkUp (port : Fin 2) (rate width : BitVec 8) (s : State) : Host.Outcome State Fault Refusal :=
  s.done (fun w => w.linkUp port.val rate.toNat width.toNat)
/-- HOST_LINK_DOWN, R146. -/
def execHostLinkDown (port : Fin 2) (s : State) : Host.Outcome State Fault Refusal := s.done (fun w => w.portDown port.val)
/-- HDM_WRITE, R429. -/
def execHdmWrite (port : Fin 2) (_offset : BitVec 30) (_data : List Byte) (s : State) : Host.Outcome State Fault Refusal :=
  s.done (fun w => w.hdmDiscard port.val)
/-- MCTP_CONTROL, R436: Set Endpoint ID gives the binding its EID; every control message is answered. -/
def execMctpControl (binding : Fin 3) (setEid : Option (BitVec 8)) (s : State) : Host.Outcome State Fault Refusal :=
  s.done (fun w =>
    let w1 := match setEid with
      | some e => w.wr (oMctpEid binding.val) e.toNat
      | none => w
    w1.answer ⟨binding.val, 0, (if setEid.isSome then 1 else 0), 0, 0, w1.rd (oMctpEid binding.val)⟩)
/-- PLDM_REQUEST, R438. -/
def execPldmRequest (binding : Fin 3) (type command : BitVec 8) (item : Nat) (s : State) : Host.Outcome State Fault Refusal :=
  s.done (fun w => w.pldm binding.val type.toNat command.toNat item)
/-- I3C_ENTDAA, R437: a target that holds no dynamic address takes one. -/
def execI3cEntdaa (address : BitVec 7) (s : State) : Host.Outcome State Fault Refusal :=
  s.done (fun w => if w.dev.mgmt.i3cDynamic.isSome then w else w.upMgmt (fun m => { m with i3cDynamic := some address.toNat }))
/-- I3C_SETDASA, R437: the target with the static address takes the dynamic one. -/
def execI3cSetdasa (static dynamic : BitVec 7) (s : State) : Host.Outcome State Fault Refusal :=
  s.done (fun w => if static.toNat = w.i3cStatic then w.upMgmt (fun m => { m with i3cDynamic := some dynamic.toNat }) else w)
/-- BYPASS, R439. -/
def execBypass (s : State) : Host.Outcome State Fault Refusal := s.done (fun w => w.upMgmt (fun m => { m with ir := 0, dr := 0 }))
/-- IDCODE, R439. -/
def execIdcode (s : State) : Host.Outcome State Fault Refusal :=
  s.done (fun w => w.upMgmt (fun m => { m with ir := 1, dr := 0x158A856B }))
/-- SAMPLE/PRELOAD, R439. -/
def execSamplePreload (contacts preload : BitVec 24) (s : State) : Host.Outcome State Fault Refusal :=
  s.done (fun w => w.upMgmt (fun m => { m with ir := 2, dr := contacts.toNat, sampled := contacts.toNat, preload := preload.toNat }))
/-- EXTEST, R439: it loads only in cold reset; otherwise the instruction register loads BYPASS. -/
def execExtest (s : State) : Host.Outcome State Fault Refusal :=
  s.done (fun w => w.upMgmt (fun m => if w.inColdReset then { m with ir := 3, dr := m.preload } else { m with ir := 0, dr := 0 }))

end Sys2Proof.Machine
end

