-- ==== Sys2Proof/Machine/Dictionary.lean ====
section
/-! DEFINITION. Dictionary requests over every path (R407 to R418, R435, R436, R474): reads, writes of any object, INFO, and
the objects that the device computes. A write of an object that has a row of its own has that row's effect. -/
namespace Sys2Proof.Machine

/-- Bytes that a STRING or DOMAIN request names, R414. -/
def reqLength (r : OdReq) : Nat := if r.length = 0 then 4096 else r.length.toNat

/-- ASCII bytes of a text. -/
def asciiBytes (s : String) : List Byte := s.toList.map (fun c => BitVec.ofNat 8 c.toNat)

/-- STRING contents of 0x1000, R417. -/
def identity (sub : Nat) : List Byte :=
  match sub with
  | 1 => asciiBytes "Obbevin Semiconductor"
  | 2 => asciiBytes "Plaos PLJ8"
  | 3 => asciiBytes "PLJ8-M-LC"
  | 4 => asciiBytes "B0"
  | _ => asciiBytes "J8" ++ (List.range 10).map (fun i => BitVec.ofNat 8 (48 + (Config.serialDigits (Fin.ofNat 10 i)).val))

/-- ZigguratTable: xz[0 … 256], then fz[0 … 256] (R229). -/
def zigguratBytes : List Byte := ((zigX ++ zigF).map (fun v => leBytes 4 v)).flatten

/-- A fault record as 512 bits, R448. -/
def faultBits (r : FaultRec) : Nat :=
  let b (x : Bool) (i : Nat) : Nat := if x then 2 ^ i else 0
  r.lastTick % 2 ^ 64 * (2 ^ 224 * 2 ^ 224) + r.count * (2 ^ 192 * 2 ^ 192) + r.action * (2 ^ 160 * 2 ^ 160) + r.deadline % 2 ^ 64 * 2 ^ 256 + r.tick % 2 ^ 64 * 2 ^ 192
    + r.address * 2 ^ 128 + r.master * 2 ^ 112 + r.access * 2 ^ 104 + r.reason * 2 ^ 88 + r.precedence * 2 ^ 84 + r.cls * 2 ^ 80
    + r.husk * 2 ^ 64 + r.source * 2 ^ 48 + r.seq * 2 ^ 32 + b r.valid 7 + b r.acked 6 + b r.cleared 5 + b r.merged 4
    + b r.counted 3 + b r.escalated 2 + b r.fenced 1

/-- Word i of a fault record. -/
def faultWord (r : FaultRec) (i : Nat) : Nat := fld (faultBits r) (64 * i) 64

/-- Greatest length of a DOMAIN that can be written, R129, R335, R417, R441. -/
def domainMax (index : Nat) : Nat :=
  match index with
  | 0x1031 => 352 + 0x4000000
  | 0x2081 => 8192
  | 0x8080 => 768
  | _ => 0

/-- Key of a STRING or DOMAIN's bytes, and of the saved value of an RWS one. -/
def blobKey (index sub : Nat) : Nat := index * 256 + sub
/-- Where the saved value of AcornSigningKey stands. -/
def savedBlob : Nat := 0x1808001

namespace World

/-! ### What objects hold -/

/-- Sources whose record is pending, R454. -/
def pendingFaults (w : World) : List (Nat × FaultRec) := w.dev.faults.recs.items.filter (fun p => p.2.valid && !p.2.acked)

/-- FaultOldestSource, R454. -/
def oldestFault (w : World) : Nat :=
  match w.pendingFaults with
  | [] => 0xFFFF
  | p :: ps =>
    (ps.foldl (fun (b : Nat × FaultRec) q =>
      if q.2.tick < b.2.tick ∨ (q.2.tick = b.2.tick ∧ q.2.precedence < b.2.precedence) then q else b) p).1

/-- An entry of AcornPoisonList as 16 bytes, R122. -/
def poisonEntryBytes (e : PoisonEnt) : List Byte := (List.range 16).map (fun i => Config.poisonListByte e.slot e.image e.matrix e.tr e.tc i)

/-- Length of a STRING or DOMAIN. -/
def blobLength (w : World) (index sub : Nat) : Nat :=
  match index with
  | 0x1000 => (identity sub).length
  | 0x2043 => 196608
  | 0x2060 => 2056
  | 0x7003 => 16384
  | 0x7004 => 64
  | 0x8030 => 16 * w.dev.acorn.poison.length
  | 0x9010 => Config.energyTable.length
  | _ => if 0x7100 ≤ index ∧ index < 0x7300 then 64 else (w.dev.blobs.getD (blobKey index sub) []).length

/-- `n` bytes of a STRING or DOMAIN from `off`, at most to its end. -/
def blobBytes (w : World) (index sub off n : Nat) : List Byte :=
  let cut (l : List Byte) : List Byte := (l.drop off).take n
  match index with
  | 0x1000 => cut (identity sub)
  | 0x2043 => (List.range (Nat.min n (196608 - off))).map (fun i => BitVec.ofNat 8 (w.frameOwner (off + i)))
  | 0x2060 => cut zigguratBytes
  | 0x7003 =>
    let es := (List.range ((n + 127) / 64)).map (fun i => off / 64 + i)
    let l := (es.filter (fun e => decide (e < 256))).map (fun e => leBytes 64 (faultBits (w.dev.faults.history.getD e FaultRec.init)))
    (l.flatten.drop (off % 64)).take n
  | 0x7004 => cut (leBytes 64 ((w.pendingFaults.map (fun p => 2 ^ (p.1 % 256) * (if p.1 < 256 then 1 else 2 ^ 128 * 2 ^ 128))).foldl (· + ·) 0))
  | 0x8030 => cut (w.dev.acorn.poison.map poisonEntryBytes).flatten
  | 0x9010 => cut Config.energyTable
  | _ =>
    if 0x7100 ≤ index ∧ index < 0x7300 then cut (leBytes 64 (faultBits (w.faultRec (index - 0x7100))))
    else cut (w.dev.blobs.getD (blobKey index sub) [])

/-- The value of a scalar as it reads now, R408: a WO object reads 0; a measured rail voltage is a value that the spec does
not state. -/
def odValue (w : World) (index sub : Nat) (r : OdRow) : Nat × World :=
  let k := index * 256 + sub
  if r.acc = .wo then (0, w)
  else if k = oTimeNow.key then (w.now, w)
  else if k = oFaultPendingCount.key then (w.pendingFaults.length, w)
  else if k = oFaultOldestSource.key then (w.oldestFault, w)
  else if 0x7100 ≤ index ∧ index < 0x7300 then (faultWord (w.faultRec (index - 0x7100)) (sub - 1), w)
  else if index / 4096 = 3 ∧ index % 256 = 0xD0 then (faultWord (w.faultRec (huskSource (index / 256 % 16))) (sub - 1), w)
  else if index = 0x2093 then w.railVoltage (sub - 1)
  else if k = 0x102401 then (Config.fieldNetMac.toNat, w)
  else
    let w1 := if index = 0x8000 then w.imagesSettle else w
    (w1.rd ⟨k, r.defaultAt sub⟩, w1)

/-! ### Reads and INFO -/

/-- Why a path may not read an object, R411 and R412. -/
def odReadRefusal (p : Path) (index sub : Nat) : Option Nat :=
  match p with
  | .vf h _ => if huskRange h.val index then none else some 0x000A
  | .mctp => if index / 4096 = 3 ∧ index % 256 = 0x70 ∧ sub = 1 then some 0x000B else none
  | _ => none

/-- A READ executes, R408, R411, R412, R414 and R415. -/
def odReadGo (w : World) (p : Path) (req : OdReq) : World :=
  let index := req.index.toNat
  let sub := req.sub.toNat
  match odReadRefusal p index sub, odLookup index sub with
  | some reason, _ => w.odFinish p reason 0 [] false
  | none, none => w.odFinish p 0x000A 0 [] false
  | none, some r =>
    if odIsBlob r.ty then
      let off := if r.ty = .str then 0 else 4096 * req.segment.toNat
      if w.blobLength index sub < off then w.odFinish p 0x000C 0 [] false
      else w.odFinish p 0 (w.window (pathFn p)).data (w.blobBytes index sub off (reqLength req)) true
    else
      let (v, w1) := w.odValue index sub r
      w1.odFinish p 0 (BitVec.ofNat 64 v) [] true

/-- The access right of an object as a path may use it, R415. -/
def odRight (p : Path) (index sub : Nat) (r : OdRow) : Nat :=
  match r.acc with
  | .const => 0
  | .ro => 1
  | .w1c => 1
  | a => if odMayWrite p index sub r then (match a with
      | .rw => 2
      | .wo => 3
      | _ => 4) else 1

/-- An INFO executes, R415. -/
def odInfoGo (w : World) (p : Path) (req : OdReq) : World :=
  let index := req.index.toNat
  let sub := req.sub.toNat
  match odReadRefusal p index sub, odLookup index sub with
  | some reason, _ => w.odFinish p reason 0 [] false
  | none, none => w.odFinish p 0x000A 0 [] false
  | none, some r =>
    let len := if odIsBlob r.ty then w.blobLength index sub else odBytes r.ty
    w.odFinish p 0 (BitVec.ofNat 64 (len * 2 ^ 32 + odRight p index sub r * 256 + odTypeCode r.ty)) [] true

/-! ### What a write of each object does -/

/-- ConfigRestoreDefaults, R410. -/
def restoreDefaults (w : World) : Nat × World :=
  (0, { w with dev := { w.dev with saved := .empty, blobs := w.dev.blobs.del savedBlob } })

/-- FabricDims without its RSVD bits (R8, R371). -/
def dimsKept (v : Nat) : Nat := fld v 0 6 + fld v 8 6 * 2 ^ 8 + fld v 16 6 * 2 ^ 16 + fld v 24 3 * 2 ^ 24
/-- Are the extents of FabricDims in range, R371? -/
def dimsOk (v : Nat) : Bool :=
  let inRange (n m : Nat) : Bool := decide (1 ≤ n) && decide (n ≤ m)
  inRange (fld v 16 6) 32 && inRange (fld v 8 6) 32 && inRange (fld v 0 6) 48

/-- The object takes the value unless a condition refuses it. -/
def plainUnless (w : World) (busy : Bool) (reason key v : Nat) : Nat × World := if busy then (reason, w) else odPlain key w v

/-- Is every entry of a husk's sequence table FREE, R235? -/
def seqTableFree (w : World) (h : Nat) : Bool := (w.seqsOf h).all (fun q => w.seqState h q == 0)

/-- A write of HuskSeqSlots, R235. -/
def seqSlotsWrite (w : World) (h v : Nat) : Nat × World :=
  let others := ((allHusks.filter (fun k => k != h)).map (fun k => w.rd (oHuskSeqSlots k))).foldl (· + ·) 0
  if !w.seqTableFree h ∨ 65536 < others + v then (0x0108, w) else (0, w.wr (oHuskSeqSlots h) v)

/-- Does a BEST_EFFORT sequence of the husk run, or stand PREEMPTED or PAUSED (R255)? -/
def bestEffortBusy (w : World) (h : Nat) : Bool :=
  (w.seqsOf h).any (fun q =>
    let v := w.seqWord h q
    sqPrio v == 2 && (sqRuns (sqState v) || sqState v == ssPreempted || sqState v == ssPaused))

/-- Is a pool setting of the husk in use, R157? -/
def poolInUse (w : World) (h : Nat) : Bool := w.runActive h || (w.poolHeld h).any (fun p => p.2.state == 1)

/-- A write of a pool object, R157: the ledger stands at every tick, so the objects that the table then in use shows are the ones
counted, and a pool smaller than they are is refused as one in use (DESIGN CHOICE, log entry 157). -/
def poolWrite (w : World) (h key v : Nat) : Nat × World :=
  let w1 := w.wr ⟨key, 0⟩ v
  let held := ((w1.poolHeld h).map (fun p => p.2.bytes)).foldl (· + ·) 0
  if w.poolInUse h || decide (w1.rd (oHuskPoolBytes h) < held) then (0x0208, w)
  else (0, w1.poolCounts h held 0)

/-- A write of HuskCanonicalMode, R66. -/
def canonicalWrite (w : World) (h v : Nat) : Nat × World :=
  if w.rd (oHuskCanonicalMode h) = v then (0, w)
  else (0, ((w.wr (oHuskCanonicalMode h) v).wr (oHuskCanonicalEpoch h) (fit 32 (w.rd (oHuskCanonicalEpoch h) + 1))).remode h)

/-- Does a slice run a guest, or an engine of it a filler command (R335)? -/
def sliceLent (w : World) (s : Nat) : Bool :=
  (decide (w.running s < 16) && w.ownerOf s != some (w.running s)) || w.dev.cycle.lent.items.any (fun p => p.1 / 16 == s)

/-- The object takes the value at the next tick (R325). -/
def nextTick (w : World) (key v : Nat) : Nat × World :=
  (0, { w with dev := { w.dev with due := w.dev.due ++ [.setObject key v] } })

/-- HuskTurnConfig as it is kept: its RSVD fields read 0 (R8, R306). -/
def turnConfigKept (v : Nat) : Nat := setFld (setFld v 8 8 0) 2 2 0

/-- A write of an object of the husk range. -/
def huskEffect (p : Path) (index sub : Nat) (w : World) (v : Nat) : Nat × World :=
  let h := index / 256 % 16
  let key := index * 256 + sub
  match index % 256, sub with
  | 0x00, 2 => w.huskControl h (pathMaster p) v
  | 0x00, 6 => w.nextTick key v
  | 0x00, 7 => if v = 0 ∨ bitAt v 0 ∨ bitAt v 7 then (0x0003, w) else w.nextTick key v
  | 0x00, n => w.plainUnless (n != 6 && w.huskState h != hsDisabled) 0x0A02 key v
  | 0x20, _ => w.canonicalWrite h v
  | 0x70, 1 => (0, (w.wr (oHuskRngKey h) v).remode h)
  | 0x30, 1 => w.bindImage h v
  | 0x30, 4 => onOne (fun w => w.overlayCommit p h) w v
  | 0x40, 0xA => onOne (fun w => w.poolFlush h) w v
  | 0x40, _ => w.poolWrite h key v
  | 0x50, 1 => w.podReserveWrite h v
  | 0x60, 1 => if w.inHbm h v 128 .wr then w.plainUnless (!w.seqTableFree h) 0x0108 key v else (0x000D, w)
  | 0x60, 2 => w.seqSlotsWrite h v
  | 0x60, 3 => w.plainUnless (decide (v < w.rd (oHuskGuaranteedMax h))) 0x000D key v
  | 0x60, 4 => w.plainUnless (decide (w.rd (oHuskStepMax h) < v)) 0x000D key v
  | 0x60, 8 => w.plainUnless (w.bestEffortBusy h) 0x0108 key v
  | 0x60, 0x10 => w.cancelWrite h v
  | 0x60, 0x20 => w.replaceStart h v
  | 0x60, 0x22 => w.replaceLayer h v
  | 0x60, 0x23 => w.replaceFlagWrite h v
  | 0x80, 1 => w.ckptBase h v
  | 0x80, 2 => w.ckptCount h v
  | 0x80, 3 => w.plainUnless (decide (2 < v)) 0x0003 key v
  | 0xA0, 5 => onOne (fun w => w.turnStart h) w v
  | 0xA0, 6 => onOne (fun w => w.cancelDue (.cancelTurn p h)) w v
  | 0xA0, 7 => w.turnResolve h v
  | 0xA0, n => w.plainUnless (!stIdleOrTerminal (w.rd (oTurnStatus h 0))) 0x0605 key (if n = 4 then turnConfigKept v else v)
  | 0xC0, j => w.opPointWrite h (j - 1) v
  | 0xC1, 3 => w.phaseSet h v
  | 0xD0, 0x10 => if fld v 0 16 = huskSource h then w.faultAck p v else (0x000D, w)
  | _, _ => odPlain key w v

/-- A write of a device-wide object. -/
def deviceEffect (p : Path) (index sub : Nat) (w : World) (v : Nat) : Nat × World :=
  let key := index * 256 + sub
  match index, sub with
  | 0x1010, 1 => onOne restoreDefaults w v
  | 0x1030, 3 => onOne fwStart w v
  | 0x1030, 4 => onOne (fun w => w.cancelDue (.cancelFirmware p)) w v
  | 0x1030, 5 => onOne (fun w => w.fwActivate (pathMaster p)) w v
  | 0x1030, 0xB => w.fwRevoke v
  | 0x2000, 1 => w.nominalWrite v
  | 0x2010, 5 => onOne (fun w => (0, w.upTime (fun t => { t with permit := true }))) w v
  | 0x2041, n => w.plainUnless (w.runUsesPort ((n - 1) % 2) || w.swapsOn ((n - 1) % 2)) 0x0208 key v
  | 0x2050, _ => w.podRegionWrite ⟨key, 0⟩ v
  | 0x2070, 1 => w.tenantWindowWrite v
  | 0x2080, 1 => w.cycleEnable v
  | 0x2080, 4 => onOne cycleCommit w v
  | 0x2090, 1 => w.resetCommand (pathMaster p) v
  | 0x2091, 1 => w.powerCommand (pathMaster p) v
  | 0x209A, 1 => w.domainMask v
  | 0x20A0, 1 => limitWrite oPowerSustainedLimit w v
  | 0x20A0, 4 => limitWrite oPowerStaticAllowance w v
  | 0x5000, n => if (List.range 24).any (fun k => w.rd (oLinkState k) == 3) then (0x0309, w)
      else if n = 2 ∧ !dimsOk v then (0x000D, w) else odPlain key w (if n = 2 then dimsKept v else v)
  | 0x5001, d => w.dirPowerReq (d - 1) v
  | 0x7000, 3 => w.faultAck p v
  | 0x7002, 1 => w.recoverUnit v
  | 0x7002, 3 => w.faultUnfence v
  | 0x7006, 1 => w.faultInject v
  | 0x7800, 1 => onOne snapshotRequest w v
  | 0x7800, 5 => w.firstBrokenClear v
  | 0x8001, 0 => w.releaseImage v
  | 0x8010, 6 => onOne installStart w v
  | 0x8010, 7 => onOne installCancel w v
  | 0x8020, 3 => onOne (fun w => w.repairCommit p) w v
  | 0x8042, 1 => onOne refreshStart w v
  | 0x8042, 2 => onOne refreshCancel w v
  | _, _ => odPlain key w v

/-- What a write of a scalar object does. -/
def odEffect (p : Path) (index sub : Nat) (w : World) (v : Nat) : Nat × World :=
  if 0x3000 ≤ index ∧ index < 0x4000 then huskEffect p index sub w v
  else if 0x4000 ≤ index ∧ index < 0x5000 then
    w.plainUnless (index % 256 == 0 && w.sliceLent (index / 256 % 16)) 0x0A02 (index * 256 + sub) v
  else deviceEffect p index sub w v

/-- A write of a DOMAIN segment, R327 and R415: whole or not at all. -/
def blobWrite (w : World) (index sub : Nat) (req : OdReq) (data : List Byte) : Nat × World :=
  let n := reqLength req
  let off := 4096 * req.segment.toNat
  let cur := w.dev.blobs.getD (blobKey index sub) []
  if data.length ≠ n then (0x000C, w)
  else if index = 0x2043 then (if 196608 < off + n then (0x000C, w) else w.frameWrite off data)
  else if cur.length < off ∨ domainMax index < off + n ∨ (index = 0x8080 ∧ (off + n) % 48 ≠ 0) then (0x000C, w)
  else (0, { w with dev := { w.dev with blobs := w.dev.blobs.put (blobKey index sub) (cur.take off ++ data) } })

/-- A DOMAIN write executes; AcornSigningKey is saved with it (R408, R410). -/
def odBlob (w : World) (p : Path) (index sub : Nat) (r : OdRow) (req : OdReq) (data : List Byte) (saveOk : Bool) : World :=
  match w.odWriteRefusal p index sub r with
  | some reason => w.odFinish p reason 0 [] false
  | none =>
    let (reason, w1) := w.blobWrite index sub req data
    if reason = 0 ∧ r.acc = .rws then
      if saveOk then
        (({ w1 with dev := { w1.dev with blobs := w1.dev.blobs.put savedBlob (w1.dev.blobs.getD (blobKey index sub) []) } }).wr
          oNvConfigWrites (fit 32 (w1.rd oNvConfigWrites + 1))).odFinish p 0 0 [] false
      else w1.odFinish p 0x000F 0 [] false
    else w1.odFinish p reason 0 [] false

/-- A WRITE executes, R409. -/
def odWriteGo (w : World) (p : Path) (req : OdReq) (v : Word) (data : List Byte) (saveOk : Bool) : World :=
  let index := req.index.toNat
  let sub := req.sub.toNat
  match odLookup index sub with
  | none => w.odFinish p 0x000A 0 [] false
  | some r =>
    if odIsBlob r.ty then w.odBlob p index sub r req data saveOk
    else w.odScalar p index sub v saveOk (odEffect p index sub)

/-- What a request asks is done: 0 READ, 2 INFO, else WRITE. -/
def odDo (x : OdHeld) (w : World) : World :=
  match x.kind with
  | 0 => w.odReadGo x.path x.req
  | 2 => w.odInfoGo x.path x.req
  | _ => w.odWriteGo x.path x.req x.value x.data x.saved

/-- A request over the field network: a repeat within 1 s is answered with the stored reply and not executed again (R435). -/
def netRequest (w : World) (o : NetOrigin) (q : OdHeld) : World :=
  let same (x : NetSeen) : Bool :=
    x.origin == o && x.kind == q.kind && x.req == q.req && x.value == q.value && x.data == q.data && decide (w.now < x.tick + 100000000)
  match w.dev.mgmt.net.find? same with
  | some x => { w with dev := { w.dev with replies := w.dev.replies.put 128 x.reply } }
  | none =>
    let w1 := odDo q { w with dev := { w.dev with replies := w.dev.replies.del 128 } }
    match w1.dev.replies.get? 128 with
    | some r => w1.upMgmt (fun m => { m with
        net := ⟨o, q.kind, q.req, q.value, q.data, w1.now, r⟩ :: m.net.filter (fun x => decide (w1.now < x.tick + 100000000)) })
    | none => w1

/-- A request executes, whatever it asks. -/
def odExecute (x : OdHeld) (w : World) : World :=
  match x.path, x.origin with
  | .fieldNet, some o => w.netRequest o x
  | _, _ => odDo x w

/-- The long operations go on after the controller's restart, R474. -/
def operationsResume (w : World) : World :=
  (w.each (List.range 8) (fun w a => w.startPulse a)).each w.dev.turns.items (fun w x => match w.dev.turns.get? x.1 with
    | some t => if t.stage = 3 then w.turnPump x.1 t else w
    | none => w)

/-- The controller's firmware is back, R474: the long operations go on, the requests that waited execute in order. -/
def restartDone (w : World) : World :=
  if !w.dev.resets.seqs.has 19 then w
  else
    let l := w.dev.odHeld
    let w0 := w.upResets (fun r => { r with seqs := r.seqs.del 19 })
    let w1 := { w0 with dev := { w0.dev with odHeld := [] } }
    (((w1.resetRecordEnd 19).inc32 (oResetCount 5) 1).operationsResume).each l (fun w x => odExecute x w)

/-- A vendor-defined MCTP message, R436: the header of R434, with fields that must be 0 checked; a reply asks nothing. -/
def mctpRequest (w : World) (header : Nat) (data : List Byte) : World :=
  if bitAt header 8 then w
  else
    let w1 := w.upMgmt (fun m => { m with mctpRequest := header })
    let req : OdReq := ⟨BitVec.ofNat 16 (fld header 48 16), BitVec.ofNat 8 (fld header 64 8), BitVec.ofNat 28 (fld header 72 28),
      BitVec.ofNat 12 (fld header 100 12)⟩
    let op := fld header 0 8
    if !rsvd header 9 23 || !rsvd header 112 16 || op == 0 || decide (3 < op) then w1.odFinish .mctp 0x0003 0 [] false
    else
      let x : OdHeld := ⟨op - 1, .mctp, req, BitVec.ofNat 64 (fld header 128 64), data, none, true⟩
      w1.odGate x (odExecute x)

end World

/-- OD_READ, R414. -/
def execOdRead (p : Path) (ask : OdAsk) (s : State) : Host.Outcome State Fault Refusal :=
  s.done (fun w => w.odGate ⟨0, p, ask.req, 0, [], ask.origin, true⟩ (World.odExecute ⟨0, p, ask.req, 0, [], ask.origin, true⟩))
/-- OD_WRITE, R409. -/
def execOdWrite (p : Path) (req : OdReq) (v : Word) (data : List Byte) (origin : Option NetOrigin) (saved : Bool) (s : State) :
    Host.Outcome State Fault Refusal :=
  s.done (fun w => w.odGate ⟨1, p, req, v, data, origin, saved⟩ (World.odExecute ⟨1, p, req, v, data, origin, saved⟩))
/-- OD_INFO, R415. -/
def execOdInfo (p : Path) (ask : OdAsk) (s : State) : Host.Outcome State Fault Refusal :=
  s.done (fun w => w.odGate ⟨2, p, ask.req, 0, [], ask.origin, true⟩ (World.odExecute ⟨2, p, ask.req, 0, [], ask.origin, true⟩))
/-- CONFIG_RESTORE_DEFAULTS, R410. -/
def execConfigRestoreDefaults (p : Path) (v : Word) (s : State) : Host.Outcome State Fault Refusal :=
  s.done (fun w => w.odCommand p 0x1010 1 v true (World.onOne World.restoreDefaults))
/-- HBM_FRAME_OWNER_WRITE, R327. -/
def execHbmFrameOwnerWrite (p : Path) (req : OdReq) (data : List Byte) (s : State) : Host.Outcome State Fault Refusal :=
  s.done (fun w =>
    let x : OdHeld := ⟨1, p, { req with index := 0x2043, sub := 0 }, 0, data, none, true⟩
    w.odGate x (World.odExecute x))
/-- CONTROLLER_RESTART_DONE, R474. -/
def execControllerRestartDone (s : State) : Host.Outcome State Fault Refusal := s.done (fun w => w.restartDone)
/-- MCTP_VENDOR_REQUEST, R436. -/
def execMctpVendorRequest (_binding : Fin 3) (header : BitVec 192) (data : List Byte) (s : State) : Host.Outcome State Fault Refusal :=
  s.done (fun w => w.mctpRequest header.toNat data)

end Sys2Proof.Machine
end

