-- ==== Sys2Proof/Machine/MemAccess.lean ====
section
/-! DEFINITION. One access of any master to memory, to the control space or to a host function's own windows (R36 to R45, R79,
R90, R97, R146, R333, R414, R424, R429 and R430). -/
namespace Sys2Proof.Machine

/-- The need, the ACCESS code (R449) and the RISC-V cause (R90) of an access. -/
def accessNeed : AccessKind → Need
  | .read => .rd
  | .write => .wr
  | .atomic => .atomic
  | .fetch => .exec
/-- ACCESS code, R449. -/
def accessCode : AccessKind → Nat
  | .read => 1
  | .write => 2
  | .atomic => 3
  | .fetch => 4
/-- Access-fault cause of a pip, R90. -/
def accessCause : AccessKind → Nat
  | .read => 5
  | .write => 7
  | .atomic => 7
  | .fetch => 1
/-- Does the access store? -/
def accessStores : AccessKind → Bool
  | .write => true
  | .atomic => true
  | _ => false

/-- What a control-space address names. -/
inductive CtrlReg where
  | reg (r : RingRef) (off : Nat)
  | collMem (e : Nat)
  | none
  deriving DecidableEq, Repr

/-- The control space, R80, R342 and R373; a slice queue page reaches the image of husk `h` (R334). -/
def ctrlAt (pa : Nat) (h : Nat) : CtrlReg :=
  let o := pa - 0x40000000
  if o < 0x100000 then .reg (.slice (Fin.ofNat 16 (o / 0x10000)) (Fin.ofNat 16 (o % 0x10000 / 0x1000)) (Fin.ofNat 16 h)) (o % 0x1000)
  else if o < 0x120000 then
    .reg (.filler (Fin.ofNat 16 ((o - 0x100000) / 0x2000)) (if o % 0x2000 < 0x1000 then 0 else 8)) (o % 0x1000)
  else if 0x200000 ≤ o ∧ o < 0x210000 then .reg (.coll 0 (Fin.ofNat 16 ((o - 0x200000) / 0x1000))) (o % 0x1000)
  else if 0x300000 ≤ o ∧ o < 0x310000 then .reg (.coll 1 (Fin.ofNat 16 ((o - 0x300000) / 0x1000))) (o % 0x1000)
  else if 0x400000 ≤ o ∧ o < 0x500000 then .collMem ((o - 0x400000) / 0x80000)
  else .none

namespace World

/-- What a master's access gave it. -/
def accessResult (w : World) (m : Nat) (data : List Byte) (bad : List Bool) (ok : Bool) : World :=
  { w with dev := { w.dev with access := w.dev.access.put m ⟨data, bad, ok⟩ } }

/-- The husk through whose page table a master's accesses go (R41, R334): for matrix engines, vector engines and pips
the husk that runs on the slice, for the other slice units its owner; none for a master that uses physical addresses. -/
def unitHusk (w : World) (m : Nat) : Option Nat :=
  let i := masterIndex m
  match masterType m with
  | 0x1 => if w.running (i / 8) < 16 then some (w.running (i / 8)) else none
  | 0x2 => if w.pipHusk i < 16 then some (w.pipHusk i) else none
  | 0x4 => if w.running i < 16 then some (w.running i) else none
  | 0x5 => w.ownerOf i
  | 0x6 => w.ownerOf i
  | 0x7 => w.ownerOf i
  | 0x8 => w.ownerOf i
  | 0x9 => w.ownerOf i
  | 0xF => w.ownerOf i
  | _ => none

/-- Does the master's type translate (R41)? -/
def translates (m : Nat) : Bool := [0x1, 0x2, 0x4, 0x5, 0x6, 0x7, 0x8, 0x9, 0xF].elem (masterType m)

/-- Is the path the physical function's, which every page is open to (R430)? -/
def pathPf : Path → Bool
  | .pf _ => true
  | _ => false

/-- A control-space read of `n` bytes: pages that the path does not see read 0 (R333, R430); while a module reset runs it reads
all ones (R473). -/
def ctrlRead (w : World) (p : Path) (c : CtrlReg) (pa n : Nat) : Option (List Byte) :=
  if w.moduleResetting then some (List.replicate n 0xFF)
  else match c with
    | .reg r off => some (if pathPf p || w.ringPathOk p r then (leBytes 8 (w.ringRegRead r off)).take n else List.replicate n 0)
    | .collMem _ => some (if pathPf p then w.bytes pa n else List.replicate n 0)
    | .none => none

/-- A control-space write. -/
def ctrlWrite (w : World) (p : Path) (c : CtrlReg) (pa : Nat) (data : List Byte) : Option World :=
  if w.moduleResetting then some w
  else match c with
    | .reg r off => some (if w.ringPathOk p r || (off == 0x010 && w.tailPathOk p r) then w.ringRegWrite p r off (leNat data) else w)
    | .collMem _ => some (if pathPf p then w.store pa data else w)
    | .none => none

/-- The path as which a master reaches control space: its host function, or its husk's own pages. -/
def ctrlPath (m : Nat) (h : Option Nat) : Path :=
  if masterType m = 0xB then
    (if masterIndex m % 32 = 0 then .pf (Fin.ofNat 2 (masterIndex m / 32))
     else .vf (Fin.ofNat 16 (masterIndex m % 32 - 1)) (Fin.ofNat 2 (masterIndex m / 32)))
  else match h with
    | some h => .vf (Fin.ofNat 16 h) 0
    | none => .pf 0

/-- A pip's Tier 3 access that its cluster's copies cannot serve: in flight until the host ends it (R100, R145). `coh` says how
its lines are taken: 0 not at all (the page's NC bit is set), 1 RdShared, 2 RdOwn for a store. -/
def pipTier3 (w : World) (p h port : Nat) (write : Bool) (pa n : Nat) (data : List Byte) (acc coh : Nat) : World :=
  let m := masterId 0x2 p
  if w.portCarries port then w.t3Begin ⟨port, write, pa, n, m, h, 0, m, data, coh⟩
  else if write then w.accessResult m [] [] false
  else
    let r := Rd.poison pa n [0x0209]
    ((w.contained h m acc 0x0209 pa).inc (oTier3Poisoned port) 1).accessResult m r.data r.bad true

/-- Do the cluster's copies hold every line of the range; for a store, as lines that the host has given up too (R100)? -/
def linesHeld (w : World) (c pa n : Nat) (own : Bool) : Bool :=
  (linePieces (n / 64 + 2) pa n).all (fun x => match w.copy? (x.1 / 64) c with
    | some y => !own || y.state == .m || (y.state == .e && (w.dirLine (x.1 / 64)).host == 2)
    | none => false)

/-- The store side of a pip's access, at a translated address. -/
def pipStore (w : World) (p h pa : Nat) (data : List Byte) (enc nc : Bool) (acc : Nat) : World :=
  let m := masterId 0x2 p
  let key := if enc then w.huskKey h else 0
  match regionOf pa with
  | .ctrl => (w.ctrlWrite (ctrlPath m (some h)) (ctrlAt pa h) pa data).getD w
  | .tier3 port =>
    if !nc && w.linesHeld (p / 32) pa data.length true then w.cachedWrite (p / 32) pa data 0
    else w.pipTier3 p h port true pa data.length data acc (if nc then 0 else 2)
  | .hbm => if nc then (w.writePhys (some h) m acc pa data (List.replicate data.length false) key).2
    else w.cachedWrite (p / 32) pa data key
  | _ => (w.writePhys (some h) m acc pa data (List.replicate data.length false) key).2

/-- The load side: what the pip reads, or none when a Tier 3 access is in flight. -/
def pipLoad (w : World) (p h va pa n : Nat) (nc : Bool) (need : Need) (acc : Nat) : World :=
  let m := masterId 0x2 p
  let plain (w : World) : World :=
    let ((r, ok), w1) := w.pipRead p h va n need acc
    let w2 := if r.anyBad && r.origins.isEmpty then w1.contained h m acc 0x0010 pa else w1
    w2.accessResult m r.data r.bad ok
  match regionOf pa with
  | .ctrl => match w.ctrlRead (ctrlPath m (some h)) (ctrlAt pa h) pa n with
    | some d => w.accessResult m d (List.replicate n false) true
    | none => plain w
  | .tier3 port => if !nc && w.linesHeld (p / 32) pa n false then plain w else w.pipTier3 p h port false pa n [] acc (if nc then 0 else 1)
  | _ => plain w

/-- An access of a pip (R90): one whose translation faults loads and stores nothing and traps. -/
def pipAccess (w : World) (p : Nat) (k : AccessKind) (va n : Nat) (data : List Byte) : World :=
  let h := w.pipHusk p
  let m := masterId 0x2 p
  let walked := (pages (pageFuel n) va n).foldl (fun st q =>
    match st with
    | (false, w) => (false, w)
    | (true, w) => match w.reach h m (accessCode k) (accessNeed k) q.1 with
      | (some _, w1) => (true, w1)
      | (none, w1) => (false, w1)) (true, w)
  match walked with
  | (false, w1) => (w1.accessResult m [] [] false).trap p (accessCause k) (BitVec.ofNat 64 va)
  | (true, w1) =>
    match w1.translate h va (accessNeed k) with
    | (.fault _ _, w2) => w2
    | (.ok pa _ nc, w2) =>
      let w3 := if k = .write then w2.accessResult m [] [] true else w2.pipLoad p h va pa n nc (accessNeed k) (accessCode k)
      if accessStores k then
        (pages (pageFuel n) va n).foldl (fun w q => match w.peekLeaf h q.1 (accessNeed k) with
          | some (qa, e) => w.pipStore p h qa ((data.drop (q.1 - va)).take q.2) e nc (accessCode k)
          | none => w) w3
      else w3

/-- An access of another unit through the page table of its husk (R41). -/
def unitAccess (w : World) (m h : Nat) (k : AccessKind) (va n : Nat) (data : List Byte) : World :=
  let wr (w : World) : World :=
    let (ok, w1) := w.writeVirt h m (accessCode k) va data (List.replicate data.length false)
    if k = .write then w1.accessResult m [] [] ok else w1
  let rd (w : World) : World :=
    let ((r, ok), w1) := w.readVirt h m (accessCode k) va n
    let w2 := if ok && r.anyBad && r.origins.isEmpty then w1.contained h m (accessCode k) 0x0010 va else w1
    w2.accessResult m r.data r.bad ok
  match k with
  | .write => wr w
  | .atomic => wr (rd w)
  | _ => rd w

/-! ### A host function's own windows, R414, R424, R429 and R430 -/

/-- What a host function's address names above the 48 bits of R36 (DESIGN CHOICE, log entry 156): 1, its dictionary window, and
2, its port's HDM range; bits [47:0] are the offset. -/
def hostSpace (addr : Nat) : Nat := addr / 2 ^ 48

/-- A word of STATUS_MIRROR, R424: the status word or record at an offset of the image; a virtual function sees its husk's
TurnStatus only. -/
def mirrorWord (w : World) (vf : Option Nat) (off : Nat) : Nat :=
  let index := 0x6000 + off / 0x200
  let sub := off % 0x200 / 8
  match odLookup index sub with
  | none => 0
  | some r => if (match vf with
      | some h => index == 0x6010 + h
      | none => true) then (w.odValue index sub r).1 else 0

/-- OD_RESULT of a window, R414. -/
def windowResult (x : Window) : Nat :=
  x.reason.toNat * 2 ^ 16 + x.count.toNat * 2 ^ 32 + (if x.busy then 2 ^ 63 else 0)

/-- The 64-bit word of a function's dictionary window at an offset divisible by 8, R414. -/
def windowWord (w : World) (p : Path) (off : Nat) : Nat :=
  let x := w.window (pathFn p)
  if 0x20000 ≤ off ∧ off < 0x40000 then w.mirrorWord (pathVf p) (off - 0x20000)
  else if 0x1000 ≤ off ∧ off < 0x2000 then leNat ((x.buffer.drop (off - 0x1000)).take 8)
  else match off with
    | 0x00 => x.request.toNat
    | 0x08 => x.data.toNat
    | 0x10 => windowResult x
    | _ => 0

/-- `n` bytes of a function's window, or of the HDM range, which holds the mirror at its offset 0 (R424, R429). -/
def spaceRead (w : World) (p : Path) (space off n : Nat) : List Byte :=
  let word (o : Nat) : Nat :=
    if space = 1 then w.windowWord p o else if o < 0x20000 then w.mirrorWord none o else 0
  (List.range n).map (fun i => BitVec.ofNat 8 (fld (word ((off + i) / 8 * 8)) (8 * ((off + i) % 8)) 8))

/-- A write of OD_DOORBELL, R414: the request that the window's registers hold; other values are ignored. -/
def windowDoorbell (w : World) (p : Path) (v : Nat) : World :=
  let x := w.window (pathFn p)
  let q := x.request.toNat
  let req : OdReq := ⟨BitVec.ofNat 16 (fld q 8 16), BitVec.ofNat 8 (fld q 0 8), BitVec.ofNat 28 (fld q 36 28), BitVec.ofNat 12 (fld q 24 12)⟩
  if v = 0 ∨ 3 < v then w
  else
    let h : OdHeld := ⟨v - 1, p, req, x.data, (x.buffer ++ List.replicate 4096 0).take (reqLength req), none, true⟩
    w.odGate { h with data := match odLookup req.index.toNat req.sub.toNat with
      | some r => if odIsBlob r.ty then h.data else []
      | none => [] } (odExecute h)

/-- A write to a function's dictionary window, R414; read-only registers and the mirror ignore it. -/
def windowWrite (w : World) (p : Path) (off : Nat) (data : List Byte) : World :=
  let fn := pathFn p
  let x := w.window fn
  let put (y : Window) : World := { w with dev := { w.dev with windows := w.dev.windows.put fn y } }
  let merged : Nat := leNat (patch (leBytes 8 (w.windowWord p (off / 8 * 8))) (off % 8) data)
  if 0x1000 ≤ off ∧ off < 0x2000 then
    put { x with buffer := (patch ((x.buffer ++ List.replicate 4096 0).take 4096) (off - 0x1000) data).take 4096 }
  else match off / 8 with
    | 0 => put { x with request := BitVec.ofNat 64 merged }
    | 1 => put { x with data := BitVec.ofNat 64 merged }
    | 3 => w.windowDoorbell p merged
    | _ => w

/-- An access of a host function to its own window or to its port's HDM range; a port in CXL mode alone has the range (R428). -/
def spaceAccess (w : World) (m : Nat) (p : Path) (k : AccessKind) (addr n : Nat) (data : List Byte) : World :=
  let space := hostSpace addr
  let off := addr % 2 ^ 48
  let port := masterIndex m / 32
  if space = 2 && !w.portCarries port then w
  else
    let w1 := if accessStores k then (if space = 1 then w.windowWrite p off data else w.hdmDiscard port) else w
    if k = .write then w1.accessResult m [] [] true
    else w1.accessResult m (w.spaceRead p space off n) (List.replicate n false) true

/-- May a host function reach a physical address? A virtual function reaches its own pages of control space alone (R333, R430);
the physical function everything, but only the device writes the pod and the tenant table, in both copies (R187, R251). -/
def hostReaches (w : World) (husk : Option Nat) (store : Bool) (pa n : Nat) : Bool :=
  let meets (lo len : Nat) : Bool := decide (pa < lo + len) && decide (lo < pa + n)
  match husk with
  | some _ => regionOf pa == .ctrl
  | none => !store || !(meets (w.podEntryAddr 0) 0x8000000 || meets (w.podEntryAddr 0 + podCopyOffset) 0x8000000
      || meets (w.tenantAddr 0) 0x100000 || meets (w.tenantAddr 0 - tenantCopyOffset) 0x100000)

/-- An access at a physical address by a master without a page table (R36 to R40). -/
def physAccess (w : World) (m : Nat) (k : AccessKind) (pa n : Nat) (data : List Byte) : World :=
  let husk := if masterType m = 0xB ∧ masterIndex m % 32 ≠ 0 then some (masterIndex m % 32 - 1) else none
  let img := match husk with
    | some h => h
    | none => (w.ownerOf ((pa - 0x40000000) / 0x10000)).getD 0
  let acc := accessCode k
  let rd (w : World) : World := match regionOf pa with
    | .ctrl => match w.ctrlRead (ctrlPath m husk) (ctrlAt pa img) pa n with
      | some d => w.accessResult m d (List.replicate n false) true
      | none =>
        let (r, w1) := w.readPhys husk m acc pa n 0
        w1.accessResult m r.data r.bad true
    | _ =>
      let (r, w1) := w.readPhys husk m acc pa n 0
      w1.accessResult m r.data r.bad true
  let put (w : World) : World :=
    let (ok, w1) := w.writePhys husk m acc pa data (List.replicate data.length false) 0
    if k = .write ∨ !ok then w1.accessResult m [] [] ok else w1
  let wr (w : World) : World := match regionOf pa with
    | .ctrl => match w.ctrlWrite (ctrlPath m husk) (ctrlAt pa img) pa data with
      | some w1 => if k = .write then w1.accessResult m [] [] true else w1
      | none => put w
    | _ => put w
  match k with
  | .write => wr w
  | .atomic => wr (rd w)
  | _ => rd w

/-- One access of a master. -/
def accessBy (w : World) (m : Nat) (k : AccessKind) (addr len : Nat) (data : List Byte) : World :=
  let n := if accessStores k then data.length else len
  if n = 0 then w
  else if translates m then
    match w.unitHusk m with
    | none => w
    | some h =>
      if masterType m = 0x2 then (if w.pipRuns (masterIndex m) then w.pipAccess (masterIndex m) k addr n data else w)
      else w.unitAccess m h k addr n data
  else if masterType m = 0xB ∧ (hostSpace addr = 1 ∨ hostSpace addr = 2) then
    w.spaceAccess m (ctrlPath m (if masterIndex m % 32 = 0 then none else some (masterIndex m % 32 - 1))) k addr n data
  else if masterType m = 0xB && !w.hostReaches (if masterIndex m % 32 = 0 then none else some (masterIndex m % 32 - 1)) (accessStores k) addr n then
    w.accessResult m [] [] false
  else w.physAccess m k addr n data

end World

/-- MEMORY_ACCESS, R36 to R45. -/
def execMemoryAccess (m : Master) (k : AccessKind) (addr : Word) (len : Nat) (data : List Byte) (s : State) : Host.Outcome State Fault Refusal :=
  s.done (fun w => w.accessBy m.toNat k addr.toNat len data)

end Sys2Proof.Machine
end

