-- ==== Sys2Proof/Machine/Messages.lean ====
section
/-! DEFINITION. Messages as their engine takes them (R358, R361, R367, R368, R389, R390): the checks and the epochs once,
then what each kind does. -/
namespace Sys2Proof.Machine

namespace World

/-- An epoch seen for a source husk, R367: when it becomes newer, tentative tokens of that source go (R207) and its
unsettled contributions are dropped (R383); its messages that were cut short fail (R369). -/
def seeEpoch (w : World) (node husk e : Nat) : World :=
  if node = w.self then w
  else
    let k := node * 16 + husk
    let set (w : World) : World := w.upFabric (fun f => { f with epochs := f.epochs.put k e })
    match w.dev.fabric.epochs.get? k with
    | none => set w
    | some old => if epochNewer e old then ((((set w).upFabric (fun f => { f with assembling := f.assembling.delIf (fun _ r =>
        r.truncated && fld r.hdr 64 16 == node && fld r.hdr 60 4 == husk && r.vc != 0 && r.vc != 7) })).dropForwarded node husk).collLost
        node husk 0x0303) else w

/-- A module epoch seen on VC 0 or VC 7. -/
def seeModule (w : World) (node e : Nat) : World :=
  if node = w.self then w
  else match w.dev.fabric.modEpochs.get? node with
    | none => w.upFabric (fun f => { f with modEpochs := f.modEpochs.put node e })
    | some old => if epochNewer e old then w.upFabric (fun f => { f with modEpochs := f.modEpochs.put node e }) else w

/-- Do two messages carry the same header? -/
def sameHead (a b : Msg) : Bool := a.dest == b.dest && a.vc == b.vc && headerOf a == headerOf b

/-- A message of a kind taken by its engine: the port's checks (R368) where the port has not made them, the source's epoch,
then its effect. -/
def receive (w : World) (m : Msg) (kind : Nat) (f : World → World) : World :=
  if m.dest.toNat ≠ w.self ∨ m.kind.toNat ≠ kind then w
  else
    let here := w.dev.fabric.inbox.any (sameHead m)
    let w0 := w.upFabric (fun x => { x with inbox := x.inbox.filter (fun y => !sameHead m y) })
    let outside := here && m.srcNode.toNat != w.self
    let h := m.dstHusk.toNat
    let refused := if outside then none else w0.headRefused m
    -- a message accepted before its husk began to drain is not taken any more: it is answered in the drain (R369)
    if outside && m.vc != 0#3 && m.vc != 7#3 && (w.huskState h == hsResetting || w.huskState h == hsDisabling) then w
    else match refused with
    | some w1 => w1
    | none =>
      if m.vc = 0#3 ∨ m.vc = 7#3 then f (w0.seeModule m.srcNode.toNat m.srcEpoch.toNat)
      else f (w0.seeEpoch m.srcNode.toNat m.srcHusk.toNat m.srcEpoch.toNat)

/-- A collective message: held off while the husk's turn stands between drain and release (R390), else given to the
descriptor that its COLL_ID names, or to `none'` when there is none. -/
def collMessage (w : World) (m : Msg) (f : World → CollRun → World) (none' : World → World) : World :=
  let h := m.dstHusk.toNat
  if w.turnShut h then (w.postNack m 0x0B01).pump
  else match w.collRun (h * 2 ^ 32 + m.addr.toNat / 65536) with
    | some r => f w r
    | none => none' w

/-- A NACK: what it does to the message that it refuses, R361, R383, R390, R316 and R132. -/
def nackIn (w : World) (m : Msg) : World :=
  let seq := m.addr.toNat % 2 ^ 32
  let reason := m.reason.toNat
  let mine (x : Msg) : Bool := x.seq.toNat == seq && (x.dest == m.srcNode || reason == 0x0305)
    && (x.vc == 7#3 || x.vc == 0#3 || (x.srcHusk == m.dstHusk && x.dstHusk == m.srcHusk)) && x.kind != 0x41#8
  match w.dev.outbox.find? mine with
  | none => w
  | some x =>
    let k := x.kind.toNat
    let gone := reason == 0x0302 || reason == 0x0303 || reason == 0x0305
    if 1 ≤ k ∧ k ≤ 4 then
      (if reason = 0x0B01 then w.keepResend x else if gone then w.collRefused x reason else w)
    else if 5 ≤ k ∧ k ≤ 9 ∧ gone then w.turnLost x.srcHusk.toNat (x.addr.toNat / 65536) x.dest.toNat x.dstHusk.toNat (if k = 5 then reason else 0)
    else if k = 0x44 ∧ gone then w.upAcorn (fun a => { a with install := { a.install with downLost := true } })
    else w

end World

/-- POD_SPAN, R206. -/
def execPodSpan (m : Msg) (s : State) : Host.Outcome State Fault Refusal := s.done (fun w => w.receive m 0x0A (fun w => w.podSpan m))
/-- POD_END, R206. -/
def execPodEnd (m : Msg) (s : State) : Host.Outcome State Fault Refusal := s.done (fun w => w.receive m 0x0B (fun w => w.podEnd m))
/-- TURN_COPY, R309. -/
def execTurnCopy (m : Msg) (s : State) : Host.Outcome State Fault Refusal :=
  s.done (fun w => w.receive m 0x05 (fun w => w.turnCopyIn m.dstHusk.toNat m))
/-- TURN_ARRIVE, R312. -/
def execTurnArrive (m : Msg) (s : State) : Host.Outcome State Fault Refusal :=
  s.done (fun w => w.receive m 0x06 (fun w => w.turnMessage m.dstHusk.toNat m))
/-- TURN_DONE, R313. -/
def execTurnDone (m : Msg) (s : State) : Host.Outcome State Fault Refusal :=
  s.done (fun w => w.receive m 0x07 (fun w => w.turnMessage m.dstHusk.toNat m))
/-- TURN_ABORT, R316. -/
def execTurnAbort (m : Msg) (s : State) : Host.Outcome State Fault Refusal :=
  s.done (fun w => w.receive m 0x08 (fun w => w.turnMessage m.dstHusk.toNat m))
/-- TURN_ACK, R313. -/
def execTurnAck (m : Msg) (s : State) : Host.Outcome State Fault Refusal :=
  s.done (fun w => w.receive m 0x09 (fun w => w.turnAckIn m.dstHusk.toNat m))
/-- DATA, R389 and R390. -/
def execData (m : Msg) (s : State) : Host.Outcome State Fault Refusal :=
  s.done (fun w => w.receive m 0x01 (fun w => w.collMessage m (fun w r => w.collData r m) (fun w => (w.postNack m 0x0B01).pump)))
/-- RUNNING, R389 and R390. -/
def execRunning (m : Msg) (s : State) : Host.Outcome State Fault Refusal :=
  s.done (fun w => w.receive m 0x02 (fun w => w.collMessage m (fun w r => w.collRunning r m) (fun w => (w.postNack m 0x0B01).pump)))
/-- DECISION, R382 and R383; one that comes before its descriptor is kept (log entry 32). -/
def execDecision (m : Msg) (s : State) : Host.Outcome State Fault Refusal :=
  s.done (fun w => w.receive m 0x03 (fun w => w.collMessage m
    (fun w r => match World.rankOf r m.srcNode.toNat m.srcHusk.toNat with
      | some k => w.collGo (World.decide' r k (fld (leNat m.payload) 0 2, fld (leNat m.payload) 16 16))
      | none => w)
    (fun w => w.upColl (fun c => { c with early := m :: c.early }))))
/-- RECEIPT, R383. -/
def execReceipt (m : Msg) (s : State) : Host.Outcome State Fault Refusal :=
  s.done (fun w => w.receive m 0x04 (fun w => w.collMessage m (fun w r => w.collReceipt r m) id))
/-- EPOCH_NOTICE, R367. -/
def execEpochNotice (m : Msg) (s : State) : Host.Outcome State Fault Refusal :=
  s.done (fun w => w.receive m 0x40 (fun w => w.seeEpoch m.srcNode.toNat (fld m.addr.toNat 16 4) (m.addr.toNat % 65536)))
/-- NACK, R361. -/
def execNack (m : Msg) (s : State) : Host.Outcome State Fault Refusal := s.done (fun w => w.receive m 0x41 (fun w => w.nackIn m))
/-- LINK_STATUS, R358: the neighbour's down directions. -/
def execLinkStatus (m : Msg) (s : State) : Host.Outcome State Fault Refusal :=
  s.done (fun w => w.receive m 0x43 (fun w => (w.upFabric (fun f => { f with
    nbrDown := f.nbrDown.put m.srcNode.toNat (leNat (m.payload.take 1)) })).pump))

end Sys2Proof.Machine
end

