-- ==== Sys2Proof/Machine/Meanings.lean ====
section
/-! DEFINITION. The files that hold the meanings, gathered for exec. -/
end

