-- ==== Sys2Proof/Machine/Dispatch.lean ====
section
/-! DEFINITION. Which meaning each command has: one arm per constructor of Instr. -/
namespace Sys2Proof.Machine

/-- The effect of one command on everything but the queue. -/
def exec (i : Instr) (s : State) : Host.Outcome State Fault Refusal :=
  match i with
  | .clockNominalRootWrite p v => Sys2Proof.Machine.execClockNominalRootWrite p v s
  | .rootStep => Sys2Proof.Machine.execRootStep s
  | .timeSync dir prio node theirs ours delayNs => Sys2Proof.Machine.execTimeSync dir prio node theirs ours delayNs s
  | .timeSyncSend => Sys2Proof.Machine.execTimeSyncSend s
  | .timeHoldover => Sys2Proof.Machine.execTimeHoldover s
  | .timeStepCommand p v => Sys2Proof.Machine.execTimeStepCommand p v s
  | .memoryAccess m k addr len data => Sys2Proof.Machine.execMemoryAccess m k addr len data s
  | .gets c line others => Sys2Proof.Machine.execGets c line others s
  | .getm c line others => Sys2Proof.Machine.execGetm c line others s
  | .putm c line => Sys2Proof.Machine.execPutm c line s
  | .pute c line => Sys2Proof.Machine.execPute c line s
  | .writebackLands line => Sys2Proof.Machine.execWritebackLands line s
  | .hostSnoop line invalidate => Sys2Proof.Machine.execHostSnoop line invalidate s
  | .nextOwnerForward line => Sys2Proof.Machine.execNextOwnerForward line s
  | .queueEnable p r v => Sys2Proof.Machine.execQueueEnable p r v s
  | .queueDisable p r v => Sys2Proof.Machine.execQueueDisable p r v s
  | .cqheadWrite p r v => Sys2Proof.Machine.execCqheadWrite p r v s
  | .tailWrite p r v => Sys2Proof.Machine.execTailWrite p r v s
  | .commandComplete r => Sys2Proof.Machine.execCommandComplete r s
  | .meNop r => Sys2Proof.Machine.execMeNop r s
  | .gemm r => Sys2Proof.Machine.execGemm r s
  | .gemmBstream r => Sys2Proof.Machine.execGemmBstream r s
  | .drain r => Sys2Proof.Machine.execDrain r s
  | .clear r => Sys2Proof.Machine.execClear r s
  | .chainSetArrival peer sender m n values bad => Sys2Proof.Machine.execChainSetArrival peer sender m n values bad s
  | .gfPiecePresent r piece => Sys2Proof.Machine.execGfPiecePresent r piece s
  | .feedTimeout r => Sys2Proof.Machine.execFeedTimeout r s
  | .add r => Sys2Proof.Machine.execAdd r s
  | .sub r => Sys2Proof.Machine.execSub r s
  | .mul r => Sys2Proof.Machine.execMul r s
  | .fma r => Sys2Proof.Machine.execFma r s
  | .div r => Sys2Proof.Machine.execDiv r s
  | .sqrt r => Sys2Proof.Machine.execSqrt r s
  | .rsqrt r => Sys2Proof.Machine.execRsqrt r s
  | .max r => Sys2Proof.Machine.execMax r s
  | .min r => Sys2Proof.Machine.execMin r s
  | .scaleAdd r => Sys2Proof.Machine.execScaleAdd r s
  | .exp r => Sys2Proof.Machine.execExp r s
  | .ln r => Sys2Proof.Machine.execLn r s
  | .sigmoid r => Sys2Proof.Machine.execSigmoid r s
  | .silu r => Sys2Proof.Machine.execSilu r s
  | .rope r => Sys2Proof.Machine.execRope r s
  | .rowSum r => Sys2Proof.Machine.execRowSum r s
  | .rowSumsq r => Sys2Proof.Machine.execRowSumsq r s
  | .rowMax r => Sys2Proof.Machine.execRowMax r s
  | .rowArgmax r => Sys2Proof.Machine.execRowArgmax r s
  | .rmsnorm r => Sys2Proof.Machine.execRmsnorm r s
  | .softmax r => Sys2Proof.Machine.execSoftmax r s
  | .logsoftmax r => Sys2Proof.Machine.execLogsoftmax r s
  | .convert r => Sys2Proof.Machine.execConvert r s
  | .g8eQuant r => Sys2Proof.Machine.execG8eQuant r s
  | .transpose r => Sys2Proof.Machine.execTranspose r s
  | .gather r => Sys2Proof.Machine.execGather r s
  | .scatterAdd r => Sys2Proof.Machine.execScatterAdd r s
  | .rngUniform r => Sys2Proof.Machine.execRngUniform r s
  | .rngNormal r => Sys2Proof.Machine.execRngNormal r s
  | .rngBernoulli r => Sys2Proof.Machine.execRngBernoulli r s
  | .dropout r => Sys2Proof.Machine.execDropout r s
  | .xqPush pip rd rs1 rs2 => Sys2Proof.Machine.execXqPush pip rd rs1 rs2 s
  | .xqPoll pip rd rs1 => Sys2Proof.Machine.execXqPoll pip rd rs1 s
  | .xqWait pip rd rs1 rs2 => Sys2Proof.Machine.execXqWait pip rd rs1 rs2 s
  | .xbInit pip rd rs1 rs2 => Sys2Proof.Machine.execXbInit pip rd rs1 rs2 s
  | .xbArrive pip rd rs1 => Sys2Proof.Machine.execXbArrive pip rd rs1 s
  | .xbWait pip rd rs1 rs2 => Sys2Proof.Machine.execXbWait pip rd rs1 rs2 s
  | .xeAdd pip rd rs1 rs2 => Sys2Proof.Machine.execXeAdd pip rd rs1 rs2 s
  | .xeWait pip rd rs1 rs2 => Sys2Proof.Machine.execXeWait pip rd rs1 rs2 s
  | .xpPoint pip rs1 rs2 => Sys2Proof.Machine.execXpPoint pip rs1 rs2 s
  | .waitWake pip => Sys2Proof.Machine.execWaitWake pip s
  | .xqWaitTimeout pip => Sys2Proof.Machine.execXqWaitTimeout pip s
  | .nmuNop sl => Sys2Proof.Machine.execNmuNop sl s
  | .nmuFwd sl => Sys2Proof.Machine.execNmuFwd sl s
  | .nmuTrn sl => Sys2Proof.Machine.execNmuTrn sl s
  | .nmuBoth sl => Sys2Proof.Machine.execNmuBoth sl s
  | .huskOverlayCommit p h v => Sys2Proof.Machine.execHuskOverlayCommit p h v s
  | .overlayTableEffect h => Sys2Proof.Machine.execOverlayTableEffect h s
  | .acornRepairCommit p v => Sys2Proof.Machine.execAcornRepairCommit p v s
  | .repairTableEffect => Sys2Proof.Machine.execRepairTableEffect s
  | .scrubRead slot => Sys2Proof.Machine.execScrubRead slot s
  | .acornRefreshStart p v => Sys2Proof.Machine.execAcornRefreshStart p v s
  | .acornRefreshCancel p v => Sys2Proof.Machine.execAcornRefreshCancel p v s
  | .huskActiveImageWrite p h v => Sys2Proof.Machine.execHuskActiveImageWrite p h v s
  | .slotReturnResident slot => Sys2Proof.Machine.execSlotReturnResident slot s
  | .acornImageRelease p v => Sys2Proof.Machine.execAcornImageRelease p v s
  | .acornInstallStart p v => Sys2Proof.Machine.execAcornInstallStart p v s
  | .installManifestVerified manifest signature => Sys2Proof.Machine.execInstallManifestVerified manifest signature s
  | .installChunk chunk data => Sys2Proof.Machine.execInstallChunk chunk data s
  | .writePulseEnd a verified => Sys2Proof.Machine.execWritePulseEnd a verified s
  | .acornInstallCancel p v => Sys2Proof.Machine.execAcornInstallCancel p v s
  | .installUpstreamTimeout => Sys2Proof.Machine.execInstallUpstreamTimeout s
  | .tier3ReadCompletion port id o => Sys2Proof.Machine.execTier3ReadCompletion port id o s
  | .tier3CompletionTimeout port id => Sys2Proof.Machine.execTier3CompletionTimeout port id s
  | .tier3WriteAck port id acked => Sys2Proof.Machine.execTier3WriteAck port id acked s
  | .copy sl e => Sys2Proof.Machine.execCopy sl e s
  | .shardFetch sl e => Sys2Proof.Machine.execShardFetch sl e s
  | .shardPoll sl e => Sys2Proof.Machine.execShardPoll sl e s
  | .shardPublish sl e => Sys2Proof.Machine.execShardPublish sl e s
  | .poolEnsure sl e => Sys2Proof.Machine.execPoolEnsure sl e s
  | .poolPin sl e => Sys2Proof.Machine.execPoolPin sl e s
  | .stepEnd sl e => Sys2Proof.Machine.execStepEnd sl e s
  | .scheduleRun sl => Sys2Proof.Machine.execScheduleRun sl s
  | .scheduleEntryIssue sl => Sys2Proof.Machine.execScheduleEntryIssue sl s
  | .prefetchEntryComplete sl e => Sys2Proof.Machine.execPrefetchEntryComplete sl e s
  | .prefetchTimeout sl e => Sys2Proof.Machine.execPrefetchTimeout sl e s
  | .poolWaitServed h => Sys2Proof.Machine.execPoolWaitServed h s
  | .huskPoolFlush p h v => Sys2Proof.Machine.execHuskPoolFlush p h v s
  | .attnNop sl => Sys2Proof.Machine.execAttnNop sl s
  | .attnFwd sl => Sys2Proof.Machine.execAttnFwd sl s
  | .attnBwd sl => Sys2Proof.Machine.execAttnBwd sl s
  | .ringShardPresent sl => Sys2Proof.Machine.execRingShardPresent sl s
  | .attnRingTimeout sl => Sys2Proof.Machine.execAttnRingTimeout sl s
  | .podAlloc sl => Sys2Proof.Machine.execPodAlloc sl s
  | .podShare sl => Sys2Proof.Machine.execPodShare sl s
  | .podRelease sl => Sys2Proof.Machine.execPodRelease sl s
  | .podAppend sl => Sys2Proof.Machine.execPodAppend sl s
  | .podCommit sl => Sys2Proof.Machine.execPodCommit sl s
  | .podRetract sl => Sys2Proof.Machine.execPodRetract sl s
  | .podSwapOut sl => Sys2Proof.Machine.execPodSwapOut sl s
  | .podSwapIn sl => Sys2Proof.Machine.execPodSwapIn sl s
  | .podForward sl => Sys2Proof.Machine.execPodForward sl s
  | .podAllocGrant => Sys2Proof.Machine.execPodAllocGrant s
  | .podRetireFree pod => Sys2Proof.Machine.execPodRetireFree pod s
  | .podSpan m => Sys2Proof.Machine.execPodSpan m s
  | .podEnd m => Sys2Proof.Machine.execPodEnd m s
  | .swapWriteAck id => Sys2Proof.Machine.execSwapWriteAck id s
  | .swapWriteFailed id => Sys2Proof.Machine.execSwapWriteFailed id s
  | .swapInReadDone id o => Sys2Proof.Machine.execSwapInReadDone id o s
  | .samplerNop sl => Sys2Proof.Machine.execSamplerNop sl s
  | .sample sl => Sys2Proof.Machine.execSample sl s
  | .seqAdmit sl => Sys2Proof.Machine.execSeqAdmit sl s
  | .seqPlan sl => Sys2Proof.Machine.execSeqPlan sl s
  | .seqCommit sl => Sys2Proof.Machine.execSeqCommit sl s
  | .seqFinish sl => Sys2Proof.Machine.execSeqFinish sl s
  | .seqPause sl => Sys2Proof.Machine.execSeqPause sl s
  | .seqResume sl => Sys2Proof.Machine.execSeqResume sl s
  | .seqRelease sl => Sys2Proof.Machine.execSeqRelease sl s
  | .tenantSet sl => Sys2Proof.Machine.execTenantSet sl s
  | .seqHoldExpiry h seq => Sys2Proof.Machine.execSeqHoldExpiry h seq s
  | .tenantWindowBoundary => Sys2Proof.Machine.execTenantWindowBoundary s
  | .tenantWindowWrite p v => Sys2Proof.Machine.execTenantWindowWrite p v s
  | .seqCancel p h v => Sys2Proof.Machine.execSeqCancel p h v s
  | .seqCancelGroup p h v => Sys2Proof.Machine.execSeqCancelGroup p h v s
  | .seqCancelEffect h => Sys2Proof.Machine.execSeqCancelEffect h s
  | .huskReplaceStart p h v => Sys2Proof.Machine.execHuskReplaceStart p h v s
  | .replaceDrained h => Sys2Proof.Machine.execReplaceDrained h s
  | .huskReplaceLayerDone p h v => Sys2Proof.Machine.execHuskReplaceLayerDone p h v s
  | .ckptTableWrite p h v => Sys2Proof.Machine.execCkptTableWrite p h v s
  | .reductionDeadline e h collId => Sys2Proof.Machine.execReductionDeadline e h collId s
  | .contribFold e h collId => Sys2Proof.Machine.execContribFold e h collId s
  | .updateNop sl => Sys2Proof.Machine.execUpdateNop sl s
  | .update sl => Sys2Proof.Machine.execUpdate sl s
  | .updateGradReady sl => Sys2Proof.Machine.execUpdateGradReady sl s
  | .updateGradTimeout sl => Sys2Proof.Machine.execUpdateGradTimeout sl s
  | .paramCommit sl => Sys2Proof.Machine.execParamCommit sl s
  | .huskTurnStart p h v => Sys2Proof.Machine.execHuskTurnStart p h v s
  | .turnValidated h => Sys2Proof.Machine.execTurnValidated h s
  | .turnDrainEnd h => Sys2Proof.Machine.execTurnDrainEnd h s
  | .turnDrainTimeout h => Sys2Proof.Machine.execTurnDrainTimeout h s
  | .turnArrive m => Sys2Proof.Machine.execTurnArrive m s
  | .turnBarrierTimeout h => Sys2Proof.Machine.execTurnBarrierTimeout h s
  | .turnCopy m => Sys2Proof.Machine.execTurnCopy m s
  | .turnAck m => Sys2Proof.Machine.execTurnAck m s
  | .turnDone m => Sys2Proof.Machine.execTurnDone m s
  | .turnAbort m => Sys2Proof.Machine.execTurnAbort m s
  | .turnCommitTimeout h => Sys2Proof.Machine.execTurnCommitTimeout h s
  | .turnSwitchDone h => Sys2Proof.Machine.execTurnSwitchDone h s
  | .huskTurnCancel p h v => Sys2Proof.Machine.execHuskTurnCancel p h v s
  | .turnResolveCommit p h => Sys2Proof.Machine.execTurnResolveCommit p h s
  | .turnResolveAbort p h => Sys2Proof.Machine.execTurnResolveAbort p h s
  | .huskEnable p h => Sys2Proof.Machine.execHuskEnable p h s
  | .huskEnableDone h => Sys2Proof.Machine.execHuskEnableDone h s
  | .huskDisable p h => Sys2Proof.Machine.execHuskDisable p h s
  | .hbmFrameOwnerWrite p req data => Sys2Proof.Machine.execHbmFrameOwnerWrite p req data s
  | .cycleCommit p v => Sys2Proof.Machine.execCycleCommit p v s
  | .cycleTableEffect => Sys2Proof.Machine.execCycleTableEffect s
  | .cycleEnableWrite p v => Sys2Proof.Machine.execCycleEnableWrite p v s
  | .cycleSlotRequest => Sys2Proof.Machine.execCycleSlotRequest s
  | .preemptSaveDone sl => Sys2Proof.Machine.execPreemptSaveDone sl s
  | .restoreDone sl => Sys2Proof.Machine.execRestoreDone sl s
  | .slotRelease sl => Sys2Proof.Machine.execSlotRelease sl s
  | .preemptForcedStop sl => Sys2Proof.Machine.execPreemptForcedStop sl s
  | .fillerTake sl unit => Sys2Proof.Machine.execFillerTake sl unit s
  | .fillerEvict sl unit => Sys2Proof.Machine.execFillerEvict sl unit s
  | .linkFrameReceive k f => Sys2Proof.Machine.execLinkFrameReceive k f s
  | .retryReq k seq => Sys2Proof.Machine.execRetryReq k seq s
  | .goingDown k => Sys2Proof.Machine.execGoingDown k s
  | .linkRetryExhausted k => Sys2Proof.Machine.execLinkRetryExhausted k s
  | .lossOfSignal k => Sys2Proof.Machine.execLossOfSignal k s
  | .linkCreditTimeout k => Sys2Proof.Machine.execLinkCreditTimeout k s
  | .cableInserted dir c => Sys2Proof.Machine.execCableInserted dir c s
  | .linkUp k farNode farDims => Sys2Proof.Machine.execLinkUp k farNode farDims s
  | .portSupplyOverload dir => Sys2Proof.Machine.execPortSupplyOverload dir s
  | .linkStatus m => Sys2Proof.Machine.execLinkStatus m s
  | .linkStatusSend => Sys2Proof.Machine.execLinkStatusSend s
  | .epochNotice m => Sys2Proof.Machine.execEpochNotice m s
  | .nack m => Sys2Proof.Machine.execNack m s
  | .msgContTimeout id => Sys2Proof.Machine.execMsgContTimeout id s
  | .fabricDirPowerReq p dir v => Sys2Proof.Machine.execFabricDirPowerReq p dir v s
  | .dirPowerTransitionDone dir => Sys2Proof.Machine.execDirPowerTransitionDone dir s
  | .portDrainEnd => Sys2Proof.Machine.execPortDrainEnd s
  | .allReduce e h => Sys2Proof.Machine.execAllReduce e h s
  | .reduceScatter e h => Sys2Proof.Machine.execReduceScatter e h s
  | .allGather e h => Sys2Proof.Machine.execAllGather e h s
  | .allToAll e h => Sys2Proof.Machine.execAllToAll e h s
  | .broadcast e h => Sys2Proof.Machine.execBroadcast e h s
  | .reduce e h => Sys2Proof.Machine.execReduce e h s
  | .chainBcast e h => Sys2Proof.Machine.execChainBcast e h s
  | .send e h => Sys2Proof.Machine.execSend e h s
  | .recv e h => Sys2Proof.Machine.execRecv e h s
  | .chainLink e h => Sys2Proof.Machine.execChainLink e h s
  | .collSourceReady e h collId => Sys2Proof.Machine.execCollSourceReady e h collId s
  | .data m => Sys2Proof.Machine.execData m s
  | .running m => Sys2Proof.Machine.execRunning m s
  | .decision m => Sys2Proof.Machine.execDecision m s
  | .receipt m => Sys2Proof.Machine.execReceipt m s
  | .ringSlotFree e h collId => Sys2Proof.Machine.execRingSlotFree e h collId s
  | .collNotPostedResend e id => Sys2Proof.Machine.execCollNotPostedResend e id s
  | .collTimeout e h collId => Sys2Proof.Machine.execCollTimeout e h collId s
  | .ledgerCheck => Sys2Proof.Machine.execLedgerCheck s
  | .energyWindowEnd microjoules => Sys2Proof.Machine.execEnergyWindowEnd microjoules s
  | .ledgerSnapshot p v => Sys2Proof.Machine.execLedgerSnapshot p v s
  | .ledgerSnapshotTaken => Sys2Proof.Machine.execLedgerSnapshotTaken s
  | .ledgerFirstBrokenClear p v => Sys2Proof.Machine.execLedgerFirstBrokenClear p v s
  | .odRead p req => Sys2Proof.Machine.execOdRead p req s
  | .odWrite p req v data origin saved => Sys2Proof.Machine.execOdWrite p req v data origin saved s
  | .odInfo p req => Sys2Proof.Machine.execOdInfo p req s
  | .configRestoreDefaults p v => Sys2Proof.Machine.execConfigRestoreDefaults p v s
  | .hdmWrite port offset data => Sys2Proof.Machine.execHdmWrite port offset data s
  | .perstAssert port => Sys2Proof.Machine.execPerstAssert port s
  | .perstRelease port => Sys2Proof.Machine.execPerstRelease port s
  | .mctpControl binding setEid => Sys2Proof.Machine.execMctpControl binding setEid s
  | .mctpVendorRequest binding header data => Sys2Proof.Machine.execMctpVendorRequest binding header data s
  | .pldmRequest binding type command item => Sys2Proof.Machine.execPldmRequest binding type command item s
  | .i3cEntdaa address => Sys2Proof.Machine.execI3cEntdaa address s
  | .i3cSetdasa static dynamic => Sys2Proof.Machine.execI3cSetdasa static dynamic s
  | .bypass => Sys2Proof.Machine.execBypass s
  | .idcode => Sys2Proof.Machine.execIdcode s
  | .samplePreload contacts preload => Sys2Proof.Machine.execSamplePreload contacts preload s
  | .extest => Sys2Proof.Machine.execExtest s
  | .firmwareStart p v => Sys2Proof.Machine.execFirmwareStart p v s
  | .firmwareManifestVerified => Sys2Proof.Machine.execFirmwareManifestVerified s
  | .firmwareWriteDone programmed => Sys2Proof.Machine.execFirmwareWriteDone programmed s
  | .firmwareReadbackDone => Sys2Proof.Machine.execFirmwareReadbackDone s
  | .firmwareCancel p v => Sys2Proof.Machine.execFirmwareCancel p v s
  | .firmwareActivate p v => Sys2Proof.Machine.execFirmwareActivate p v s
  | .firmwareBootResult good => Sys2Proof.Machine.execFirmwareBootResult good s
  | .firmwareKeyRevoke p v => Sys2Proof.Machine.execFirmwareKeyRevoke p v s
  | .faultEvent f => Sys2Proof.Machine.execFaultEvent f s
  | .faultConditionEnd source => Sys2Proof.Machine.execFaultConditionEnd source s
  | .faultAck p v => Sys2Proof.Machine.execFaultAck p v s
  | .escalationExpiry h => Sys2Proof.Machine.execEscalationExpiry h s
  | .hangMonitor m => Sys2Proof.Machine.execHangMonitor m s
  | .reinitDone m ok => Sys2Proof.Machine.execReinitDone m ok s
  | .faultRecoverUnit p v => Sys2Proof.Machine.execFaultRecoverUnit p v s
  | .recoveryStepOverrun source => Sys2Proof.Machine.execRecoveryStepOverrun source s
  | .faultQuietEnd source => Sys2Proof.Machine.execFaultQuietEnd source s
  | .faultInject p v => Sys2Proof.Machine.execFaultInject p v s
  | .faultUnfence p v => Sys2Proof.Machine.execFaultUnfence p v s
  | .resetNAssert => Sys2Proof.Machine.execResetNAssert s
  | .resetNRelease => Sys2Proof.Machine.execResetNRelease s
  | .resetCommandHusk p v => Sys2Proof.Machine.execResetCommandHusk p v s
  | .resetCommandWarm p v => Sys2Proof.Machine.execResetCommandWarm p v s
  | .resetCommandCold p v => Sys2Proof.Machine.execResetCommandCold p v s
  | .huskResetDone h => Sys2Proof.Machine.execHuskResetDone h s
  | .warmResetDone => Sys2Proof.Machine.execWarmResetDone s
  | .coldResetDone => Sys2Proof.Machine.execColdResetDone s
  | .powerCommandDown p => Sys2Proof.Machine.execPowerCommandDown p s
  | .powerCommandCycle p => Sys2Proof.Machine.execPowerCommandCycle p s
  | .controllerWatchdog => Sys2Proof.Machine.execControllerWatchdog s
  | .railPowerGood r => Sys2Proof.Machine.execRailPowerGood r s
  | .railDischarged r => Sys2Proof.Machine.execRailDischarged r s
  | .railWindowExpiry r => Sys2Proof.Machine.execRailWindowExpiry r s
  | .railFault r => Sys2Proof.Machine.execRailFault r s
  | .powerOffHoldExpiry => Sys2Proof.Machine.execPowerOffHoldExpiry s
  | .pwrfailAssert => Sys2Proof.Machine.execPwrfailAssert s
  | .pwrfailRelease => Sys2Proof.Machine.execPwrfailRelease s
  | .pwrfailCommit => Sys2Proof.Machine.execPwrfailCommit s
  | .pwrfailPowerDown => Sys2Proof.Machine.execPwrfailPowerDown s
  | .inputApplied ga => Sys2Proof.Machine.execInputApplied ga s
  | .domainPowerMaskWrite p v => Sys2Proof.Machine.execDomainPowerMaskWrite p v s
  | .capperStep watts => Sys2Proof.Machine.execCapperStep watts s
  | .powerExcursion watts => Sys2Proof.Machine.execPowerExcursion watts s
  | .droopDetect sl => Sys2Proof.Machine.execDroopDetect sl s
  | .droopRecover sl cycles => Sys2Proof.Machine.execDroopRecover sl cycles s
  | .thermalSample readings => Sys2Proof.Machine.execThermalSample readings s
  | .thermalThrottleStep => Sys2Proof.Machine.execThermalThrottleStep s
  | .thermalRecoveryStep => Sys2Proof.Machine.execThermalRecoveryStep s
  | .thermalTrip point => Sys2Proof.Machine.execThermalTrip point s
  | .thermalTripHoldExpiry => Sys2Proof.Machine.execThermalTripHoldExpiry s
  | .huskPhaseSet p h v => Sys2Proof.Machine.execHuskPhaseSet p h v s
  | .huskOpPointWrite p h point v => Sys2Proof.Machine.execHuskOpPointWrite p h point v s
  | .powerSustainedLimitWrite p v => Sys2Proof.Machine.execPowerSustainedLimitWrite p v s
  | .translationInvalidation h => Sys2Proof.Machine.execTranslationInvalidation h s
  | .illegalInstruction pip insn => Sys2Proof.Machine.execIllegalInstruction pip insn s
  | .hostLinkUp port rate width => Sys2Proof.Machine.execHostLinkUp port rate width s
  | .hostLinkDown port => Sys2Proof.Machine.execHostLinkDown port s
  | .controllerRestartDone => Sys2Proof.Machine.execControllerRestartDone s
  | .vaonStoreExpiry => Sys2Proof.Machine.execVaonStoreExpiry s

end Sys2Proof.Machine
end

