-- ==== Sys2Proof/Machine/Tick.lean ====
section
/-! DEFINITION. What passes at a tick boundary with no command waiting (log entry 4). -/
namespace Sys2Proof.Machine

namespace World

/-- The timestamp counts, R26; while an offset is slewed off, one tick in 1,000 counts twice or not at all (R29). -/
def countTick (w : World) : World :=
  let t := w.dev.time
  let due := decide (999 ≤ t.slewAge) && t.slew != 0
  let step := if due then (if 0 < t.slew then 2 else 0) else 1
  w.upTime (fun x => { x with
    tick := (x.tick + step) % 2 ^ 64,
    slewAge := if due then 0 else x.slewAge + 1,
    slew := if due then (if 0 < x.slew then x.slew - 1 else x.slew + 1) else x.slew })

/-- An accepted root target takes effect at the next multiple of 200, R22. -/
def stepTick (w : World) : World := w.nominalStep

/-- What a write made due takes effect (R425, R325, R257). -/
def dueAct (w : World) : DueAct → World
  | .cancelInstall p => w.installCancel.2.odFinish p w.installCancel.1 0 [] false
  | .cancelRefresh p => w.refreshCancel.2.odFinish p w.refreshCancel.1 0 [] false
  | .cancelTurn p h => (w.turnCancel h).2.odFinish p (w.turnCancel h).1 0 [] false
  | .cancelFirmware p => w.fwCancel.2.odFinish p w.fwCancel.1 0 [] false
  | .faultAck p v => (w.faultAckNow v).2.odFinish p (w.faultAckNow v).1 0 [] false
  | .setObject key v => w.wr ⟨key, 0⟩ v
  | .deadline e h id => w.deadlineNow e h id
  | .turnDrain h id => w.turnDrainBegins h id
  | .turnMessages h => w.turnMessages h
  | .turnCommit h forced => w.turnCommitNow h forced
  | .turnLimit h stage => w.turnLimitNow h stage
  | .forcedStop s => w.forcedStopNow s
  | .replaceStart h v n => w.replaceHold h v n

/-- Is it due at the end of its own tick, and in which order (R274, R318)? -/
def endsTick : DueAct → Option Nat
  | .deadline _ _ _ => some 0
  | .turnMessages _ => some 0
  | .turnCommit _ _ => some 1
  | .turnLimit _ _ => some 2
  | .forcedStop _ => some 2
  | .faultAck _ _ => some 2
  | _ => none

/-- What is due at the end of the tick, in its order: deadlines and turn messages, commits, time limits. -/
def endTick (w : World) : World :=
  w.each [0, 1, 2] (fun w n =>
    let now := w.dev.due.filter (fun a => endsTick a == some n)
    ({ w with dev := { w.dev with due := w.dev.due.filter (fun a => endsTick a != some n) } }).each now World.dueAct)

/-- All that is due at this tick, in the order in which it was written. -/
def runDue (w : World) : World := ({ w with dev := { w.dev with due := [] } }).each w.dev.due World.dueAct

/-- A tick boundary: what is due takes effect; the timestamp counts; held resets are taken (R470); slots end (R336); overdue entries, waiting
pipelines and delayed sequences are counted (R155, R184, R242); the trip counters and the root follow (R499, R22). -/
def tick (w : World) : World :=
  if w.railState 0 = 0 then w
  else
    let w0 := if w.countTick.now = w.now then w.countTick else w.endTick.countTick
    let w1 := (if w0.now = w.now then w0 else w0.runDue).takeHeld.slotAdvance
    let w2 := w1.each allSlices (fun w s => (w.stallTick s).shardWaitTick (Fin.ofNat 16 s))
    let w3 := w2.each allHusks (fun w h => w.delayTick h)
    let w4 := w3.each (List.range 24) (fun w k => w.takeLocal k)
    w4.imagesSettle.tripTick.stepTick

end World

/-- A step with no command waiting. -/
def idleTick (s : State) : State := s.run World.tick

end Sys2Proof.Machine
end

