-- ==== Sys2Proof/Safety.lean ====
section
/-! DEFINITION. The terms in which claims about the block are made: what a command's completion is, what a run is, what a
reader of the state sees, and the invariants of the addressed bytes. -/
namespace Sys2Proof.Machine

/-- The value of a scalar object of the dictionary. -/
def State.val (s : State) (k : OKey) : Nat := s.world.rd k

/-- The byte at a physical address. -/
def State.byteAt (s : State) (a : Nat) : Byte := s.store.mem.get a

/-- Is the 32-byte granule of an address poisoned? -/
def State.badAt (s : State) (a : Nat) : Bool := s.store.poison.elem (a / 32)

/-- The reason with which the last request of a path ended, R414, R434 and R436. -/
def State.reply (s : State) (p : Path) : Reason :=
  match p with
  | .fieldNet => (s.dev.replies.getD 128 ⟨0, 0, []⟩).reason
  | .mctp => (s.dev.replies.getD 129 ⟨0, 0, []⟩).reason
  | .pf _ => (s.world.window (pathFn p)).reason
  | .vf _ _ => (s.world.window (pathFn p)).reason

/-- The command completes with an effect of which `Q` tells, and leaves the queue alone. -/
def Completes (c : Instr) (s : State) (Q : State → Prop) : Prop :=
  ∃ t, exec c s = .next t ∧ t.pending = s.pending ∧ Q t

/-- The command answers the next state whose effect is `f`, which the operations of the spec's rules name. -/
def Performs (c : Instr) (s : State) (f : World → World) : Prop := exec c s = .next (s.run f)

/-- The command's request is carried out later, in the next tick or at the end of its own (R425, R453): its window stays BUSY, and what it
does is due. -/
def Deferred (c : Instr) (s : State) (p : Path) (a : DueAct) : Prop :=
  Completes c s (fun t => t.dev.due = s.dev.due ++ [a] ∧ (pathFn p < 128 → (t.world.window (pathFn p)).busy = true)
    ∧ t.dev.od = s.dev.od ∧ (∀ x, t.byteAt x = s.byteAt x) ∧ (∀ x, t.badAt x = s.badAt x))

/-- Every addressed byte, with its poison and its key tag, reads as before. -/
def SameMemory (s t : State) : Prop :=
  (∀ a, t.byteAt a = s.byteAt a) ∧ (∀ a, t.badAt a = s.badAt a) ∧ t.store.tags = s.store.tags

/-- Every object other than those listed reads as before. -/
def SameObjectsBut (ks : List OKey) (s t : State) : Prop :=
  ∀ k : OKey, k.key ∉ ks.map OKey.key → t.val k = s.val k

/-- Numbers that rise strictly from `lo` on. -/
def risingFrom (lo : Nat) : List Nat → Bool
  | [] => true
  | x :: t => decide (lo ≤ x) && risingFrom (x + 1) t

/-- The canonical form of the addressed bytes, their poison and their key tags: cells, granules and tags rise strictly, no
cell holds what an unlisted address reads as, and no tag is the plain one. -/
def Store.wf (s : Store) : Prop :=
  s.mem.wf = true ∧ risingFrom 0 s.poison = true ∧ risingFrom 0 (s.tags.items.map (fun p => p.1)) = true
    ∧ ∀ p ∈ s.tags.items, p.2 ≠ 0

/-- A path's request executes when it comes, and its end is answered: its window is not BUSY and the controller is not restarting
(R414, R474); a module whose GA[3] is 1 answers nothing over the field network (R433). -/
def odOpen (w : World) (p : Path) : Bool :=
  !(decide (pathFn p < 128) && (w.window (pathFn p)).busy) && !w.dev.resets.seqs.has 19
    && (match p with
      | .fieldNet => w.rd oFieldNetState != 2
      | _ => true)

/-- A write of a scalar object is carried out: its window is not BUSY and the controller is not restarting (R414, R474), the
path may write the object now, the value fits the object's type and range (R408, R409, R411, R412), and the reply can be sent (R433). -/
def odTakes (w : World) (p : Path) (index sub : Nat) (v : Word) : Bool :=
  odOpen w p
    && (match odLookup index sub with
      | none => false
      | some r => (w.odWriteRefusal p index sub r).isNone && !odIsBlob r.ty && odFits r.ty v && odInRange r v.toNat)

/-- The world in which a write that is carried out has its effect: the window holds the request. -/
def odAsked (w : World) (p : Path) (index sub : Nat) (v : Word) : World :=
  w.odGate ⟨1, p, ⟨BitVec.ofNat 16 index, BitVec.ofNat 8 sub, 0, 0⟩, v, [], none, true⟩ id

/-- The world in which such a request executes: its window holds it (R414). -/
def odServed (w : World) (x : OdHeld) : World := w.odGate x id

/-- Is an object saved when it is written (RWS, R408)? -/
def odSaved (index sub : Nat) : Bool :=
  match odLookup index sub with
  | none => false
  | some r => r.acc == .rws

/-- A message of a kind is for this module and is not refused, R368: its port has accepted it already and its husk has not begun to drain
since (R369), or the checks accept it now. -/
def msgTaken (w : World) (m : Msg) (kind : Nat) : Bool :=
  m.dest.toNat == w.self && m.kind.toNat == kind
    && !(w.dev.fabric.inbox.any (World.sameHead m) && m.srcNode.toNat != w.self && m.vc != 0#3 && m.vc != 7#3
      && (w.huskState m.dstHusk.toNat == hsResetting || w.huskState m.dstHusk.toNat == hsDisabling))
    && ((w.dev.fabric.inbox.any (World.sameHead m) && m.srcNode.toNat != w.self)
      || ((w.upFabric (fun x => { x with inbox := x.inbox.filter (fun y => !World.sameHead m y) })).headRefused m).isNone)

/-- The world in which a message has its effect: it has left the inbox, and its source's epoch has been seen (R367). -/
def msgSeen (w : World) (m : Msg) : World := w.receive m m.kind.toNat id

/-- A collective message reaches the descriptor that its COLL_ID names, R390. -/
def collNamed (w : World) (m : Msg) (r : CollRun) : Prop :=
  w.turnShut m.dstHusk.toNat = false ∧ w.collRun (m.dstHusk.toNat * 2 ^ 32 + m.addr.toNat / 65536) = some r

/-- The vector command at a ring's head may be taken, is the one `want` accepts, and passes every check (R75, R89). -/
def veReady (w : World) (r : RingRef) (want : Nat → Bool) (sh : Nat → VShape) (imm : Nat → Bool) (cmd : Nat) (w1 : World) : Prop :=
  isVectorRing r = true ∧ w.takeEntry r want = some (cmd, w1) ∧ World.veFieldFail cmd (sh cmd) (imm cmd) = none
    ∧ w1.veAddrOk (w1.ctx r) cmd (sh cmd) = true

/-- What a vector command that passes its checks does: the rows of z that `f` makes of its operands are written, and the
command finishes with the poison it met (R77, R79, R88). -/
def veResult (w1 : World) (r : RingRef) (cmd : Nat) (sh : VShape) (f : World → VIn → ZRows) : World :=
  let c := w1.ctx r
  let (i, w2) := w1.veRead c cmd sh
  let z := f w2 i
  let (st, rs) := poisonOutcome (z.any (fun q => q.2.any id)) (rowsOrigins i.x ++ rowsOrigins i.y ++ rowsOrigins i.z)
  (w2.veWrite c cmd sh z).finished c cmd st rs

/-- Precedence of an event among those of one tick (R33), and the key that orders those of one precedence (R34): rail faults by stage,
trips by sensor, resets by descending scope and then by husk with PORT resets after them (R469), events of a master by its identifier;
none: the table does not name it. -/
def eventRank : Instr → Option (Nat × Nat)
  | .pwrfailAssert => some (1, 0)
  | .railFault r => some (1, r.val)
  | .thermalTrip k => some (2, 2 * k.val)
  | .powerCommandDown _ => some (3, 0)
  | .powerCommandCycle _ => some (3, 0)
  | .resetNAssert => some (3, 1)
  | .resetCommandCold _ _ => some (3, 1)
  | .firmwareActivate _ _ => some (3, 1)
  | .resetCommandWarm _ _ => some (3, 2)
  | .resetCommandHusk _ v => some (3, 16 + fld v.toNat 4 4)
  | .huskDisable _ h => some (3, 16 + h.val)
  | .perstAssert p => some (3, 64 + p.val)
  | .controllerWatchdog => some (3, 66)
  | .faultEvent f => some (faultPrecedence f, f.master.toNat)
  | .hangMonitor m => some (5, m.toNat)
  | .escalationExpiry h => some (6, h.val)
  | .cycleSlotRequest => some (8, 0)
  | .tailWrite p _ _ => some (9, pathMaster p)
  | .energyWindowEnd _ => some (10, 0)
  | .capperStep _ => some (10, 0)
  | .thermalSample _ => some (10, 0)
  | _ => none

/-- The master whose write of a slot object R127 orders within a tick. -/
def imageWriter : Instr → Option Nat
  | .acornImageRelease p _ => some (pathMaster p)
  | .huskActiveImageWrite p _ _ => some (pathMaster p)
  | .acornInstallStart p _ => some (pathMaster p)
  | _ => none

/-- May `b` be taken after `a` within one tick, R33, R34 and R127? -/
def mayFollow (a b : Instr) : Bool :=
  (match eventRank a, eventRank b with
    | some x, some y => decide (x.1 < y.1) || (x.1 == y.1 && decide (x.2 ≤ y.2))
    | _, _ => true)
    && (match imageWriter a, imageWriter b with
      | some m, some n => decide (m ≤ n)
      | _, _ => true)

/-- The commands of one tick stand in the order in which the device takes them: the sender's side of R33, R34 and R127, since a step takes
the command at the queue's front (log entry 4). -/
def TickOrdered (l : List Instr) : Prop := l.Pairwise (fun a b => mayFollow a b = true)

/-- A run of `n` steps that never stops. -/
def SafeRun (s : State) (n : Nat) : Prop := ∃ t, Sys2Proof.core.run n s = .next t

end Sys2Proof.Machine
end

