-- ==== Sys2Proof/Certificates/Slice0/Obligations.lean ====
section
/-! DEFINITION. The statements for the provers. Each says what commands do, for every state and operands that meet its
hypotheses; a command that has its own effect is said to complete (`Completes`), and what is left unchanged is said. -/

open Sys2Proof Sys2Proof.Machine

/-! ### The machine as a whole -/

/-- O1. A step takes the command at the front of the queue and runs it on the state with the queue's rest. -/
def Obligations.StepRunsTheFrontCommand : Prop :=
  ∀ (s : State) (c : Instr) (rest : List Instr),
    step { s with pending := c :: rest } = exec c { s with pending := rest }

/-- O2. With no command waiting a step is a tick boundary (the model's choice, log entry 4): it answers a next state and no
command appears; nothing happens while rail 0 is off; otherwise what is due at the tick's end takes effect, the timestamp counts (by one
modulo 2^64 when nothing is being slewed), and then comes what is due at the new tick, in the order given. -/
def Obligations.IdleStepIsATick : Prop :=
  (∀ s : State, s.pending = [] →
    ∃ t, step s = .next t ∧ t.pending = [] ∧ (s.val (oRailState 0) = 0 → t = s)
      ∧ (s.val (oRailState 0) ≠ 0 → t = s.run (fun w =>
          let w0 := if w.countTick.now = w.now then w.countTick else w.endTick.countTick
          let w1 := (if w0.now = w.now then w0 else w0.runDue).takeHeld.slotAdvance
          let w2 := w1.each allSlices (fun w i => (w.stallTick i).shardWaitTick (Fin.ofNat 16 i))
          let w3 := (w2.each allHusks (fun w h => w.delayTick h)).each (List.range 24) (fun w k => w.takeLocal k)
          w3.imagesSettle.tripTick.stepTick)))
  ∧ ∀ w : World, w.dev.time.slew = 0 → w.countTick.now = (w.now + 1) % 2 ^ 64

/-- O3. The machine right after reset: no command waits, no byte is listed and the stores are canonical, the module is ON
with every rail GOOD and no stage of the power sequence pending, no ring is enabled, no reset runs, no request is held, nothing is due, and
every husk is DISABLED. -/
def Obligations.ResetState : Prop :=
  State.reset.pending = [] ∧ Store.wf State.reset.store ∧ (∀ a, State.reset.byteAt a = unlistedByte)
    ∧ State.reset.val oPowerState = 2 ∧ (∀ r : Fin 15, State.reset.val (oRailState r.val) = 2)
    ∧ State.reset.val oPowerStage = 0xFF ∧ (∀ r, (State.reset.world.ring r).enable = false)
    ∧ (∀ h : Fin 16, State.reset.world.huskState h.val = hsDisabled) ∧ State.reset.dev.resets.seqs = .empty
    ∧ State.reset.dev.odHeld = [] ∧ State.reset.dev.due = []

/-- O4. Every step, of every command and of the idle tick, keeps the canonical form of the addressed bytes, of their poison
and of their key tags. -/
def Obligations.EveryStepKeepsMemoryCanonical : Prop :=
  ∀ s t : State, Store.wf s.store → step s = .next t → Store.wf t.store

/-- O5. No command stops the machine, and no command touches the queue: the waiting commands after it are those before it,
and what it does to the rest does not depend on them. -/
def Obligations.CommandsLeaveTheQueueAlone : Prop :=
  ∀ (c : Instr) (s : State), ∃ t, exec c s = .next t ∧ t.pending = s.pending
    ∧ ∀ q, exec c { s with pending := q } = .next { t with pending := q }

/-- O6. The law on which every statement about memory rests. A store in a command's write log reads back byte by byte, and every
other byte reads as before; what a command reads back of its own writes while it runs is what the memory holds after it:
the byte that the log shows is the byte after the log is flushed, and likewise poison and key tags. -/
def Obligations.StoredBytesReadBack : Prop :=
  ∀ st : Store, Store.wf st →
    (∀ (a : Nat) (d : List Byte) (b : Nat),
      (st.apply (.bytes a d)).mem.get b = if a ≤ b ∧ b < a + d.length then (d[b - a]?).getD unlistedByte else st.mem.get b)
    ∧ ∀ log : List MemOp, (∀ a, logByte st a log = (st.flush log).mem.get a)
      ∧ (∀ g, logPoison st g log = (st.flush log).poison.elem g)
      ∧ ∀ l, logTag st l log = (st.flush log).tags.getD l 0

/-! ### The root clock, power and temperature -/

/-- The root clock and power management's writes, R20 to R22, R486, R487 and R501. A write of ClockNominalRoot takes the value and
marks it pending since this tick; a step in progress that is due moves ClockRootNow by 100 toward its target. An operating point
with ISSUE 1 to 8 and ROOT a multiple of 100 from 3,200 to 7,200 is taken, its reserved
bits kept out (R8), another refused with OD_VALUE_RANGE; a phase is set while no turn of the husk stands; the sustained limit takes its value; and each has the
points in force chosen again at the next window. -/
def Obligations.ClockAndPowerWrites : Prop :=
  ((∀ (s : State) (p : Path) (v : Word), odTakes s.world p 0x2000 1 v = true →
    Completes (.clockNominalRootWrite p v) s (fun t => t.reply p = 0 ∧ t.val oClockNominalRoot = v.toNat
      ∧ t.dev.time = { s.dev.time with rootPending := some s.dev.time.tick } ∧ t.dev.saved.get? oClockNominalRoot.key = some v
      ∧ SameMemory s t ∧ SameObjectsBut [oClockNominalRoot, oNvConfigWrites] s t))
  ∧ ∀ (s : State) (due : Nat), s.dev.time.rootStepEnd = some due → due ≤ s.dev.time.tick →
      100 ≤ s.val oClockRootNow → s.val oClockRootNow + 100 < 2 ^ 64 →
      Completes .rootStep s (fun t =>
        t.val oClockRootNow = (if s.dev.time.rootStepUp then s.val oClockRootNow + 100 else s.val oClockRootNow - 100)
        ∧ (t.dev.time.rootStepEnd = if t.val oClockRootNow = s.dev.time.rootTarget then none else some (s.dev.time.tick + 1000))
        ∧ t.dev.time.rootTarget = s.dev.time.rootTarget ∧ t.dev.time.tick = s.dev.time.tick
        ∧ SameMemory s t ∧ SameObjectsBut [oClockRootNow] s t))
  ∧ (∀ (s : State) (p : Path) (h : Fin 16) (j : Fin 64) (v : Word), odTakes s.world p (0x30C0 + h.val * 256) (1 + j.val) v = true →
    Completes (.huskOpPointWrite p h j v) s (fun t =>
      (opPointOk v.toNat = true → t.reply p = 0 ∧ t.val (oHuskOpPoint h.val j.val) = opPointKept v.toNat ∧ t.dev.power.selectDue = true)
      ∧ (opPointOk v.toNat = false → t.reply p = 0x000D ∧ t.dev.od = s.dev.od)
      ∧ SameMemory s t ∧ SameObjectsBut [oHuskOpPoint h.val j.val, oNvConfigWrites] s t))
  ∧ (∀ (s : State) (p : Path) (h : Fin 16) (v : Word), odTakes s.world p (0x30C1 + h.val * 256) 3 v = true →
      v.toNat ≠ 2 → v.toNat ≤ 7 → s.world.turnStands h.val = false →
      Completes (.huskPhaseSet p h v) s (fun t => t.reply p = 0 ∧ t.val (oHuskPhase h.val) = v.toNat
        ∧ t.dev.power.selectDue = true ∧ SameMemory s t ∧ SameObjectsBut [oHuskPhase h.val, oNvConfigWrites] s t))
  ∧ ∀ (s : State) (p : Path) (v : Word), odTakes s.world p 0x20A0 1 v = true →
      Completes (.powerSustainedLimitWrite p v) s (fun t => t.reply p = 0 ∧ t.val oPowerSustainedLimit = v.toNat
        ∧ t.dev.power.selectDue = true ∧ SameMemory s t ∧ SameObjectsBut [oPowerSustainedLimit, oNvConfigWrites] s t)

/-- Droop and excursion, R495 and R497: a droop stretches the slice's clock and counts; recovery ends it and counts the
stretched cycles; a tick sample above PowerExcursionLimit counts and holds the excursion. Counters count modulo 2^64; each
changes the objects and the part of the power state named, and nothing else. -/
def Obligations.DroopAndExcursion : Prop :=
  (∀ (s : State) (i : Fin 16), s.dev.power.stretched.elem i.val = false →
    Completes (.droopDetect i) s (fun t => t.val (oDroopEvents i.val) = fit 64 (s.val (oDroopEvents i.val) + 1)
      ∧ t.dev.power = { s.dev.power with stretched := setInsert i.val s.dev.power.stretched }
      ∧ t.dev.time = s.dev.time ∧ t.dev.rings = s.dev.rings ∧ SameMemory s t ∧ SameObjectsBut [oDroopEvents i.val] s t))
  ∧ (∀ (s : State) (i : Fin 16) (n : Nat), s.dev.power.stretched.elem i.val = true →
    Completes (.droopRecover i n) s (fun t =>
      t.val (oDroopStretchedCycles i.val) = fit 64 (s.val (oDroopStretchedCycles i.val) + n)
      ∧ t.dev.power = { s.dev.power with stretched := setErase i.val s.dev.power.stretched }
      ∧ t.dev.time = s.dev.time ∧ t.dev.rings = s.dev.rings ∧ SameMemory s t
      ∧ SameObjectsBut [oDroopStretchedCycles i.val] s t))
  ∧ ∀ (s : State) (watts : Nat), s.val oPowerExcursionLimit < watts →
    Completes (.powerExcursion watts) s (fun t =>
      t.val oPowerExcursionEvents = fit 32 (s.val oPowerExcursionEvents + 1)
      ∧ t.dev.power = { s.dev.power with excursion := true }
      ∧ t.dev.time = s.dev.time ∧ t.dev.rings = s.dev.rings ∧ SameMemory s t ∧ SameObjectsBut [oPowerExcursionEvents] s t)

/-- The capper and the governor, R490 and R493: at a step, with the measured power reported, each slice's capper ceiling falls
by one eighth while the power is above the active limit or an excursion holds; the slice's ceiling moves one eighth toward
the least of its operating point's ISSUE, its capper ceiling and its thermal ceiling. -/
def Obligations.CapperStepMovesCeilings : Prop :=
  ∀ (s : State) (watts : Nat), s.dev.time.tick % 200 = 0 → watts < 65536 →
    Completes (.capperStep watts) s (fun t =>
      t.val oPowerInput = watts ∧ t.dev.power.measured = watts ∧ SameMemory s t
      ∧ (s.world.activeLimit < watts ∨ s.dev.power.excursion = true → ∀ i : Fin 16,
          World.ceilOf t.dev.power.capCeil i.val = World.ceilOf s.dev.power.capCeil i.val - 1)
      ∧ ∀ i : Fin 16, s.world.limitedSlice i.val = false →
          World.ceilOf t.dev.power.thermCeil i.val = World.ceilOf s.dev.power.thermCeil i.val
          ∧ World.ceilOf t.dev.power.ceil i.val = World.toward (World.ceilOf s.dev.power.ceil i.val)
              (Nat.min (s.world.issueOf i.val)
                (Nat.min (World.ceilOf t.dev.power.capCeil i.val) (World.ceilOf t.dev.power.thermCeil i.val))))

/-- A power window's end, R400 and R492: on a window's boundary the mean power stands in PowerWindow and the energy is
counted once on each side of the energy ledger. -/
def Obligations.EnergyWindowCounts : Prop :=
  ∀ (s : State) (e : Nat), s.dev.time.tick % 1000 = 0 →
    Completes (.energyWindowEnd e) s (fun t =>
      t.val oPowerWindow = fit 16 (e / 10) ∧ t.val (oLedgerEnergy 0) = fit 64 (s.val (oLedgerEnergy 0) + e)
      ∧ t.val (oLedgerEnergy 2) = fit 64 (s.val (oLedgerEnergy 2) + e) ∧ SameMemory s t)

/-- Temperature, R498 and R499: a sample at a multiple of 100 ticks whose two sensors agree within 4 °C stores their mean as
both voted readings of each point, keeps the raw readings, and counts the rise across the throttle threshold. -/
def Obligations.ThermalSampleVotes : Prop :=
  ∀ (s : State) (l : List Nat), s.dev.time.tick % 100 = 0 → l.length = 72 →
    (∀ i, ∀ a ∈ l[2 * i]?, ∀ b ∈ l[2 * i + 1]?, a < 65536 ∧ b < 65536 ∧ gapOf a b ≤ 64 ∧ (a + b) / 2 < (thresholds i).1) →
    Completes (.thermalSample l) s (fun t => SameMemory s t
      ∧ (∀ k : Fin 36, ∀ a ∈ l[2 * k.val]?, ∀ b ∈ l[2 * k.val + 1]?,
          t.val (oThermalReading (2 * k.val)) = (a + b) / 2 ∧ t.val (oThermalReading (2 * k.val + 1)) = (a + b) / 2
          ∧ t.dev.power.readings.get? (2 * k.val) = some a ∧ t.dev.power.readings.get? (2 * k.val + 1) = some b)
      ∧ t.val oThermalThrottleEvents = s.val oThermalThrottleEvents ∧ t.dev.pldm = s.dev.pldm)

/-- Throttling and its recovery, R499: outside fixed-frequency mode a slice junction at or above its throttle threshold takes
100 MHz from the root's cap once per millisecond, never below 3,200; with no slice junction held, the cap rises by 100
every 10 ms up to 7,200. -/
def Obligations.ThermalStepsMoveRootCap : Prop :=
  (∀ (s : State) (k : Fin 16), s.val oClockFixedFrequency = 0 → 1600 ≤ s.world.voted k.val →
      (∀ t0 ∈ s.dev.power.lastStep.get? 0, t0 + 100000 ≤ s.dev.time.tick) →
      Completes .thermalThrottleStep s (fun t => SameMemory s t
        ∧ t.dev.power.rootCap = Nat.max 3200 (Nat.min s.dev.power.rootCap (s.val oClockRootNow) - 100)
        ∧ t.dev.power.lastStep.get? 0 = some s.dev.time.tick))
  ∧ ∀ s : State, (s.dev.power.throttled.any (fun k => decide (k < 16))) = false → s.dev.power.rootCap < 7200 →
      (∀ t0 ∈ s.dev.power.lastStep.get? 0, t0 + 1000000 ≤ s.dev.time.tick) →
      Completes .thermalRecoveryStep s (fun t => SameMemory s t
        ∧ t.dev.power.rootCap = s.dev.power.rootCap + 100 ∧ t.dev.power.lastStep.get? 0 = some s.dev.time.tick)

/-- A trip and its hold, R500: a point whose trip counter has reached 10, with the rails up, records an event of precedence 2 in its source, with
HUSK 0x1F, ACCESS 0x51 and THERMAL_TRIP, and begins a POWER_DOWN from source 8 with that cause; until ThermalTripHold has
passed and both inlet sensors read 40 °C or below, PowerOnAuto has no effect, a PowerCommand 2 is refused with
THERMAL_TRIP and a release of RESET_N is held; when both hold, the held release takes effect. -/
def Obligations.ThermalTripPowersDown : Prop :=
  (∀ (s : State) (k : Fin 36), 10 ≤ s.dev.power.tripTicks.getD k.val 0 → s.val oPowerState ≠ 0 → s.val oPowerState ≠ 4 →
      let f : FaultReport := ⟨BitVec.ofNat 16 (0x020 + 2 * k.val), 2, 0x0705, 0, 0, 0x51, 0x1F, true⟩
      faultPrecedence f = 2 ∧ Performs (.thermalTrip k) s (fun w =>
        let w1 := (w.reportFault f).upResets (fun r => { r with power := { r.power with trip := some s.dev.time.tick } })
        w1.beginReset 7 0 8 0 0x0705 (0x020 + 2 * k.val)))
  ∧ ∀ (s : State) (t0 : Nat), s.dev.resets.power.trip = some t0 →
      let due := t0 + s.val oThermalTripHold * 100000 ≤ s.dev.time.tick ∧ s.dev.power.readings.getD 68 0 ≤ 640
        ∧ s.dev.power.readings.getD 69 0 ≤ 640;
      (∀ p, odTakes s.world p 0x2091 1 2 = true → Completes (.powerCommandCycle p) s (fun t => t.reply p = 0x0705
          ∧ t.dev.resets = s.dev.resets ∧ t.dev.od = s.dev.od ∧ SameMemory s t))
      ∧ (s.dev.resets.resetN = true → Completes .resetNRelease s (fun t => t.dev.od = s.dev.od ∧ SameMemory s t
          ∧ t.dev.resets = { s.dev.resets with resetN := false, power := { s.dev.resets.power with releaseHeld := true } }))
      ∧ (∀ ga, s.val (oRailState 0) = 0 → Completes (.inputApplied ga) s (fun t => t.dev.resets = s.dev.resets ∧ SameMemory s t
          ∧ SameObjectsBut [oRailState 0, oModuleGa, oFieldNetState, oPowerStage] s t))
      ∧ (¬ due → exec .thermalTripHoldExpiry s = .next s)
      ∧ (due → s.dev.resets.power.releaseHeld = false → Completes .thermalTripHoldExpiry s (fun t => SameMemory s t
          ∧ t.dev.od = s.dev.od ∧ t.dev.resets.power = { s.dev.resets.power with trip := none, releaseHeld := false }))
      ∧ (due → s.dev.resets.power.releaseHeld = true → s.val oPowerOnAuto = 1 → s.dev.resets.resetN = false →
          s.dev.resets.power.dir = 0 → s.val oPowerState = 0 ∨ s.val oPowerState = 4 → Performs .thermalTripHoldExpiry s (fun w =>
            (w.upSeq (fun x => { x with trip := none, releaseHeld := false })).powerUp 3 1 0))

/-! ### Resets and the power sequence -/

/-- The resets that pins and commands ask for, R467 to R470: with no module reset in progress RESET_N begins a COLD reset of
source 1, PERST_N a PORT reset of its port, and ResetCommand one of its scope with source 4 and the writer as master; each
starts its sequence from the first step, with no restart counted. R468: ResetCommand is refused with OD_VALUE_RANGE for a
scope of 0 or a bit other than [1:0] and [7:4], a husk scope naming a DISABLED husk with HUSK_DISABLED; PowerCommand 1 with
the switched rails OFF is refused with OD_VALUE_RANGE, PowerCommand 2 while they are OFF or FAILED powers them up. -/
def Obligations.ResetsBeginTheirSequence : Prop :=
  (∀ s : State, s.dev.resets.resetN = false → s.val oPowerState = 2 → s.dev.resets.seqs.get? 16 = none →
    Performs .resetNAssert s (fun w =>
      (w.upResets (fun r => { r with resetN := true })).startSeq 3 0 1 0 0 0xFFFF 0 w.pulseInProgress))
  ∧ (∀ (s : State) (p : Fin 2), s.val oPowerState = 2 → s.dev.resets.perst.getD p.val false = false → s.dev.resets.seqs.get? 16 = none →
      s.dev.resets.seqs.get? (17 + p.val) = none →
      Performs (.perstAssert p) s (fun w =>
        let w1 := (w.upResets (fun r => { r with perst := r.perst.set p.val true })).startSeq 5 p.val (2 + p.val) 0 0 0xFFFF 0 false
        if w1.dev.resets.seqs.has (17 + p.val) then (w1.portDown p.val).portFunctions p.val else w1))
  ∧ (∀ (s : State) (p : Path) (c : Instr) (scope : Nat), s.val oPowerState = 2 → s.dev.resets.seqs.get? 16 = none →
      (c = .resetCommandWarm p (BitVec.ofNat 64 scope) ∧ scope = 2 ∨ c = .resetCommandCold p (BitVec.ofNat 64 scope) ∧ scope = 3) →
      odTakes s.world p 0x2090 1 (BitVec.ofNat 64 scope) = true →
      Performs c s (fun w => ((odAsked w p 0x2090 1 (BitVec.ofNat 64 scope)).startSeq scope 0 4 (pathMaster p) 0 0xFFFF 0
        w.pulseInProgress).odFinish p 0 0 [] false))
  ∧ (∀ (s : State) (p : Path) (h : Fin 16), s.val oPowerState = 2 → s.dev.resets.seqs.get? 16 = none → s.dev.resets.seqs.get? h.val = none →
      s.world.huskState h.val ≠ hsDisabled → odTakes s.world p 0x2090 1 (BitVec.ofNat 64 (1 + 16 * h.val)) = true →
      Performs (.resetCommandHusk p (BitVec.ofNat 64 (1 + 16 * h.val))) s (fun w =>
        ((odAsked w p 0x2090 1 (BitVec.ofNat 64 (1 + 16 * h.val))).startSeq 1 h.val 4 (pathMaster p) 0 0xFFFF 0 false).odFinish
          p 0 0 [] false))
  ∧ ∀ (s : State) (p : Path),
      let refused (c : Instr) (reason : Reason) : Prop :=
        Completes c s (fun t => t.reply p = reason ∧ t.dev.resets = s.dev.resets ∧ t.dev.od = s.dev.od ∧ SameMemory s t);
      (∀ (v : Word) (c : Instr), c ∈ [Instr.resetCommandHusk p v, .resetCommandWarm p v, .resetCommandCold p v] →
        odTakes s.world p 0x2090 1 v = true →
        (v &&& 3 = 0 ∨ v &&& 0xFFFFFFFFFFFFFF0C ≠ 0 → refused c 0x000D)
        ∧ (v &&& 0xFFFFFFFFFFFFFF0F = 1 → s.world.huskState (fld v.toNat 4 4) = hsDisabled → refused c 0x0A03))
      ∧ (odTakes s.world p 0x2091 1 1 = true → (∀ r : Fin 15, r.val ≠ 0 → s.val (oRailState r.val) = 0) → refused (.powerCommandDown p) 0x000D)
      ∧ (odTakes s.world p 0x2091 1 2 = true → s.dev.resets.power.trip = none → s.dev.resets.power.dir = 0 →
          s.val oPowerState = 0 ∨ s.val oPowerState = 4 → Performs (.powerCommandCycle p) s (fun w =>
            ((odAsked w p 0x2091 1 2).powerUp 4 9 (pathMaster p)).odFinish p 0 0 [] false))

/-- The ends of resets, R470 and R474: RESET_N and PERST_N released are no longer asserted; a port's reset then ends, is
counted and stamped in its record; a husk's, a module's and the controller's completion do what their last steps say; after the
controller's restart the long operations go on. -/
def Obligations.ResetsEnd : Prop :=
  (∀ s : State, s.dev.resets.resetN = true → s.dev.resets.power.trip = none → s.val oPowerOnAuto = 0 →
    Completes .resetNRelease s (fun t => t.dev.resets = { s.dev.resets with resetN := false } ∧ t.dev.od = s.dev.od ∧ SameMemory s t))
  ∧ (∀ (s : State) (p : Fin 2), s.dev.resets.seqs.has (17 + p.val) = true → p.val < s.dev.resets.perst.length →
      Completes (.perstRelease p) s (fun t => t.dev.resets.perst = s.dev.resets.perst.set p.val false
        ∧ t.dev.resets.seqs = s.dev.resets.seqs.del (17 + p.val) ∧ t.val (oResetCount 4) = fit 32 (s.val (oResetCount 4) + 1)
        ∧ t.val (oResetRecordPort (3 * p.val + 1)) = s.dev.time.tick % 2 ^ 64
        ∧ SameMemory s t ∧ SameObjectsBut [oResetCount 4, oResetRecordPort (3 * p.val + 1)] s t))
  ∧ (∀ (s : State) (r : ResetSeq), s.dev.resets.seqs.get? 16 = some r → r.scope = 2 → s.world.pulseInProgress = false →
      Performs .warmResetDone s (fun w =>
        let on := allHusks.filter (fun h => w.huskState h != hsDisabled)
        let w1 := ((w.each on (fun w h => w.huskTeardown h)).podsAllFree.each on (fun w h => w.seqsAllFree h)).slicesClear.acornAfterReset
        let w2 := w1.upResets (fun x => { x with seqs := x.seqs.del 16, wasActive := [] })
        let w3 := w2.each allSlices (fun w i => if w.running i < 16 ∧ w.ownerOf i ≠ some (w.running i) then w.wr (oSliceRunning i) 0xFF else w)
        let w4 := w3.each on (fun v h =>
          if v.huskState h = hsDisabling then ((v.disableFinish h).inc (oHuskTeardowns h) 1).resetRecordEnd h
          else if w.dev.resets.wasActive.elem h then (v.becomeActive h).msixHusk h 1 else v)
        ((w4.inc32 (oResetCount 1) 1).resetRecordEnd 16).endStep 4 0))
  ∧ (∀ (s : State) (h : Fin 16) (r : ResetSeq), s.dev.resets.seqs.get? h.val = some r →
      Performs (.huskResetDone h) s (fun w =>
        let w1 := (w.huskTeardown h.val).upResets (fun r => { r with seqs := r.seqs.del h.val })
        let w2 := if w1.huskState h.val = hsDisabling then w1.disableFinish h.val
          else if w1.huskState h.val = hsResetting then w1.becomeActive h.val else w1
        ((((w2.inc (oHuskTeardowns h.val) 1).inc32 (oResetCount 0) 1).msixHusk h.val 1).resetRecordEnd h.val).endStep 3 h.val))
  ∧ (∀ (s : State) (r : ResetSeq), s.dev.resets.seqs.get? 16 = some r → r.scope = 3 → s.world.pulseInProgress = false →
      s.val oPowerState = 2 → s.dev.resets.power.dir = 0 → s.dev.fabric.drainSince = none → s.dev.resets.resetN = false →
      Performs .coldResetDone s (fun w =>
        let w1 := w.coldWipe.ledgerInit.windowRestart r.start
        let w2 := w1.fencesEnd w1.dev.faults.unfence
        let w3 := (w2.wr oDomainPowered w2.domainsOn).upResets (fun x => { x with seqs := x.seqs.del 16 })
        ((w3.inc32 (oResetCount 2) 1).resetRecordEnd 16).endStep 5 0))
  ∧ (∀ s : State, s.dev.resets.seqs.has 19 = true → s.dev.odHeld = [] →
      Performs .controllerRestartDone s (fun w =>
        (((w.upResets (fun r => { r with seqs := r.seqs.del 19 })).resetRecordEnd 19).inc32 (oResetCount 5) 1).operationsResume)
      ∧ (s.dev.acorn.queues = .empty → s.dev.turns = .empty →
          Completes .controllerRestartDone s (fun t => t.dev.resets = { s.dev.resets with seqs := s.dev.resets.seqs.del 19 }
            ∧ t.val (oResetCount 5) = fit 32 (s.val (oResetCount 5) + 1) ∧ t.val (oResetRecordModule 1) = s.dev.time.tick % 2 ^ 64
            ∧ SameMemory s t ∧ SameObjectsBut [oResetCount 5, oResetRecordModule 1] s t)))

/-- What a reset's first steps leave, R470, R474 and R476: the sequence started stands under its key with the record's
words written, and a restart of the same reset counts. -/
def Obligations.ResetRecordAtStart : Prop :=
  ∀ (w : World) (source master cause src n : Nat) (d : Bool) (p : Fin 2),
    let r : ResetSeq := ⟨5, source, master, cause, src, w.now, n, d⟩
    let t := w.startSeq 5 p.val source master cause src n d
    t.dev.resets.seqs.get? (17 + p.val) = some r ∧ t.rd (oResetRecordPort (3 * p.val)) = w.now % 2 ^ 64
      ∧ t.rd (oResetRecordPort (3 * p.val + 1)) = 0 ∧ t.rd (oResetRecordPort (3 * p.val + 2)) = resetWord3 r % 2 ^ 64
      ∧ t.rd (oHostCxlActive p.val) = 0 ∧ t.log = w.log

/-- The rails, R477 and R479: in a power-up the rail of the present stage that reaches power-good becomes GOOD and the next
stage is enabled, and after the last the module is ON with no stage pending. -/
def Obligations.RailsComeUpInOrder : Prop :=
  (∀ (s : State) (r : Fin 15), r.val ≠ 14 → s.val (oRailState r.val) = 1 → s.dev.resets.power.dir = 1 → s.val oPowerStage = r.val →
    Completes (.railPowerGood r) s (fun t => t.val (oRailState r.val) = 2 ∧ t.val oPowerStage = r.val + 1
      ∧ t.val (oRailState (r.val + 1)) = 1 ∧ t.dev.resets.power = { s.dev.resets.power with since := s.dev.time.tick }
      ∧ SameMemory s t ∧ SameObjectsBut [oRailState r.val, oRailState (r.val + 1), oPowerStage] s t))
  ∧ ∀ s : State, s.val (oRailState 14) = 1 → s.dev.resets.power.dir = 1 → s.val oPowerStage = 14 →
      Completes (.railPowerGood 14) s (fun t => t.val (oRailState 14) = 2 ∧ t.val oPowerState = 2 ∧ t.val oPowerStage = 0xFF
        ∧ t.dev.resets.power = { s.dev.resets.power with dir := 0 }
        ∧ SameMemory s t ∧ SameObjectsBut [oRailState 14, oPowerState, oPowerStage] s t)

/-- The rails down, R479 to R481: a discharging rail is OFF once it falls below 10 % and the stage below is taken; a rail that
misses its window while coming up aborts the power-up; a rail that fails in service is recorded, and for a fabric
direction's rail that direction alone is OFF. -/
def Obligations.RailsGoDownAndFail : Prop :=
  (∀ (s : State) (r : Fin 15), r.val ≠ 0 → s.val (oRailState r.val) = 3 → s.dev.resets.power.dir ≠ 2 →
    Completes (.railDischarged r) s (fun t => t.val (oRailState r.val) = 0
      ∧ t.dev.resets.power = { s.dev.resets.power with forced := setErase r.val s.dev.resets.power.forced }
      ∧ SameMemory s t ∧ SameObjectsBut [oRailState r.val] s t))
  ∧ (∀ (s : State) (r : Fin 15), s.val oPowerStage = r.val → s.dev.resets.power.dir = 1 → s.val (oRailState r.val) = 1 →
      s.dev.resets.power.since + railRamp r.val + 100000 ≤ s.dev.time.tick →
      Performs (.railWindowExpiry r) s (fun w => w.powerUpAbort r.val))
  ∧ (∀ (s : State) (r : Fin 15), 9 ≤ r.val → s.val (oRailState r.val) ≠ 0 → s.val (oRailState r.val) ≠ 4 →
      s.dev.resets.power.dir = 0 →
      Performs (.railFault r) s (fun w =>
        let d := r.val - 9
        let w1 := (w.railFailed r.val none 0).wr (oFabricDirState d) 3
        ((w1.upFabric (fun f => { f with target := f.target.put d 3 })).dirDown d 0x0301).wr oDomainPowered
          (setFld (w1.rd oDomainPowered) (24 + d) 1 0)))
  ∧ ∀ s : State, s.val (oRailState 0) ≠ 0 → s.val (oRailState 0) ≠ 4 → Performs (.railFault 0) s World.alwaysOnLost

/-- Power commands and input power, R475, R478, R509 and R512: PowerCommand begins the power-down or the power cycle; the
hold of a power cycle ends in a power-up; PWRFAIL_N counts and stands until it is released; after 1.8 ms the module
commits and its ports drain, after 2 ms its power-down starts; an input applied brings VAON up with GA sampled; a spent
always-on store loses what the always-on domain held. -/
def Obligations.PowerCommandsAndInput : Prop :=
  (∀ (s : State) (p : Path), odTakes s.world p 0x2091 1 1 = true → s.world.railsOff = false → s.dev.resets.seqs.get? 16 = none →
    Performs (.powerCommandDown p) s (fun w => ((odAsked w p 0x2091 1 1).beginReset 7 0 9 (pathMaster p) 0 0xFFFF).odFinish p 0 0 [] false))
  ∧ (∀ (s : State) (p : Path), odTakes s.world p 0x2091 1 2 = true → s.dev.resets.power.trip = none → s.val oPowerState = 2 →
      Performs (.powerCommandCycle p) s (fun w => ((odAsked w p 0x2091 1 2).beginReset 4 0 9 (pathMaster p) 0 0xFFFF).odFinish p 0 0 [] false))
  ∧ (∀ s : State, s.dev.resets.power.dir = 3 → s.dev.resets.power.since + s.val oPowerOffHold ≤ s.dev.time.tick →
      Performs .powerOffHoldExpiry s (fun w => w.coldWipe.powerUpStart))
  ∧ (∀ s : State, s.dev.resets.power.pwrfail = none →
      Completes .pwrfailAssert s (fun t => t.val oPwrfailEvents = fit 32 (s.val oPwrfailEvents + 1)
        ∧ t.dev.resets.power = { s.dev.resets.power with pwrfail := some s.dev.time.tick }
        ∧ SameMemory s t ∧ SameObjectsBut [oPwrfailEvents] s t))
  ∧ (∀ (s : State) (t0 : Nat), s.dev.resets.power.pwrfail = some t0 → t0 + 180000 ≤ s.dev.time.tick → s.dev.resets.power.committed = none →
      Completes .pwrfailCommit s (fun t => t.dev.resets.power = { s.dev.resets.power with committed := some t0 }
        ∧ t.dev.fabric.drainSince = some s.dev.time.tick
        ∧ (∀ k : Fin 24, s.val (oLinkState k.val) = 3 → t.val (oLinkState k.val) = 6) ∧ SameMemory s t))
  ∧ (∀ (s : State) (t0 : Nat), s.dev.resets.power.committed = some t0 → t0 + 200000 ≤ s.dev.time.tick → s.world.railsOff = false →
      s.dev.resets.power.dir ≠ 2 → s.dev.fabric.drainSince ≠ none →
      Performs .pwrfailPowerDown s (fun w => (w.beginReset 7 0 11 0 0x0706 0xFFFF).downReady))
  ∧ (∀ (s : State) (t0 : Nat), s.dev.resets.power.pwrfail = some t0 →
      Performs .pwrfailRelease s (fun w =>
        let w1 := w.upSeq (fun p => { p with pwrfail := none, inputBack := p.committed.isSome })
        let w2 := w1.each (List.range 8) (fun w a => w.startPulse a)
        if w2.pseq.inputBack && w2.autoMay then w2.powerUp 4 0 0 else w2))
  ∧ (∀ (s : State) (ga : BitVec 4), s.val (oRailState 0) = 0 → s.val oPowerOnAuto = 0 →
      Completes (.inputApplied ga) s (fun t => t.val (oRailState 0) = 2 ∧ t.val oModuleGa = ga.toNat ∧ t.val oPowerStage = 0xFF
        ∧ SameMemory s t ∧ SameObjectsBut [oRailState 0, oModuleGa, oFieldNetState, oPowerStage] s t))
  ∧ (∀ (s : State) (t0 : Nat), s.dev.resets.power.pwrfail = some t0 → s.val (oRailState 0) ≠ 0 →
      Performs .vaonStoreExpiry s World.alwaysOnLost)

/-- The controller's watchdog and the domains, R467, R474, R482 and R483: the watchdog counts a restart after its event and
begins the CONTROLLER reset. A write of DomainPowerMask that clears the bit of a slice whose husk is not DISABLED is refused
with HUSK_BUSY, one that clears an acorn stack's bit while an installation or refresh runs with IMAGE_SLOT_BUSY; bits 24 to
29 of what it writes are 1; a domain that it clears is powered down once its work has stopped, and one that it allows is powered up unless
it is fenced. One that changes no domain changes nothing but the mask. -/
def Obligations.WatchdogAndDomains : Prop :=
  (∀ s : State, Performs .controllerWatchdog s (fun w =>
      ((w.fresh.2.containedUnit 0x001 0 0x61 (openReason w.fresh.1) 0).inc32 oControllerRestarts 1).beginReset 6 0 5 0 0 0xFFFF))
  ∧ ∀ (s : State) (p : Path) (v : Word), odTakes s.world p 0x209A 1 v = true →
      let cleared (d : Nat) : Prop := bitAt (s.val oDomainPowerMask) d = true ∧ bitAt v.toNat d = false
      let slices := ∃ d : Fin 16, cleared d.val ∧ s.world.ownerOf d.val ≠ none
      let stackOff := (∃ d : Fin 8, cleared (16 + d.val)) ∧ (stIdleOrTerminal (s.val (oAcornInstallStatus 0)) = false
        ∨ stIdleOrTerminal (s.val (oAcornRefreshStatus 0)) = false)
      let refused (reason : Reason) : Prop :=
        Completes (.domainPowerMaskWrite p v) s (fun t => t.reply p = reason ∧ t.dev.od = s.dev.od ∧ SameMemory s t);
      (slices → refused 0x0A02) ∧ (¬ slices → stackOff → refused 0x0405)
      ∧ (¬ slices → ¬ stackOff → Performs (.domainPowerMaskWrite p v) s (fun w0 =>
          let w := odAsked w0 p 0x209A 1 v
          let m := v.toNat ||| 0x3F000000
          let down := (List.range 32).filter (fun d => !bitAt m d && w.powered d)
          let up := (List.range 32).filter (fun d => bitAt m d && !w.powered d && !bitAt (w.rd oFaultFencedDomains) d
            && !(decide (24 ≤ d) && decide (d < 30)) && w.rd oPowerState == 2)
          (((w.wr oDomainPowerMask m).each down (fun w d => w.domainOff d)).each up (fun w d => w.domainOn d)).odFinish p 0 0 [] false))
      ∧ (¬ slices → ¬ stackOff → (∀ d, d < 32 → s.world.powered d = true → bitAt (v.toNat ||| 0x3F000000) d = true) →
          Completes (.domainPowerMaskWrite p v) s (fun t => t.reply p = 0 ∧ t.val oDomainPowerMask = (v.toNat ||| 0x3F000000)
            ∧ (∀ d, d < 24 ∨ 30 ≤ d ∧ d < 32 → t.world.powered d = (s.world.powered d
                || bitAt v.toNat d && !bitAt (s.val oFaultFencedDomains) d && s.val oPowerState == 2))
            ∧ (∀ d, 24 ≤ d → d < 30 → t.world.powered d = s.world.powered d)
            ∧ SameObjectsBut [oDomainPowerMask, oDomainPowered, oNvConfigWrites] s t))
      ∧ ((∀ d, d < 32 → (bitAt (s.val oDomainPowerMask) d = bitAt (v.toNat ||| 0x3F000000) d)) →
          (∀ d, d < 32 → bitAt (v.toNat ||| 0x3F000000) d = s.world.powered d) →
          Completes (.domainPowerMaskWrite p v) s (fun t => t.reply p = 0 ∧ t.val oDomainPowerMask = (v.toNat ||| 0x3F000000)
            ∧ SameMemory s t ∧ SameObjectsBut [oDomainPowerMask, oNvConfigWrites] s t))

/-! ### Time -/

/-- Device time, R29 to R31: a timing message that follows the best clock source known, and not this module itself, records its offset,
clamped to 32 bits, and slews by it when no step is due; one of a lesser source leaves this module its own master when it is the best,
and is otherwise only noted; without messages for 10 ms the state is HOLDOVER; the stamps of the exchange go out over each powered
direction once per millisecond; TimeStepCommand permits one step. -/
def Obligations.TimeFollowsTheMaster : Prop :=
  (∀ (s : State) (d : Fin 6) (prio : BitVec 8) (node : BitVec 16) (theirs ours : Word) (delay : BitVec 32),
    let mine := (s.val oTimeMasterPriority, s.world.self)
    let lead := s.world.leadClock
    let lesser := World.betterClock lead (prio.toNat, node.toNat) || node.toNat == s.world.self
    let off : Int := Int.ofNat (ours.toNat * 10) - Int.ofNat (theirs.toNat * 10 + delay.toNat)
    (lesser = false → s.val oTimeState ≠ 0 → s.dev.time.permit = false →
      Completes (.timeSync d prio node theirs ours delay) s (fun t =>
        t.dev.time = { s.dev.time with lastMsg := Int.ofNat s.dev.time.tick, master := some (prio.toNat, node.toNat), slew := -(off / 10) }
        ∧ t.dev.od.get? oTimeOffset.key = some (BitVec.ofInt 64 (max (-2147483648) (min 2147483647 off)))
        ∧ t.val oTimeState = (if off.natAbs ≤ 50 then 2 else 1) ∧ SameMemory s t ∧ SameObjectsBut [oTimeOffset, oTimeState] s t))
    ∧ (lesser = true → lead = mine →
      Completes (.timeSync d prio node theirs ours delay) s (fun t =>
        t.dev.time = { s.dev.time with lastMsg := Int.ofNat s.dev.time.tick, master := some mine, slew := 0 }
        ∧ t.val oTimeState = 2 ∧ SameMemory s t ∧ SameObjectsBut [oTimeState] s t))
    ∧ (lesser = true → lead ≠ mine →
      Completes (.timeSync d prio node theirs ours delay) s (fun t =>
        t.dev.time = { s.dev.time with lastMsg := Int.ofNat s.dev.time.tick } ∧ t.dev.od = s.dev.od ∧ SameMemory s t)))
  ∧ (∀ s : State, s.val oTimeState ≠ 0 → s.dev.time.lastMsg + 1000000 ≤ Int.ofNat s.dev.time.tick →
      Completes .timeHoldover s (fun t => t.val oTimeState = 3 ∧ t.dev.time = s.dev.time ∧ SameMemory s t ∧ SameObjectsBut [oTimeState] s t))
  ∧ (∀ s : State, s.dev.time.lastSend + 100000 ≤ Int.ofNat s.dev.time.tick →
      Performs .timeSyncSend s (fun w =>
        let m := s.world.leadClock
        (List.range 6).foldl (fun w d => match neighbour w.dims w.self d with
          | some n => if w.powered (24 + d) then
              w.sendOver ((w.openLinks d).headD (d * 4)) n 0x42 (leBytes 8 w.now ++ leBytes 1 m.1 ++ leBytes 2 m.2) else w
          | none => w) (w.upTime (fun x => { x with lastSend := Int.ofNat s.dev.time.tick }))))
  ∧ ∀ (s : State) (p : Path), odTakes s.world p 0x2010 5 1 = true →
      Completes (.timeStepCommand p 1) s (fun t => t.reply p = 0 ∧ t.dev.time = { s.dev.time with permit := true }
        ∧ t.dev.od = s.dev.od ∧ SameMemory s t)

/-! ### The fabric -/

/-- Frames, R348 to R351: on a link in service a data frame that decodes and comes in order returns its credits, retires what it
acknowledges, advances RX and passes its flit on, or keeps it in its buffer (R132); a frame that fails its parity, its HCRC or its order asks for a retry. -/
def Obligations.FramesAreTakenInOrder : Prop :=
  ∀ (s : State) (k : Fin 24) (f : Frame), (s.val (oLinkState k.val) = 3 ∨ s.val (oLinkState k.val) = 6) →
    let h := f.header.toNat
    (f.parity = .clean → fhGood h = true → fhSeq h = (s.world.link k.val).rx → 1 ≤ fhType h → fhType h ≤ 5 →
      Performs (.linkFrameReceive k f) s (fun w =>
        let l := w.link k.val
        let l1 := LinkSt.giveCredit { l with retry := retire (fhAck h) l.retry } (fhCredQ h) (fhCred h)
        let (g, l3) := World.frameFlit { l1 with rx := (l1.rx + 1) % 4096, retrySince := none } h f.flit
        let w2 := w.setLink k.val l3
        if g.dest = w2.self ∧ !w2.chunkStays l3.held g then ((w2.localFlit g).leaveBuffer k.val g).pump
        else (w2.setLink k.val { l3 with held := l3.held ++ [g] }).pump))
    ∧ (fhType h ≠ 7 → (f.parity = .failed ∨ f.parity = .clean ∧ (fhGood h = false ∨ fhType h ≠ 0 ∧ fhSeq h ≠ (s.world.link k.val).rx)) →
      Completes (.linkFrameReceive k f) s (fun t =>
        (t.world.link k.val).ctl = .retryReq (s.world.link k.val).rx :: (s.world.link k.val).ctl
        ∧ (t.world.link k.val).rx = (s.world.link k.val).rx ∧ (t.world.link k.val).retry = (s.world.link k.val).retry
        ∧ t.dev.fabric.inbox = s.dev.fabric.inbox ∧ SameMemory s t))

/-- Links end and come back, R350, R353, R364 and R370: GOING_DOWN, loss of signal and an exhausted retry take a link down
with their reasons; its credits are reclaimed LinkCreditTimeout later, each counted on the credit ledger; training with a
far end that is no neighbour is MISWIRED, with the neighbour it gives an ACTIVE link with fresh credits; RETRY_REQ counts. -/
def Obligations.LinksGoDownAndComeUp : Prop :=
  (∀ (s : State) (k : Fin 24), (s.val (oLinkState k.val) = 3 ∨ s.val (oLinkState k.val) = 6) →
    Performs (.goingDown k) s (fun w => w.goDown k.val 0x0301) ∧ Performs (.lossOfSignal k) s (fun w => w.goDown k.val 0x0301)
    ∧ (∀ t0, (s.world.link k.val).retrySince = some t0 → t0 + s.val oLinkRetryLimit ≤ s.dev.time.tick →
        Performs (.linkRetryExhausted k) s (fun w => w.goDown k.val 0x0304))
    ∧ ∀ seq, Performs (.retryReq k seq) s (fun w =>
        ((w.inc (oLinkRetries k.val) 1).setLink k.val { w.link k.val with
          retrySince := (w.link k.val).retrySince.orElse (fun _ => some s.dev.time.tick) }).corrected
          (0x1D0 + k.val) (masterId 0xC k.val) 0x30 0 k.val))
  ∧ (∀ (s : State) (k : Fin 24) (t0 : Nat), (s.world.link k.val).downAt = some t0 → (s.world.link k.val).up = true →
      s.val (oLinkState k.val) ≠ 3 → t0 + s.val oLinkCreditTimeout ≤ s.dev.time.tick →
      Completes (.linkCreditTimeout k) s (fun t =>
        t.val (oLinkCreditsReclaimed k.val) = fit 64 (s.val (oLinkCreditsReclaimed k.val) + (s.world.link k.val).txOut)
        ∧ t.val (oLedgerLink k.val 2) = fit 64 (s.val (oLedgerLink k.val 2) + ((s.world.link k.val).txAvail + (s.world.link k.val).txOut))
        ∧ (t.world.link k.val).up = false ∧ (t.world.link k.val).downAt = none ∧ (t.world.link k.val).txOut = 0
        ∧ (t.world.link k.val).retry = (s.world.link k.val).retry ∧ SameMemory s t))
  ∧ (∀ (s : State) (k : Fin 24) (far : BitVec 16) (dims : BitVec 32), (s.val (oLinkState k.val) = 1 ∨ s.val (oLinkState k.val) = 2) →
      s.world.powered (24 + k.val / 4) = true → s.dev.fabric.overload.elem (k.val / 4) = false →
      nodeValid s.world.dims s.world.self = true → nodeValid s.world.dims far.toNat = true → dims.toNat = s.world.dims →
      neighbour s.world.dims s.world.self (k.val / 4) ≠ some far.toNat →
      Completes (.linkUp k far dims) s (fun t => t.val (oLinkState k.val) = 4 ∧ t.val (oLinkReason k.val) = 0x0306
        ∧ t.dev.fabric = s.dev.fabric ∧ SameMemory s t ∧ SameObjectsBut [oLinkState k.val, oLinkReason k.val] s t))
  ∧ (∀ (s : State) (k : Fin 24) (far : BitVec 16) (dims : BitVec 32), (s.val (oLinkState k.val) = 1 ∨ s.val (oLinkState k.val) = 2) →
      s.world.powered (24 + k.val / 4) = true → s.dev.fabric.overload.elem (k.val / 4) = false →
      nodeValid s.world.dims s.world.self = true → nodeValid s.world.dims far.toNat = true → dims.toNat = s.world.dims →
      neighbour s.world.dims s.world.self (k.val / 4) = some far.toNat → (s.world.link k.val).up = false →
      Performs (.linkUp k far dims) s (fun w =>
        (((w.wr (oLinkState k.val) 3).inc (oLedgerLink k.val 0) 1024).setLink k.val
          { LinkSt.init with up := true, shared := 768, held := (w.link k.val).held }).pump.sendLinkStatus))
  ∧ ∀ (s : State) (t0 : Nat), s.dev.fabric.drainSince = some t0 → (s.world.portsHold = false ∨ t0 + 10000 ≤ s.dev.time.tick) →
      Performs .portDrainEnd s (fun w =>
        ((w.upFabric (fun f => { f with waiting := [], drainSince := none })).each (List.range 24) (fun w k =>
          let w1 := w.setLink k { w.link k with held := [] }
          if w1.rd (oLinkState k) = 3 ∨ w1.rd (oLinkState k) = 6 then
            (w1.setLink k { w1.link k with ctl := .goingDown :: (w1.link k).ctl }).goDown k 0x0301
          else w1)).downReady)

/-- Directions and cables, R347, R361 to R363 and R515: a power request is taken: a lower state is asked of both ends, one that asks for
a higher power state begins the transition at once; the transition's end sets the direction's state and reads its cable; an inserted cable is remembered
and clears an overload, which takes the direction's links down; an incomplete message that waits beyond
FabricContTimeout is dropped and, unless it is a NACK itself, answered with MSG_TRUNCATED; LINK_STATUS is sent at most once in 100 microseconds. -/
def Obligations.DirectionsAndCables : Prop :=
  (∀ (s : State) (p : Path) (d : Fin 6) (v : Word), odTakes s.world p 0x5001 (1 + d.val) v = true →
    let st := s.val (oFabricDirState d.val)
    let drain := if v = 3 ∧ st ≠ 3 then s.dev.fabric.dirDrain.put d.val s.dev.time.tick else s.dev.fabric.dirDrain.del d.val
    Completes (.fabricDirPowerReq p d v) s (fun t => t.reply p = 0 ∧ t.val (oFabricDirPowerReq d.val) = v.toNat
      ∧ t.dev.fabric.target.get? d.val = some v.toNat ∧ t.dev.fabric.dirDrain = drain
      ∧ t.val (oFabricDirState d.val) = (if v.toNat < st ∧ st ≠ 4 then 4 else st)
      ∧ (¬ (v.toNat < st ∧ st ≠ 4) → t.dev.fabric = { s.dev.fabric with
          target := s.dev.fabric.target.put d.val v.toNat, dirDrain := drain })
      ∧ SameMemory s t ∧ SameObjectsBut [oFabricDirPowerReq d.val, oFabricDirState d.val, oNvConfigWrites] s t))
  ∧ (∀ (s : State) (d : Fin 6), let g := s.dev.fabric.target.getD d.val (s.val (oFabricDirPowerReq d.val))
      g ≠ s.val (oFabricDirState d.val) → g < 2 → s.world.powered (24 + d.val) = true →
      Performs (.dirPowerTransitionDone d) s (fun w => ((w.wr (oFabricDirState d.val) g).upFabric (fun f =>
        { f with leaving := f.leaving.del d.val, dirDrain := f.dirDrain.del d.val })).readCable d.val))
  ∧ (∀ (s : State) (d : Fin 6) (c : Cable), s.world.powered (24 + d.val) = false →
      Completes (.cableInserted d c) s (fun t => t.dev.fabric = { s.dev.fabric with
          cables := s.dev.fabric.cables.put d.val (if c = .other then 2 else 1), overload := setErase d.val s.dev.fabric.overload }
        ∧ t.dev.od = s.dev.od ∧ SameMemory s t))
  ∧ (∀ (s : State) (d : Fin 6) (c : Cable), s.world.powered (24 + d.val) = true → s.val (oFabricDirState d.val) < 3 →
      Performs (.cableInserted d c) s (fun w => (w.upFabric (fun f => { f with
        cables := f.cables.put d.val (if c = .other then 2 else 1), overload := setErase d.val f.overload })).readCable d.val))
  ∧ (∀ (s : State) (d : Fin 6), s.world.powered (24 + d.val) = true →
      Performs (.portSupplyOverload d) s (fun w =>
        ((w.upFabric (fun f => { f with overload := setInsert d.val f.overload })).dirDown d.val 0x0301).each [0, 1, 2, 3] (fun w l =>
          if w.rd (oLinkState (d.val * 4 + l)) = 2 then
            (w.wr (oLinkState (d.val * 4 + l)) 1).wr (oLinkReason (d.val * 4 + l)) 0x0301
          else w)))
  ∧ (∀ (s : State) (id : Nat) (r : RxMsg), s.dev.fabric.assembling.get? id = some r →
      r.last + s.val oFabricContTimeout ≤ s.dev.time.tick →
      (fld r.hdr 48 8 = 0x41 →
        Completes (.msgContTimeout id) s (fun t => t.dev.fabric = { s.dev.fabric with assembling := s.dev.fabric.assembling.del id }
          ∧ t.dev.od = s.dev.od ∧ SameMemory s t))
      ∧ (fld r.hdr 48 8 ≠ 0x41 → Performs (.msgContTimeout id) s (fun w =>
          ((w.upFabric (fun f => { f with assembling := f.assembling.del id })).postNack (msgOf s.world.self r.vc r.hdr []) 0x0308).pump)))
  ∧ ∀ s : State, s.dev.fabric.lastStatus + 10000 ≤ s.dev.time.tick →
      Performs .linkStatusSend s World.sendLinkStatus

/-- Messages, R358, R361, R367 and R368: a message that is for this module and not refused leaves the inbox, has its source's
epoch seen, and then does what its kind says; one refused for its husk's epoch has none of that effect. -/
def Obligations.MessagesReachTheirEngine : Prop :=
  ∀ (s : State) (m : Msg),
    (msgTaken s.world m 0x0A = true → Performs (.podSpan m) s (fun w => (msgSeen w m).podSpan m))
    ∧ (msgTaken s.world m 0x0B = true → Performs (.podEnd m) s (fun w => (msgSeen w m).podEnd m))
    ∧ (msgTaken s.world m 0x05 = true → Performs (.turnCopy m) s (fun w => (msgSeen w m).turnCopyIn m.dstHusk.toNat m))
    ∧ (msgTaken s.world m 0x06 = true → Performs (.turnArrive m) s (fun w => (msgSeen w m).turnMessage m.dstHusk.toNat m))
    ∧ (msgTaken s.world m 0x07 = true → Performs (.turnDone m) s (fun w => (msgSeen w m).turnMessage m.dstHusk.toNat m))
    ∧ (msgTaken s.world m 0x08 = true → Performs (.turnAbort m) s (fun w => (msgSeen w m).turnMessage m.dstHusk.toNat m))
    ∧ (msgTaken s.world m 0x09 = true → Performs (.turnAck m) s (fun w => (msgSeen w m).turnAckIn m.dstHusk.toNat m))
    ∧ (msgTaken s.world m 0x40 = true → Performs (.epochNotice m) s (fun w =>
        (msgSeen w m).seeEpoch m.srcNode.toNat (fld m.addr.toNat 16 4) (m.addr.toNat % 65536)))
    ∧ (msgTaken s.world m 0x41 = true → Performs (.nack m) s (fun w => (msgSeen w m).nackIn m))
    ∧ (msgTaken s.world m 0x43 = true → Performs (.linkStatus m) s (fun w => ((msgSeen w m).upFabric (fun f =>
        { f with nbrDown := f.nbrDown.put m.srcNode.toNat (leNat (m.payload.take 1)) })).pump))
    ∧ (m.dest.toNat = s.world.self → m.kind = 0x0A#8 → m.vc ≠ 0#3 → m.vc ≠ 7#3 → m.srcNode.toNat = s.world.self →
        m.dstEpoch ≠ 0xFFFF#16 → m.dstEpoch.toNat ≠ s.val (oFabricHuskEpoch m.dstHusk.toNat) →
        s.dev.fabric.lastNack.get? m.srcNode.toNat = some s.dev.time.tick →
        Completes (.podSpan m) s (fun t => t.val oFabricStaleDropped = fit 64 (s.val oFabricStaleDropped + 1)
          ∧ t.dev.pods = s.dev.pods ∧ SameMemory s t ∧ SameObjectsBut [oFabricStaleDropped] s t))

/-- Collective messages, R382, R383 and R390: one that names a descriptor posted here reaches it; DATA and RUNNING for none
are answered by a NACK COLL_NOT_POSTED, a DECISION for none is kept (the model's choice, log entry 32). -/
def Obligations.CollectiveMessagesReachTheirDescriptor : Prop :=
  ∀ (s : State) (m : Msg) (r : CollRun),
    (msgTaken s.world m 1 = true → collNamed (msgSeen s.world m) m r →
      Performs (.data m) s (fun w => (msgSeen w m).collData r m))
    ∧ (msgTaken s.world m 2 = true → collNamed (msgSeen s.world m) m r →
      Performs (.running m) s (fun w => (msgSeen w m).collRunning r m))
    ∧ (msgTaken s.world m 3 = true → collNamed (msgSeen s.world m) m r → ∀ k, World.rankOf r m.srcNode.toNat m.srcHusk.toNat = some k →
      Performs (.decision m) s (fun w => (msgSeen w m).collGo (World.decide' r k (fld (leNat m.payload) 0 2, fld (leNat m.payload) 16 16))))
    ∧ (msgTaken s.world m 4 = true → collNamed (msgSeen s.world m) m r →
      Performs (.receipt m) s (fun w => (msgSeen w m).collReceipt r m))
    ∧ ((msgSeen s.world m).turnShut m.dstHusk.toNat = false →
        (msgSeen s.world m).collRun (m.dstHusk.toNat * 2 ^ 32 + m.addr.toNat / 65536) = none →
        (msgTaken s.world m 1 = true → Performs (.data m) s (fun w => ((msgSeen w m).postNack m 0x0B01).pump))
        ∧ (msgTaken s.world m 2 = true → Performs (.running m) s (fun w => ((msgSeen w m).postNack m 0x0B01).pump))
        ∧ (msgTaken s.world m 3 = true → Performs (.decision m) s (fun w =>
            (msgSeen w m).upColl (fun c => { c with early := m :: c.early }))))

/-! ### Queues -/

/-- The queue registers, R81 and R82: an ENABLE with a legal size and rings that lie where they must enables the queue; clearing
ENABLE takes no further command and leaves the ring; CQHEAD moves only over records present; a doorbell that is not
refused moves TAIL, and one refused counts and leaves TAIL. Only the image written changes. R82: a doorbell is refused with
QUEUE_TAIL_INVALID when PRODUCER is 0, the queue is disabled, the value lies outside the ring or would pass HEAD; R35's
refusal comes first, and HUSK_DISABLED is given only through a husk's virtual function. A doorbell of the physical function for a queue
of a slice that the image's husk may not use finds it disabled. -/
def Obligations.QueueRegistersObeyTheirChecks : Prop :=
  ∀ (s : State) (p : Path) (sl q h : Fin 16) (v : Word), let r := RingRef.slice sl q h
    let x := s.world.ring r
    (∀ port, p = .pf port → s.world.ringPathOk p r = false → s.world.moduleResetting = false →
      s.world.huskState h.val ≠ hsResetting → s.world.huskState h.val ≠ hsDisabling →
      Completes (.tailWrite p r v) s (fun t =>
        t.world.ring r = { x with lastReason := 0x0006, refused := Nat.min 0xFFFF (x.refused + 1) }
        ∧ (∀ k, k ≠ ringKey r → t.dev.rings.get? k = s.dev.rings.get? k) ∧ t.dev.od = s.dev.od ∧ SameMemory s t))
    ∧ (s.world.ringPathOk p r = true → s.world.moduleResetting = false →
    (bitAt v.toNat 0 = true → x.enable = false → s.world.active h.val = true → 4 ≤ fld v.toNat 4 4 → fld v.toNat 4 4 ≤ 12 →
      s.world.ringsPlaced r { x with log2size := fld v.toNat 4 4, producer := bitAt v.toNat 8 } = true →
      Completes (.queueEnable p r v) s (fun t =>
        t.world.ring r = { x with log2size := fld v.toNat 4 4, producer := bitAt v.toNat 8, enable := true, state := 0 }
        ∧ (∀ k, k ≠ ringKey r → t.dev.rings.get? k = s.dev.rings.get? k) ∧ t.dev.od = s.dev.od ∧ SameMemory s t))
    ∧ (bitAt v.toNat 0 = false → x.enable = true →
      Completes (.queueDisable p r v) s (fun t => t.world.ring r = { x with enable := false, producer := bitAt v.toNat 8 }
        ∧ (∀ k, k ≠ ringKey r → t.dev.rings.get? k = s.dev.rings.get? k) ∧ t.dev.od = s.dev.od ∧ SameMemory s t))
    ∧ (v.toNat < x.size → x.dist v.toNat x.cqhead ≤ x.dist x.cqtail x.cqhead →
      Completes (.cqheadWrite p r v) s (fun t => t.world.ring r = { x with cqhead := v.toNat }
        ∧ (∀ k, k ≠ ringKey r → t.dev.rings.get? k = s.dev.rings.get? k) ∧ t.dev.od = s.dev.od ∧ SameMemory s t))
    ∧ (s.world.tailRefusal p r v.toNat = none →
      Completes (.tailWrite p r v) s (fun t => t.world.ring r = { x with tail := v.toNat }
        ∧ (∀ k, k ≠ ringKey r → t.dev.rings.get? k = s.dev.rings.get? k) ∧ t.dev.od = s.dev.od ∧ SameMemory s t))
    ∧ (∀ rs, s.world.tailRefusal p r v.toNat = some rs →
      Completes (.tailWrite p r v) s (fun t =>
        t.world.ring r = { x with lastReason := rs, refused := Nat.min 0xFFFF (x.refused + 1) }
        ∧ (∀ k, k ≠ ringKey r → t.dev.rings.get? k = s.dev.rings.get? k) ∧ t.dev.od = s.dev.od ∧ SameMemory s t))
    ∧ (let st := s.world.huskState h.val
       let vf := ∃ k o, p = .vf k o
       let bad := x.producer = false ∨ x.enable = false ∨ 2 ^ x.log2size ≤ v.toNat
         ∨ (v.toNat + 2 ^ x.log2size - x.head % 2 ^ x.log2size) % 2 ^ x.log2size < (x.tail + 2 ^ x.log2size - x.head % 2 ^ x.log2size) % 2 ^ x.log2size;
       (st = hsResetting ∨ ¬ vf ∧ st = hsDisabling → s.world.tailRefusal p r v.toNat = some 0x0302)
       ∧ (st ≠ hsResetting → vf → st = hsDisabled ∨ st = hsDisabling → s.world.tailRefusal p r v.toNat = some 0x0A03)
       ∧ (st ≠ hsResetting → st ≠ hsDisabling → (¬ vf ∨ st ≠ hsDisabled) → x.enable = true → x.head < x.size → x.tail < x.size →
            (bad → s.world.tailRefusal p r v.toNat = some 0x0006) ∧ (¬ bad → s.world.tailRefusal p r v.toNat = none))
       ∧ (st ≠ hsResetting → st ≠ hsDisabling → ¬ vf → x.enable = false → s.world.tailRefusal p r v.toNat = some 0x0006)))

/-- A husk's virtual function cannot write another husk's queue registers, R333: each of the four register writes leaves the
whole state as it is. -/
def Obligations.ForeignFunctionCannotWriteQueues : Prop :=
  ∀ (s : State) (k h : Fin 16) (port : Fin 2) (sl q : Fin 16) (v : Word) (c : Instr), k ≠ h →
    let p := Path.vf k port
    let r := RingRef.slice sl q h
    (c = .queueEnable p r v ∨ c = .queueDisable p r v ∨ c = .cqheadWrite p r v ∨ c = .tailWrite p r v) →
    exec c s = .next s

/-- The order of a ring, R81 and R83: in every state the registers of an enabled ring that lie inside it stay inside it under
each register write and each completion that a queue command makes of them. -/
def Obligations.QueueIndicesStayInTheRing : Prop :=
  ∀ (s t : State) (c : Instr) (p : Path) (sl q h : Fin 16) (v : Word), let r := RingRef.slice sl q h
    let ok := fun (u : State) => let x := u.world.ring r
      x.enable = true → x.head < x.size ∧ x.tail < x.size ∧ x.cqhead < x.size ∧ x.cqtail < x.size
    (c = .queueDisable p r v ∨ c = .cqheadWrite p r v ∨ c = .tailWrite p r v) → ok s → exec c s = .next t → ok t

/-- Commands taken and completed, R83 and R84. A finished command enters its queue behind those taken before it, with its status
and reason; HEAD moves on by one in the ring; nothing but the ring changes. The oldest taken command of a slice's queue that
has finished, its unit running, leaves the queue; its record, TAG, REASON, STATUS and the tick as R84 lays them out in 16
bytes, goes to the completion ring's tail slot, which moves on. -/
def Obligations.CommandsEnterAndLeaveTheirQueue : Prop :=
  (∀ (w : World) (sl q h : Fin 16) (c : Ctx) (cmd st rs : Nat), let r := RingRef.slice sl q h
    c.ring = r →
    let t := w.finished c cmd st rs
    (t.ring r).taken = (w.ring r).taken ++ [⟨cmd, cmdTag cmd, st, rs, .done, c.husk, c.canonical, c.key, w.now, w.now, 0, [], []⟩]
      ∧ (t.ring r).head = ((w.ring r).head + 1) % (w.ring r).size ∧ (t.ring r).tail = (w.ring r).tail
      ∧ (t.ring r).cqtail = (w.ring r).cqtail ∧ t.log = w.log ∧ t.dev.od = w.dev.od
      ∧ ∀ k, k ≠ ringKey r → t.dev.rings.get? k = w.dev.rings.get? k)
  ∧ ∀ (s : State) (sl q h : Fin 16) (t0 : Taken) (ts : List Taken), let r := RingRef.slice sl q h
    let w := s.world.releaseReaders r
    (w.ring r).taken = t0 :: ts → t0.wait = .done → w.ringUnitRuns r = true →
    Performs (.commandComplete r) s (fun _ =>
      let w1 := w.setRing r { w.ring r with taken := ts }
      let x := w1.ring r
      let record := leBytes 8 (t0.tag + t0.reason * 2 ^ 16 + t0.status * 2 ^ 32) ++ leBytes 8 s.dev.time.tick
      let w2 := w1.ringWrite r (x.cqbase + 16 * x.cqtail) record
      let y := w2.ring r
      (w2.setRing r { y with cqtail := (y.cqtail + 1) % y.size, lastReason := if t0.status = 1 then t0.reason else y.lastReason }).noteIdle r)

/-! ### The matrix engine -/

/-- Matrix-engine commands that compute nothing, R75 and R76: NOP finishes with status 0, CLEAR makes its bank +0 with no
poison; a set reserved bit has either rejected with DESC_FIELD_INVALID. -/
def Obligations.MatrixNopAndClear : Prop :=
  ∀ (s : State) (r : RingRef) (cmd : Nat) (w1 : World), World.isMatrixRing r = true →
    (s.world.takeEntry r (fun x => cmdOp x == 0) = some (cmd, w1) →
      (gReserved cmd = true → Performs (.meNop r) s (fun _ => w1.finished (w1.ctx r) cmd 0 0))
      ∧ (gReserved cmd = false → Performs (.meNop r) s (fun _ => w1.finished (w1.ctx r) cmd 1 0x0003)))
    ∧ (s.world.takeEntry r (fun x => cmdOp x == 4) = some (cmd, w1) → gReserved cmd = true →
      Completes (.clear r) s (fun t => t.world.bank (ringMaster r) (cmdBank cmd) = ⟨.empty, []⟩
        ∧ (∀ b, b ≠ cmdBank cmd → t.world.bank (ringMaster r) b = w1.bank (ringMaster r) b)
        ∧ t.dev.od = w1.dev.od ∧ (s.store.flush w1.log) = t.store))

/-- Products, R76, R78, R85 and R116: a GEMM whose fields and addresses pass, with no piece and no chain set to wait for,
computes into its bank and writes as OUT selects, and is entered with the outcome; one that must wait is entered waiting;
a GEMM_BSTREAM does the same on the tiles that B_ADDR names; a DRAIN writes its bank; a piece that becomes present is noted. -/
def Obligations.MatrixProducts : Prop :=
  (∀ (s : State) (r : RingRef) (cmd : Nat) (w1 : World), World.isMatrixRing r = true →
    s.world.takeEntry r (fun x => cmdOp x == 1) = some (cmd, w1) → w1.gemmFieldFail (w1.ctx r) cmd = none →
    w1.gemmAddrOk (w1.ctx r) cmd = true → let c := w1.ctx r; let ps := w1.piecesNow c cmd
    (w1.productWait c cmd ps = .done → Performs (.gemm r) s (fun _ =>
      let (w2, wait, st, rs) := w1.runProduct c cmd ps (fun w => w.gemmRows c cmd)
      w2.enterProduct c cmd ps wait st rs))
    ∧ (∀ wait, wait ≠ .done → w1.productWait c cmd ps = wait →
        Performs (.gemm r) s (fun _ => w1.enterProduct c cmd ps wait 0 0)))
  ∧ (∀ (s : State) (r : RingRef) (cmd : Nat) (w1 : World) (slot : Nat) (m : MatrixRec) (tr tc : Nat), World.isMatrixRing r = true →
      s.world.takeEntry r (fun x => cmdOp x == 2) = some (cmd, w1) → w1.gemmFieldFail (w1.ctx r) cmd = none →
      w1.bstreamAddrOk (w1.ctx r) cmd = true → let c := w1.ctx r; let ps := w1.piecesNow c cmd
      w1.bstreamCheck c cmd = .inr (slot, m, tr, tc, true) →
      w1.stacksHeld m tr (((if bitAt cmd 31 then gK cmd else gN cmd) + 63) / 64) = false → w1.productWait c cmd ps = .done →
      Performs (.gemmBstream r) s (fun _ =>
        let (w2, wait, st, rs) := w1.runProduct c cmd ps (fun w => w.anyRows c cmd [slot, m.id, tr, tc])
        w2.enterTaken c ⟨cmd, cmdTag cmd, st, rs, wait, c.husk, c.canonical, c.key, w2.now, w2.now, masterIndex c.master % 8, ps, [slot, m.id, tr, tc]⟩))
  ∧ (∀ (s : State) (r : RingRef) (cmd : Nat) (w1 : World), World.isMatrixRing r = true →
      s.world.takeEntry r (fun x => cmdOp x == 3) = some (cmd, w1) → let c := w1.ctx r
      gReserved cmd = true → gRound cmd ≠ 3 → gM cmd ≤ 128 → (gFmtA cmd).isSome = true → (gFmtB cmd).isSome = true → gPair cmd = true →
      (gOut cmd = 2 → (gFmtC cmd).isSome = true) → (gOut cmd = 3 → w1.peerOk c.husk 0x1 (gPeer cmd) = true) →
      (∀ i u, r = .filler i u → gGf cmd = false ∧ (gCinit cmd = 0 ∨ gCinit cmd = 2) ∧ (gOut cmd = 1 ∨ gOut cmd = 2)) →
      w1.gemmOutOk c cmd = true →
      Performs (.drain r) s (fun _ =>
        let bk := w1.bank c.master (cmdBank cmd)
        let (w2, o, sbad) := w1.writeTile c cmd (fun i j => bk.vals.getD (i * 256 + j) f32Zero) (fun i j => bk.bad.elem (i * 256 + j))
        let bad := sbad || (gOut cmd != 0 && (List.range (gM cmd)).any (fun i => (List.range (gN cmd)).any (fun j => bk.bad.elem (i * 256 + j))))
        let (st, rs) := poisonOutcome bad o
        w2.enterProduct c cmd [] (if gOut cmd = 3 then .chainOut else .done) st rs))
  ∧ (∀ (s : State) (r : RingRef) (t0 : Taken) (piece rs : Nat), s.world.takenWith r .feed = some t0 → piece < gPieces t0.cmd →
      t0.pieces.any (fun p => p.1 == piece) = false →
      s.world.flagPresent (s.world.ctxOf r t0) (gFlagAddr t0.cmd + 8 * piece) (gFlagSeq t0.cmd) = some rs →
      let c := (s.world.ctxOf r t0)
      let ps := t0.pieces ++ [(piece, rs)]
      (∀ wt, wt ≠ .done → s.world.productWait c t0.cmd ps = wt → Performs (.gfPiecePresent r piece) s (fun w =>
        w.modTaken r (fun u => u.wait == .feed) (fun u => { u with pieces := ps, wait := wt, status := 0, reason := 0, since := w.now })))
      ∧ (s.world.productWait c t0.cmd ps = .done → Performs (.gfPiecePresent r piece) s (fun w =>
        let (w1, wait, st, rs) := w.underTables r t0.cmd t0.husk (fun w => w.runProduct c t0.cmd ps (fun w => w.anyRows c t0.cmd t0.aux))
        w1.modTaken r (fun u => u.wait == .feed) (fun u =>
          { u with pieces := ps, wait := wait, status := st, reason := rs, since := w1.now }))))
  ∧ (∀ (s : State) (r : RingRef) (t0 : Taken), s.world.takenWith r .feed = some t0 →
      t0.since + s.val oComputeFeedTimeout ≤ s.dev.time.tick →
      Performs (.feedTimeout r) s (fun w => (w.finishWait r .feed 1 0x0005).contained t0.husk (ringMaster r) 0x21 0x0005 (gFlagAddr t0.cmd)))
  ∧ ∀ (s : State) (peer sender : Master) (m n : Nat) (vs : List F32) (bad : List Nat) (w1 : World), masterType sender.toNat ≠ 0xA →
      masterType peer.toNat ≠ 0xA → s.world.chainCmd sender.toNat .chainOut = none →
      s.world.acceptSet peer.toNat ⟨sender.toNat, m, n, vs, bad⟩ = some w1 → Performs (.chainSetArrival peer sender m n vs bad) s (fun _ => w1)

/-! ### The vector engine -/

/-- Elementwise commands, R88: each element of z is the named FP32 operation of the elements of x (and y), poisoned where an
operand it uses is poisoned; z is written with the command's format and rounding, and the command finishes. -/
def Obligations.VectorElementwise : Prop :=
  ∀ (s : State) (r : RingRef) (cmd : Nat) (w1 : World),
    let one (c : Instr) (want imm : Nat → Bool) (f : F32 → F32) : Prop :=
      veReady s.world r want (fun k => VShape.elem k false) imm cmd w1 →
        Performs c s (fun _ => veResult w1 r cmd (VShape.elem cmd false) (fun _ i => vMap i.x i.y (fun x _ => f x) false))
    let two (c : Instr) (want imm : Nat → Bool) (f : F32 → F32 → F32) : Prop :=
      veReady s.world r want (fun k => VShape.elem k true) imm cmd w1 →
        Performs c s (fun _ => veResult w1 r cmd (VShape.elem cmd true) (fun _ i => vMap i.x i.y f true))
    two (.add r) (fun c => cmdOp c == 0x10 && (vImm1 c % 4 == 0 || vImm1 c % 4 == 3)) imm1Three f32Add
      ∧ two (.sub r) (fun c => cmdOp c == 0x10 && vImm1 c % 4 == 1) imm1Three f32Sub
      ∧ two (.mul r) (fun c => cmdOp c == 0x10 && vImm1 c % 4 == 2) imm1Three f32Mul
      ∧ two (.div r) (fun c => cmdOp c == 0x12) (fun _ => true) f32Div
      ∧ one (.sqrt r) (opBit 0x13 0) imm1Bit f32Sqrt ∧ one (.rsqrt r) (opBit 0x13 1) imm1Bit f32Rsqrt
      ∧ two (.max r) (opBit 0x14 0) imm1Bit f32Max ∧ two (.min r) (opBit 0x14 1) imm1Bit f32Min
      ∧ two (.scaleAdd r) (fun c => cmdOp c == 0x15) (fun _ => true)
          (fun x y => f32Add (f32Mul (imm0F cmd) x) (f32Mul (imm1F cmd) y))
      ∧ one (.exp r) (opBit 0x20 0) imm1Bit f32Exp ∧ one (.ln r) (opBit 0x20 1) imm1Bit f32Ln
      ∧ one (.sigmoid r) (fun c => cmdOp c == 0x21) (fun _ => true) (fun x => f32Div f32One (f32Add f32One (f32Exp (f32Neg x))))
      ∧ one (.silu r) (fun c => cmdOp c == 0x22) (fun _ => true) (fun x => f32Div x (f32Add f32One (f32Exp (f32Neg x))))

/-- Row commands, R62 and R88: a reduction gives one value per row, poisoned when any element of the row is; RMSNORM, SOFTMAX
and LOGSOFTMAX give a row from a row; FMA reads and writes z; CONVERT narrows once; TRANSPOSE turns rows into columns;
ROPE rotates pairs, its unpaired element a free value (log entry 12). -/
def Obligations.VectorRows : Prop :=
  ∀ (s : State) (r : RingRef) (cmd : Nat) (w1 : World),
    let run (c : Instr) (want imm : Nat → Bool) (sh : Nat → VShape) (f : VIn → ZRows) : Prop :=
      veReady s.world r want sh imm cmd w1 → Performs c s (fun _ => veResult w1 r cmd (sh cmd) (fun _ i => f i))
    let any := fun _ : Nat => true
    run (.rowSum r) (opBit 0x30 0) imm1Bit (fun k => VShape.reduce k false)
        (fun i => vReduce i.x (fun vs => valF32 (canonicalDot f32Zero 0 (vs.map (fun v => (v, Val.fin false 1 0))))))
      ∧ run (.rowSumsq r) (opBit 0x30 1) imm1Bit (fun k => VShape.reduce k false)
        (fun i => vReduce i.x (fun vs => valF32 (canonicalDot f32Zero 0 (vs.map (fun v => (v, v))))))
      ∧ run (.rowMax r) (opBit 0x31 0) imm1Bit (fun k => VShape.reduce k false)
        (fun i => vReduce i.x (fun vs => valF32 (f32MaxOf (vs.map Val.f32))))
      ∧ run (.rowArgmax r) (opBit 0x31 1) imm1Bit (fun k => VShape.reduce k true)
        (fun i => vReduce i.x (fun vs => .fin false (argmaxOf (vs.map Val.f32)) 0))
      ∧ run (.rmsnorm r) (fun c => cmdOp c == 0x32) any (fun k => VShape.elem k true) (fun i =>
          ((List.range i.x.length).zip i.x).map (fun p =>
            ((p.2.vals.zip ((i.y[p.1]?).getD ⟨[], [], []⟩).vals).map (fun q => valF32 (f32Mul (f32Mul q.1.f32
              (f32Rsqrt (f32Add (f32Div (sumSquares p.2.vals) (f32OfNat (vCols cmd))) (imm0F cmd)))) q.2.f32)),
             (p.2.vals.zip ((i.y[p.1]?).getD ⟨[], [], []⟩).bad).map (fun q => p.2.bad.any id || q.2))))
      ∧ run (.softmax r) (opBit 0x33 0) imm1Bit (fun k => VShape.elem k false) (fun i => vRowMap i.x [] (fun x _ =>
          x.map (fun z => f32Div (f32Exp (f32Sub z (logSumParts x).1)) (logSumParts x).2)))
      ∧ run (.logsoftmax r) (opBit 0x33 1) imm1Bit (fun k => VShape.elem k false) (fun i => vRowMap i.x [] (fun x _ =>
          x.map (fun z => f32Sub (f32Sub z (logSumParts x).1) (f32Ln (logSumParts x).2))))
      ∧ run (.convert r) (fun c => cmdOp c == 0x40) any (fun k => VShape.elem k false) (fun i => i.x.map (fun q => (q.vals, q.bad)))
      ∧ run (.transpose r) (fun c => cmdOp c == 0x42) any (fun k => { VShape.elem k false with zRows := vCols k, zCols := vRows k })
          (fun i => (List.range (vCols cmd)).map (fun k =>
            (i.x.map (fun q => (q.vals[k]?).getD (.fin false 0 0)), i.x.map (fun q => q.bad.getD k false))))
      ∧ run (.fma r) (fun c => cmdOp c == 0x11) any (fun k => { VShape.elem k true with zin := true }) (fun i =>
          ((List.range i.x.length).zip i.x).map (fun p =>
            ((List.range p.2.vals.length).map (fun j => valF32 (f32Fma (f32At i.x p.1 j) (f32At i.y p.1 j) (f32At i.z p.1 j))),
             (List.range p.2.vals.length).map (fun j => badAt i.x p.1 j || badAt i.y p.1 j || badAt i.z p.1 j))))
      ∧ run (.rope r) (fun c => cmdOp c == 0x23) any (fun k => VShape.elem k true) (fun i =>
          ((List.range i.x.length).zip i.x).map (fun p =>
            let yr := (i.y[p.1]?).getD ⟨[], [], []⟩
            ((ropeRow (p.2.vals.map Val.f32) (yr.vals.map Val.f32)).map valF32,
             (List.range p.2.vals.length).map (fun j =>
               let q := j / 2 * 2
               p.2.bad.getD q false || p.2.bad.getD (q + 1) false || yr.bad.getD q false || yr.bad.getD (q + 1) false))))

/-- Random, gathering and quantizing commands, R51, R88, R227 to R233: each random element is a function of the husk's key and
the element's counter alone; GATHER copies the rows its indices name, SCATTER_ADD adds each row into the row its index names in ascending
order, and G8E_QUANT writes each row's blocks and its residuals, counting the blocks of scale 0xFF. -/
def Obligations.VectorRandomAndGather : Prop :=
  ∀ (s : State) (r : RingRef) (cmd : Nat) (w1 : World),
    (veReady s.world r (opBit 0x50 0) VShape.gen (fun k => decide (vImm1 k < 8)) cmd w1 →
      Performs (.rngUniform r) s (fun _ => veResult w1 r cmd (VShape.gen cmd) (fun _ _ => vGenerate cmd (fun ctr =>
        let w0 := rngWord 0 (rngBlock (w1.ctx r).key ctr)
        if bitAt (vImm1 cmd) 1 then openOf w0 else uniformOf w0))))
    ∧ (veReady s.world r (opBit 0x50 1) VShape.gen (fun k => decide (vImm1 k < 8)) cmd w1 →
      Performs (.rngNormal r) s (fun _ =>
        let key := (w1.ctx r).key
        let lost := ((List.range (vRows cmd)).map (fun m =>
          ((List.range (vCols cmd)).filter (fun n => (normalOf cmd key (vCtr cmd m n)).isNone)).length)).foldl Nat.add 0
        (veResult w1 r cmd (VShape.gen cmd) (fun _ _ => vGenerate cmd (fun ctr => (normalOf cmd key ctr).getD f32Zero))).inc
          (oRngZigguratExhausted (w1.ctx r).slice) lost))
    ∧ (veReady s.world r (opBit 0x51 0) VShape.gen imm1Bit cmd w1 →
      Performs (.rngBernoulli r) s (fun _ => veResult w1 r cmd (VShape.gen cmd) (fun _ _ => vGenerate cmd (fun ctr =>
        if stochasticU (w1.ctx r).key ctr < vImm0 cmd % 65536 then f32One else f32Zero))))
    ∧ (veReady s.world r (opBit 0x51 1) (fun k => VShape.elem k false) imm1Bit cmd w1 →
      Performs (.dropout r) s (fun _ => veResult w1 r cmd (VShape.elem cmd false) (fun _ i =>
        let p := vImm0 cmd % 65536
        let k := f32Div f32One (f32Sub f32One ((Val.fin false p (-16)).f32))
        ((List.range i.x.length).zip i.x).map (fun q =>
          ((List.range q.2.vals.length).map (fun n =>
            let keep := if p ≤ stochasticU (w1.ctx r).key (vCtr cmd q.1 n) then f32One else f32Zero
            valF32 (f32Mul (f32Mul (f32At [q.2] 0 n) keep) k)), q.2.bad)))))
    ∧ (isVectorRing r = true → let c := w1.ctx r
      (s.world.takeEntry r (fun x => cmdOp x == 0x43) = some (cmd, w1) →
        let sh : VShape := ⟨false, true, false, vCols cmd, 1, vRows cmd, vRows cmd, vCols cmd, false, true⟩
        let fx := (vFmtX cmd).getD .f32
        let (i, w2) := w1.veRead c cmd sh
        let idx := ((i.y.map (fun q => q.vals.zip q.bad)).flatten).map (fun p => (valNat p.1, p.2))
        World.veFieldFail cmd { sh with x := true } true = none → w1.veAddrOk c cmd sh = true → vAddrX cmd % 32 = 0 →
        idx.any (fun p => !p.2 && !w2.inScratch c.husk c.slice (vAddrX cmd + p.1 * vLdx cmd * 32) (fx.rowBytes (vCols cmd)) .rd) = false →
        Performs (.gather r) s (fun _ =>
          let (rows, w3) := idx.foldl (fun (st : List Row × World) p =>
            if p.2 then (st.1 ++ [⟨List.replicate (vCols cmd) (.fin false 0 0), List.replicate (vCols cmd) true, []⟩], st.2)
            else
              let (q, w') := st.2.readRow c fx (vAddrX cmd + p.1 * vLdx cmd * 32) (vCols cmd)
              (st.1 ++ [q], w')) ([], w2)
          let (st, rs) := poisonOutcome (rowsBad rows) (rowsOrigins i.y ++ rowsOrigins rows)
          (w3.veWrite c cmd sh (rows.map (fun q => (q.vals, q.bad)))).finished c cmd st rs))
      ∧ (s.world.takeEntry r (fun x => cmdOp x == 0x44) = some (cmd, w1) →
        let sh : VShape := ⟨true, true, false, vCols cmd, 1, vRows cmd, 0, vCols cmd, false, true⟩
        let (i, w2) := w1.veRead c cmd sh
        let idx := ((i.y.map (fun q => q.vals.zip q.bad)).flatten).map (fun p => (valNat p.1, p.2))
        World.veFieldFail cmd { sh with zin := true } true = none → w1.veAddrOk c cmd sh = true → vAddrZ cmd % 32 = 0 →
        idx.any (fun p => !p.2 && !w2.inScratch c.husk c.slice (vAddrZ cmd + p.1 * vLdz cmd * 32)
          (((vFmtZ cmd).getD .f32).rowBytes (vCols cmd)) .wr) = false →
        Performs (.scatterAdd r) s (fun _ =>
          let fz := (vFmtZ cmd).getD .f32
          let (w3, bad, os) := ((List.range idx.length).zip idx).foldl (fun (st : World × Bool × List Nat) p =>
            if p.2.2 then (st.1, true, st.2.2)
            else
              let va := vAddrZ cmd + p.2.1 * vLdz cmd * 32
              let (z, w') := st.1.readRow c fz va (vCols cmd)
              let xr := (i.x[p.1]?).getD ⟨[], [], []⟩
              let bs := (List.range (vCols cmd)).map (fun j => z.bad.getD j false || xr.bad.getD j false)
              (w'.writeRow c fz va ((List.range (vCols cmd)).map (fun j => valF32 (f32Add (f32At [z] 0 j) (f32At [xr] 0 j)))) bs
                (World.rowRounds c (vRound cmd) (gStream cmd) (gCtr cmd + (gRow0 cmd + p.2.1) * gLdlog cmd + gCol0 cmd) (vCols cmd)),
               st.2.1 || bs.any id, st.2.2 ++ z.origins)) (w2, false, [])
          let (st, rs) := poisonOutcome bad (rowsOrigins i.x ++ rowsOrigins i.y ++ os)
          w3.finished c cmd st rs))
      ∧ (s.world.takeEntry r (fun x => cmdOp x == 0x41) = some (cmd, w1) →
        vFmtX cmd = some .bf16 → vFmtY cmd = some .bf16 → vFmtZ cmd = some .g8e →
        World.veFieldFail cmd (VShape.elem cmd true) true = none → w1.veAddrOk c cmd (VShape.elem cmd true) = true →
        w1.operandOk c .bf16 (vAddrY cmd) (vLdy cmd) (vRows cmd) (vCols cmd) .wr = true →
        Performs (.g8eQuant r) s (fun _ =>
          let (i, w2) := w1.veRead c cmd (VShape.elem cmd true)
          let n := vCols cmd
          let nb := (n + 15) / 16
          let (w3, bad) := ((List.range i.x.length).zip i.x).foldl (fun (st : World × Bool) p =>
            let yr := (i.y[p.1]?).getD ⟨[], [], []⟩
            let rs := World.rowRounds c (vRound cmd) (gStream cmd) (gCtr cmd + (gRow0 cmd + p.1) * gLdlog cmd + gCol0 cmd) n
            let blocks := ((chunksOf 16 nb p.2.vals).zip ((chunksOf 16 nb yr.vals).zip (chunksOf 16 nb rs))).map
              (fun b => g8eBlock b.1 b.2.1 b.2.2)
            let eb := (List.range n).map (fun j => p.2.bad.getD j false || yr.bad.getD j false)
            let bb := (List.range n).map (fun j => ((eb.drop (j / 16 * 16)).take 16).any id)
            let pad := List.range 32
            let data := ((chunksOf 32 ((nb + 31) / 32) blocks).map (fun g =>
              pad.map (fun k => BitVec.ofNat 8 (((g[k]?).map (fun b => b.1)).getD 0x7F))
                ++ (pad.map (fun k => leBytes 16 (packBits 8 (((g[k]?).map (fun b => b.2.1)).getD [])))).flatten)).flatten
            let zb := badBytes .g8e bb data.length
            let va := vAddrZ cmd + p.1 * vLdz cmd * 32
            let w' := (st.1.writeVirt c.husk c.master 2 va (maskBad va data zb) zb).2
            let res := ((blocks.map (fun b => (b.2.2.map (fun k => leBytes 2 k)).flatten))).flatten
            let yb := badBytes .bf16 bb res.length
            let yva := vAddrY cmd + p.1 * vLdy cmd * 32
            let w'' := (w'.writeVirt c.husk c.master 2 yva (maskBad yva res yb) yb).2
            (w''.inc (oHuskGradNanBlocks c.husk) (blocks.filter (fun b => b.1 == 0xFF)).length, st.2 || eb.any id)) (w2, false)
          let (st, rs) := poisonOutcome bad (rowsOrigins i.x ++ rowsOrigins i.y)
          w3.finished c cmd st rs)))

/-- Poison of elementwise results, R79: element j of row i of z is poisoned exactly when element j of row i of x is, or the
command uses y and that element of y is; and z has x's shape. -/
def Obligations.ElementwisePoisonIsExact : Prop :=
  ∀ (x y : List Row) (f : F32 → F32 → F32) (useY : Bool),
    (vMap x y f useY).length = x.length
    ∧ ∀ (i : Nat) (q : Row), x[i]? = some q → ∃ z, (vMap x y f useY)[i]? = some z ∧ z.1.length = q.vals.length ∧ z.2.length = q.vals.length
        ∧ ∀ j, j < q.vals.length → (z.2[j]?).getD false = (q.bad.getD j false || (useY && badAt y i j))

/-! ### Pips, caches and accesses -/

/-- The pip's queue instructions, R91 and R92. XQ_PUSH makes the pip's earlier stores visible and reads 128 bytes; to a usable,
enabled ring whose PRODUCER is 0 and which has room it writes them at the tail and answers the tail it advanced, or it answers
-2, -3 or -1 and counts a refusal; XQ_POLL takes the oldest record, or answers all ones; XQ_WAIT answers 1 or waits (what XQ_POLL
and XQ_WAIT do on a queue that the pip may not use is the model's choice, log entry 151). -/
def Obligations.PipQueueInstructions : Prop :=
  ∀ (s : State) (p : Fin 4096) (rd rs1 rs2 : Fin 32), s.world.pipRuns p.val = true →
    let h := Fin.ofNat 16 (s.world.pipHusk p.val)
    let x := s.world.pip p.val
    (∀ d w1, (s.world.storesVisible p.val).pipRead p.val h.val (x.getX rs2.val).toNat 128 .rd 1 = ((d, true), w1) →
      (World.queueOperand (x.getX rs1.val) h = none →
        Performs (.xqPush p rd rs1 rs2) s (fun _ => w1.ret p.val rd.val (BitVec.ofInt 64 (-2))))
      ∧ ∀ r, World.queueOperand (x.getX rs1.val) h = some r → let q := w1.ring r
        let refuse := fun (w2 : World) (n : Int) =>
          Performs (.xqPush p rd rs1 rs2) s (fun _ => (w2.setRing r { w2.ring r with refused := Nat.min 0xFFFF ((w2.ring r).refused + 1) }).ret
            p.val rd.val (BitVec.ofInt 64 n))
        ((w1.queueUsable r = false ∨ q.enable = false) → refuse w1 (-2))
        ∧ (w1.queueUsable r = true → q.enable = true → q.producer = true → refuse w1 (-3))
        ∧ (w1.queueUsable r = true → q.enable = true → q.producer = false → q.dist (q.tail + 1) q.head = 0 → refuse w1 (-1))
        ∧ ∀ ok w2, w1.queueUsable r = true → q.enable = true → q.producer = false → q.dist (q.tail + 1) q.head ≠ 0 →
            w1.writeVirt h.val (masterId 0x2 p.val) 2 (q.qbase + 128 * q.tail) d.data d.bad = (ok, w2) →
            (ok = false → refuse w2 (-2))
            ∧ (ok = true → Performs (.xqPush p rd rs1 rs2) s (fun _ =>
                (w2.setRing r { w2.ring r with tail := (q.tail + 1) % q.size }).ret p.val rd.val (BitVec.ofNat 64 q.tail))))
    ∧ (∀ d w1, (s.world.storesVisible p.val).pipRead p.val h.val (x.getX rs2.val).toNat 128 .rd 1 = ((d, false), w1) →
        Performs (.xqPush p rd rs1 rs2) s (fun _ => w1.trap p.val 5 (x.getX rs2.val)))
    ∧ (World.queueOperand (x.getX rs1.val) h = none →
        Performs (.xqPoll p rd rs1) s (fun w => w.ret p.val rd.val (BitVec.allOnes 64)))
    ∧ (∀ r, World.queueOperand (x.getX rs1.val) h = some r → let q := s.world.ring r
      (s.world.queueUsable r = true → q.cqhead ≠ q.cqtail →
        ∀ d ok w1, s.world.readVirt h.val (masterId 0x2 p.val) 1 (q.cqbase + 16 * q.cqhead) 8 = ((d, ok), w1) →
        (ok = true → Performs (.xqPoll p rd rs1) s (fun _ =>
          (w1.setRing r { w1.ring r with cqhead := (q.cqhead + 1) % q.size }).ret p.val rd.val (BitVec.ofNat 64 d.nat)))
        ∧ (ok = false → Performs (.xqPoll p rd rs1) s (fun _ => w1.trap p.val 5 (BitVec.ofNat 64 (q.cqbase + 16 * q.cqhead)))))
      ∧ ((s.world.queueUsable r = false ∨ q.cqhead = q.cqtail) →
        Performs (.xqPoll p rd rs1) s (fun w => w.ret p.val rd.val (BitVec.allOnes 64))))
    ∧ (s.world.waitRecord p.val (x.getX rs1.val).toNat = true → Completes (.xqWait p rd rs1 rs2) s (fun t =>
        t.world.pip p.val = (x.setX rd.val 1).next ∧ t.dev.rings = s.dev.rings ∧ t.dev.od = s.dev.od ∧ SameMemory s t))
    ∧ (s.world.waitRecord p.val (x.getX rs1.val).toNat = false → Completes (.xqWait p rd rs1 rs2) s (fun t =>
        t.world.pip p.val = { x with waiting := 1, waitRd := rd.val, waitA := (x.getX rs1.val).toNat,
                                     waitB := (x.getX rs2.val).toNat, waitSince := s.dev.time.tick }
        ∧ t.dev.rings = s.dev.rings ∧ t.dev.od = s.dev.od ∧ SameMemory s t))

/-- The pip's barriers, atomic words, pre-emption points, wakes and traps, R90, R91, R93, R94 and R96, with what rd takes and what
else changes. A pip that waits for a record, a generation or a word wakes with its value when the condition holds; XQ_WAIT's
limit passes with 0; the illegal-instruction trap is RISC-V's (PRESUMED, log entry 14); what rd takes from a barrier that does not
exist is a free value (log entry 15). -/
def Obligations.PipBarriersWakesAndTraps : Prop :=
  (∀ (s : State) (p : Fin 4096) (rd rs1 rs2 : Fin 32), s.world.pipRuns p.val = true →
    let h := s.world.pipHusk p.val
    let x := s.world.pip p.val
    let b := (x.getX rs1.val).toNat
    let v := (x.getX rs2.val).toNat
    let bar := s.world.barrier h b
    let same (t : State) : Prop := t.dev.od = s.dev.od ∧ t.dev.rings = s.dev.rings ∧ t.dev.coh = s.dev.coh ∧ SameMemory s t
    let open' (t : State) : Prop := (∃ r : Word, t.world.pip p.val = (x.setX rd.val r).next) ∧ t.dev.barriers = s.dev.barriers ∧ same t
    (b < 64 → 1 ≤ v → v ≤ 4096 → bar.arrivals = 0 → Completes (.xbInit p rd rs1 rs2) s (fun t =>
        t.world.pip p.val = (x.setX rd.val 0).next ∧ t.world.barrier h b = ⟨v, 0, 0⟩ ∧ same t))
    ∧ (b < 64 → 1 ≤ v → v ≤ 4096 → bar.arrivals ≠ 0 → Completes (.xbInit p rd rs1 rs2) s (fun t =>
        t.world.pip p.val = (x.setX rd.val (BitVec.ofInt 64 (-1))).next ∧ t.dev.barriers = s.dev.barriers ∧ same t))
    ∧ ((64 ≤ b ∨ v = 0 ∨ 4096 < v) → Completes (.xbInit p rd rs1 rs2) s open')
    ∧ (b < 64 → bar.arrivals + 1 ≠ bar.count → Completes (.xbArrive p rd rs1) s (fun t =>
        t.world.pip p.val = (x.setX rd.val (BitVec.ofNat 64 bar.gen)).next
        ∧ t.world.barrier h b = { bar with arrivals := bar.arrivals + 1 } ∧ same t))
    ∧ (b < 64 → bar.arrivals + 1 = bar.count → Completes (.xbArrive p rd rs1) s (fun t =>
        t.world.pip p.val = (x.setX rd.val (BitVec.ofNat 64 bar.gen)).next
        ∧ t.world.barrier h b = { bar with arrivals := 0, gen := (bar.gen + 1) % 2 ^ 64 } ∧ same t))
    ∧ (64 ≤ b → Completes (.xbArrive p rd rs1) s open')
    ∧ (b < 64 → v < bar.gen → Completes (.xbWait p rd rs1 rs2) s (fun t =>
        t.world.pip p.val = (x.setX rd.val (BitVec.ofNat 64 bar.gen)).next ∧ t.dev.barriers = s.dev.barriers ∧ same t))
    ∧ (b < 64 → bar.gen ≤ v → Completes (.xbWait p rd rs1 rs2) s (fun t =>
        t.world.pip p.val = { x with waiting := 2, waitRd := rd.val, waitA := b, waitB := v, waitSince := s.dev.time.tick }
        ∧ t.dev.barriers = s.dev.barriers ∧ same t))
    ∧ (64 ≤ b → Completes (.xbWait p rd rs1 rs2) s open')
    ∧ (∀ pa w1, b % 8 = 0 → s.world.scratchWord p.val b .atomic = (some pa, w1) →
        Performs (.xeAdd p rd rs1 rs2) s (fun _ =>
          (w1.writeStored pa (leBytes 8 ((w1.num pa 8 + v) % 2 ^ 64)) (List.replicate 8 (w1.poisoned pa)) 0).ret p.val rd.val
            (BitVec.ofNat 64 (w1.num pa 8))))
    ∧ (∀ w1, b % 8 = 0 → s.world.scratchWord p.val b .atomic = (none, w1) →
        Performs (.xeAdd p rd rs1 rs2) s (fun _ => w1.trap p.val 7 (x.getX rs1.val)))
    ∧ (∀ pa w1, b % 8 = 0 → s.world.scratchWord p.val b .rd = (some pa, w1) →
        (v ≤ w1.num pa 8 → Performs (.xeWait p rd rs1 rs2) s (fun _ => w1.ret p.val rd.val (BitVec.ofNat 64 (w1.num pa 8))))
        ∧ (w1.num pa 8 < v → Performs (.xeWait p rd rs1 rs2) s (fun _ => w1.setPip p.val
            { w1.pip p.val with waiting := 3, waitRd := rd.val, waitA := pa, waitB := v, waitSince := w1.now })))
    ∧ (∀ w1, b % 8 = 0 → s.world.scratchWord p.val b .rd = (none, w1) →
        Performs (.xeWait p rd rs1 rs2) s (fun _ => w1.trap p.val 5 (x.getX rs1.val)))
    ∧ (b % 8 ≠ 0 → Performs (.xeAdd p rd rs1 rs2) s (fun w => w.trap p.val 6 (x.getX rs1.val))
        ∧ Performs (.xeWait p rd rs1 rs2) s (fun w => w.trap p.val 4 (x.getX rs1.val)))
    ∧ (s.world.preemptPending (pipSlice p.val) = false → Completes (.xpPoint p rs1 rs2) s (fun t =>
        t.world.pip p.val = x.next ∧ t.dev.barriers = s.dev.barriers ∧ t.dev.cycle = s.dev.cycle ∧ same t))
    ∧ (s.world.preemptPending (pipSlice p.val) = true → Completes (.xpPoint p rs1 rs2) s (fun t =>
        t.world.pip p.val = { x.next with waiting := 4 } ∧ t.dev.barriers = s.dev.barriers ∧ t.dev.od = s.dev.od ∧ t.dev.rings = s.dev.rings
        ∧ (∀ k, k ∈ bitsOf (v >>> 32) 16 → pipSlice p.val * 16 + k ∈ t.dev.cycle.live)
        ∧ SameMemory (s.run (fun w => w.saveBytes h (World.saveBase h (pipSlice p.val) + 0x1000 + p.val % 256 * 2624)
            (World.pipImage x.next b v))) t)))
  ∧ ∀ (s : State) (p : Fin 4096), let x := s.world.pip p.val
    let woken (v : Word) (t : State) : Prop := t.world.pip p.val = ({ x with waiting := 0 }.setX x.waitRd v).next
      ∧ t.dev.rings = s.dev.rings ∧ t.dev.barriers = s.dev.barriers ∧ t.dev.od = s.dev.od ∧ SameMemory s t
    (x.waiting = 1 → s.world.waitRecord p.val x.waitA = true → Completes (.waitWake p) s (woken 1))
    ∧ (x.waiting = 2 → x.waitB < (s.world.barrier (s.world.pipHusk p.val) x.waitA).gen →
        Completes (.waitWake p) s (woken (BitVec.ofNat 64 (s.world.barrier (s.world.pipHusk p.val) x.waitA).gen)))
    ∧ (x.waiting = 3 → x.waitB ≤ s.world.num x.waitA 8 →
        Completes (.waitWake p) s (woken (BitVec.ofNat 64 (s.world.num x.waitA 8))))
    ∧ (x.waiting = 1 → x.waitSince + x.waitB ≤ s.dev.time.tick → Completes (.xqWaitTimeout p) s (woken 0))
    ∧ ∀ insn : BitVec 32, s.world.pipRuns p.val = true → (fld insn.toNat 0 7 ≠ 0b0001011 ∨ xplaosListed insn.toNat = false) →
        let rest (t : State) : Prop := (t.world.pip p.val).x = x.x ∧ t.dev.rings = s.dev.rings ∧ t.dev.od = s.dev.od ∧ SameMemory s t
        ((3 ≤ x.mode ∨ bitAt x.medeleg.toNat 2 = false) → Completes (.illegalInstruction p insn) s (fun t =>
          (t.world.pip p.val).mepc = x.pc ∧ (t.world.pip p.val).mcause = 2 ∧ (t.world.pip p.val).mtval = insn.zeroExtend 64
          ∧ (t.world.pip p.val).mode = 3 ∧ (t.world.pip p.val).pc = BitVec.ofNat 64 (x.mtvec.toNat / 4 * 4) ∧ rest t))
        ∧ (x.mode < 3 → bitAt x.medeleg.toNat 2 = true → Completes (.illegalInstruction p insn) s (fun t =>
          (t.world.pip p.val).sepc = x.pc ∧ (t.world.pip p.val).scause = 2 ∧ (t.world.pip p.val).stval = insn.zeroExtend 64
          ∧ (t.world.pip p.val).mode = 1 ∧ (t.world.pip p.val).pc = BitVec.ofNat 64 (x.stvec.toNat / 4 * 4) ∧ rest t))

/-- The coherence of cluster caches, R97 to R101. A request that a cluster sends is served when no earlier one waits, no writeback is in
flight and the home needs nothing of the host: GETM makes the cluster the owner in M and takes every other copy away; GETS gives E
when no cluster holds the line (never of an acorn line), S otherwise, and an owner's M data goes to memory. Of the requests of one
cycle the first after P wins, P moves past it, and the others queue. A request behind others queues too, and a host line that the home
does not hold is asked of the host. PUTM puts the writeback in flight, WRITEBACK_LANDS stores its data, PUTE gives a clean line up,
a host snoop downgrades or invalidates the copies, and NEXT_OWNER_FORWARD grants the next request. Where a cluster's L2 is full
another of its lines leaves it (the model's choice which, log entry 152); `room` says that it is not.
MEMORY_ACCESS, R36 to R45 and R90: what a master's access of each kind reads and stores. A unit goes through its husk's page table; a
master without one names physical addresses; a host function reaches its dictionary window (where it stands is the model's
choice, log entry 156), a virtual function no memory; a pip's access within one page goes through its caches, and traps when its walk
faults. (A poisoned read that no unit has reported reports ACCESS's contained error; it is not this statement's.) -/
def Obligations.CoherenceAndAccesses : Prop :=
  (∀ (s : State) (c : Fin 128) (line : BitVec 48), let l := line.toNat / 64
    let w := s.world
    let d := w.dirLine l
    let mem : LineCopy := ⟨.s, w.lineBytes l, w.keyOf (l * 64)⟩
    let room (k : Nat) : Prop := (s.dev.coh.copies.items.filter (fun x => x.1 % 128 == k && x.1 / 128 != l)).length < World.l2Lines
    let served (own : Bool) : Prop := cacheableLine line.toNat = true ∧ (w.homeOf (w.clusterHusk c.val) line.toNat).isSome
      ∧ w.sends l (c.val, own) = true ∧ d.writeback = none ∧ d.queue = [] ∧ w.hostNeeded l own = false
    let wrote (x : LineCopy) (t : State) : Prop :=
      SameMemory (s.run (fun w => if x.state = .m then w.storeLine l x.bytes x.key else w)) t
    (served true → Completes (.getm c line []) s (fun t =>
        t.world.dirLine l = { d with owner := some c.val, sharers := if d.owner.isNone then [] else d.sharers } ∧ t.dev.od = s.dev.od
        ∧ (d.owner = none → t.world.copy? l c.val = some { mem with state := .m }
            ∧ ∀ k, k ∈ d.sharers → k ≠ c.val → t.world.copy? l k = none)
        ∧ (∀ o, d.owner = some o → t.world.copy? l c.val = some { (w.copy? l o).getD mem with state := .m }
            ∧ (o ≠ c.val → t.world.copy? l o = none))
        ∧ (room c.val → SameMemory s t)))
    ∧ (served false → d.owner = none → d.sharers = [] → acornLine (l * 64) = false → (World.hostLine l = false ∨ d.host = 2) →
        Completes (.gets c line []) s (fun t => t.world.dirLine l = { d with owner := some c.val }
          ∧ t.world.copy? l c.val = some { mem with state := .e } ∧ t.dev.od = s.dev.od ∧ (room c.val → SameMemory s t)))
    ∧ (served false → d.owner = none →
        (d.sharers ≠ [] ∨ acornLine (l * 64) = true ∨ (World.hostLine l = true ∧ d.host ≠ 2)) →
        Completes (.gets c line []) s (fun t => t.world.dirLine l = { d with sharers := setInsert c.val d.sharers }
          ∧ t.world.copy? l c.val = some mem ∧ t.dev.od = s.dev.od ∧ (room c.val → SameMemory s t)))
    ∧ (∀ o, served false → d.owner = some o → o < 128 → let x := (w.copy? l o).getD mem
        Completes (.gets c line []) s (fun t =>
          t.world.dirLine l = { d with owner := none, sharers := setInsert o (setInsert c.val d.sharers) }
          ∧ t.world.copy? l c.val = some { x with state := .s } ∧ t.world.copy? l o = some { x with state := .s }
          ∧ t.dev.od = s.dev.od ∧ (room c.val → wrote x t)))
    ∧ (∀ own, w.sends l (c.val, own) = false → Completes (if own then .getm c line [] else .gets c line []) s (fun t =>
        t.dev = s.dev ∧ SameMemory s t))
    ∧ (∀ own others home q more a b rest, cacheableLine line.toNat = true →
        ((c.val, own) :: others.map (fun (x : CohReq) => (x.cluster.val, x.own))).filter (fun q => w.sends l q) = q :: more →
        w.homeOf (w.clusterHusk q.1) line.toNat = some home →
        orderReqs (s.val (oCoherencePointer home)) (q :: more) = a :: b :: rest →
        Completes (if own then .getm c line others else .gets c line others) s (fun t =>
          t.val (oCoherencePointer home) = (a.1 + 1) % 128 ∧ SameObjectsBut [oCoherencePointer home] s t
          ∧ (d.writeback = none → d.queue = [] → w.hostNeeded l a.2 = false → (t.world.dirLine l).queue = b :: rest
              ∧ (t.world.copy? l a.1).isSome = true)
          ∧ ((d.writeback.isSome ∨ d.queue ≠ []) → t.world.dirLine l = { d with queue := d.queue ++ a :: b :: rest }
              ∧ t.dev.coh.copies = s.dev.coh.copies ∧ SameMemory s t)))
    ∧ (∀ own, cacheableLine line.toNat = true → (w.homeOf (w.clusterHusk c.val) line.toNat).isSome → w.sends l (c.val, own) = true →
        ((d.writeback.isSome ∨ d.queue ≠ []) → Completes (if own then .getm c line [] else .gets c line []) s (fun t =>
          t.world.dirLine l = { d with queue := d.queue ++ [(c.val, own)] } ∧ t.dev.coh.copies = s.dev.coh.copies ∧ t.dev.od = s.dev.od
          ∧ SameMemory s t))
        ∧ (∀ port, d.writeback = none → d.queue = [] → w.hostNeeded l own = true → regionOf (l * 64) = .tier3 port → w.portCarries port = true →
          s.dev.t3.vals.any (fun a => a.user == 5 && a.addr == l * 64) = false →
          Completes (if own then .getm c line [] else .gets c line []) s (fun t => t.dev.t3 = s.dev.t3.put s.dev.t3.fresh
              ⟨port, false, l * 64, 64, masterId 0x2 (c.val * 32), w.clusterHusk c.val, 5, c.val, [], if own then 2 else 1⟩
            ∧ t.world.dirLine l = { d with queue := [(c.val, own)] } ∧ t.dev.coh.copies = s.dev.coh.copies ∧ t.dev.od = s.dev.od
            ∧ SameMemory s t)))
    ∧ (∀ x, w.copy? l c.val = some x → d.owner = some c.val → d.writeback = none →
      (x.state = .m → Completes (.putm c line) s (fun t =>
        t.world.dirLine l = { d with writeback := some c.val, wbData := x.bytes, wbKey := x.key }
        ∧ t.dev.coh.copies = s.dev.coh.copies ∧ t.dev.od = s.dev.od ∧ SameMemory s t))
      ∧ (x.state = .e → Completes (.pute c line) s (fun t =>
        t.world.dirLine l = { d with owner := none, host := 0 } ∧ t.world.copy? l c.val = none
        ∧ (∀ k, k ≠ copyKey l c.val → t.dev.coh.copies.get? k = s.dev.coh.copies.get? k) ∧ t.dev.od = s.dev.od ∧ SameMemory s t)))
    ∧ (∀ o, d.writeback = some o → let stored := s.run (fun w => w.storeLine l d.wbData d.wbKey)
        (d.queue = [] → Completes (.writebackLands line) s (fun t => t.world.dirLine l = DirLine.init ∧ t.world.copy? l o = none
          ∧ (∀ k, k ≠ copyKey l o → t.dev.coh.copies.get? k = s.dev.coh.copies.get? k) ∧ t.dev.od = s.dev.od ∧ SameMemory stored t))
        ∧ ∀ k own rest, d.queue = (k, own) :: rest → World.hostLine l = false → acornLine (l * 64) = false →
          Completes (.writebackLands line) s (fun t => t.world.dirLine l = { DirLine.init with owner := some k, queue := rest }
            ∧ t.world.copy? l k = some ⟨if own then .m else .e, stored.world.lineBytes l, stored.world.keyOf (l * 64)⟩
            ∧ (k ≠ o → t.world.copy? l o = none) ∧ t.dev.od = s.dev.od ∧ (room k → SameMemory stored t)))
    ∧ (∀ port, regionOf line.toNat = .tier3 port → d.writeback = none →
        (d.owner = none → Completes (.hostSnoop line true) s (fun t => t.world.dirLine l = { d with sharers := [], host := 0 }
            ∧ (∀ k, k ∈ d.sharers → t.world.copy? l k = none) ∧ t.dev.od = s.dev.od ∧ SameMemory s t)
          ∧ Completes (.hostSnoop line false) s (fun t => t.world.dirLine l = { d with host := Nat.min d.host 1 }
            ∧ t.dev.coh.copies = s.dev.coh.copies ∧ t.dev.od = s.dev.od ∧ SameMemory s t))
        ∧ ∀ o x, d.owner = some o → w.copy? l o = some x →
          Completes (.hostSnoop line true) s (fun t => t.world.dirLine l = { d with owner := none, sharers := [], host := 0 }
            ∧ t.world.copy? l o = none ∧ (∀ k, k ∈ d.sharers → t.world.copy? l k = none) ∧ t.dev.od = s.dev.od ∧ wrote x t)
          ∧ Completes (.hostSnoop line false) s (fun t =>
            t.world.dirLine l = { d with owner := none, sharers := setInsert o d.sharers, host := Nat.min d.host 1 }
            ∧ t.world.copy? l o = some { x with state := .s } ∧ t.dev.od = s.dev.od ∧ wrote x t))
    ∧ ∀ k own rest, d.writeback = none → d.queue = (k, own) :: rest → w.hostNeeded l own = false →
        Completes (.nextOwnerForward line) s (fun t => (t.world.dirLine l).queue = rest ∧ t.dev.od = s.dev.od
          ∧ (own = true → (t.world.dirLine l).owner = some k
              ∧ t.world.copy? l k = some { (d.owner.bind (fun o => w.copy? l o)).getD mem with state := .m })
          ∧ (own = false → (t.world.copy? l k).isSome = true
              ∧ (d.owner.isSome = true → (t.world.dirLine l).owner = none ∧ k ∈ (t.world.dirLine l).sharers))
          ∧ (own = true → room k → SameMemory s t)))
  ∧ ∀ (s : State) (m : Master) (k : AccessKind) (va : Word) (len : Nat) (data : List Byte),
    let n := if accessStores k then data.length else len
    let clean := List.replicate data.length false
    let does := Performs (.memoryAccess m k va len data) s
    0 < n →
    (∀ h, World.translates m.toNat = true → masterType m.toNat ≠ 0x2 → s.world.unitHusk m.toNat = some h →
      (∀ r w1, s.world.readVirt h m.toNat (accessCode k) va.toNat n = ((r, true), w1) → (r.anyBad = false ∨ r.origins ≠ []) →
        ((k = .read ∨ k = .fetch) → does (fun _ => w1.accessResult m.toNat r.data r.bad true))
        ∧ (k = .atomic → ∀ ok w2, (w1.accessResult m.toNat r.data r.bad true).writeVirt h m.toNat (accessCode k) va.toNat data clean = (ok, w2) →
            does (fun _ => w2)))
      ∧ (k = .write → ∀ ok w1, s.world.writeVirt h m.toNat (accessCode k) va.toNat data clean = (ok, w1) →
          does (fun _ => w1.accessResult m.toNat [] [] ok)))
    ∧ (World.translates m.toNat = false → regionOf va.toNat ≠ .ctrl →
      (masterType m.toNat ≠ 0xB ∨ (masterIndex m.toNat % 32 = 0 ∧ World.hostSpace va.toNat ≠ 1 ∧ World.hostSpace va.toNat ≠ 2
        ∧ s.world.hostReaches none (accessStores k) va.toNat n = true)) →
      (∀ r w1, s.world.readPhys none m.toNat (accessCode k) va.toNat n 0 = (r, w1) →
        ((k = .read ∨ k = .fetch) → does (fun _ => w1.accessResult m.toNat r.data r.bad true))
        ∧ (k = .atomic → ∀ w2, (w1.accessResult m.toNat r.data r.bad true).writePhys none m.toNat (accessCode k) va.toNat data clean 0 = (true, w2) →
            does (fun _ => w2)))
      ∧ (k = .write → ∀ ok w1, s.world.writePhys none m.toNat (accessCode k) va.toNat data clean 0 = (ok, w1) →
          does (fun _ => w1.accessResult m.toNat [] [] ok)))
    ∧ (masterType m.toNat = 0xB → World.hostSpace va.toNat = 1 →
        let path := World.ctrlPath m.toNat (if masterIndex m.toNat % 32 = 0 then none else some (masterIndex m.toNat % 32 - 1))
        ((k = .read ∨ k = .fetch) → does (fun w => w.accessResult m.toNat (w.spaceRead path 1 (va.toNat % 2 ^ 48) n) (List.replicate n false) true))
        ∧ (k = .write → does (fun w => (w.windowWrite path (va.toNat % 2 ^ 48) data).accessResult m.toNat [] [] true)))
    ∧ (masterType m.toNat = 0xB → masterIndex m.toNat % 32 ≠ 0 → World.hostSpace va.toNat ≠ 1 → World.hostSpace va.toNat ≠ 2 →
        regionOf va.toNat ≠ .ctrl → does (fun w => w.accessResult m.toNat [] [] false))
    ∧ (masterType m.toNat = 0x2 → let p := masterIndex m.toNat
        let h := s.world.pipHusk p
        s.world.pipRuns p = true → World.pages (World.pageFuel n) va.toNat n = [(va.toNat, n)] →
        (∀ w1, s.world.reach h m.toNat (accessCode k) (accessNeed k) va.toNat = (none, w1) →
          does (fun _ => (w1.accessResult m.toNat [] [] false).trap p (accessCause k) va))
        ∧ ∀ w1 x pa e nc w2, s.world.reach h m.toNat (accessCode k) (accessNeed k) va.toNat = (some x, w1) →
          w1.translate h va.toNat (accessNeed k) = (.ok pa e nc, w2) →
          (∀ r ok w3, (k = .read ∨ k = .fetch) → (regionOf pa = .hbm ∨ ∃ i, regionOf pa = .scratch i) →
            w2.pipRead p h va.toNat n (accessNeed k) (accessCode k) = ((r, ok), w3) → (r.anyBad = false ∨ r.origins ≠ []) →
            does (fun _ => w3.accessResult m.toNat r.data r.bad ok))
          ∧ (∀ qa e2, k = .write → regionOf qa = .hbm →
            (w2.accessResult m.toNat [] [] true).peekLeaf h va.toNat .wr = some (qa, e2) → nc = false →
            does (fun _ => (w2.accessResult m.toNat [] [] true).cachedWrite (p / 32) qa data (if e2 then (w2.accessResult m.toNat [] [] true).huskKey h else 0))))

/-! ### The acorn stacks -/

/-- NMU commands, R111 to R113: one whose fields, image, matrix, tiles and operands pass, no stack of its tiles being held and no chain
set missing, runs on the husk's active image and is entered with its outcome; one that fails a check is rejected with the
check's reason; a NOP finishes. -/
def Obligations.NmuCommands : Prop :=
  ∀ (s : State) (sl : Fin 16) (cmd : Nat) (w1 : World), let r := s.world.blockRing sl 12
    let ready (op : Nat) : Prop := s.world.takeEntry r (fun x => cmdOp x == op) = some (cmd, w1)
    let c := w1.ctx r
    let runs (op : Nat) (i : Instr) : Prop := ready op →
      (∀ slot m, w1.nmuCheck c cmd = .inr (slot, m) → w1.stacksHeld m (nTr0 cmd) (nTrCount cmd) = false →
        (gCinit cmd ≠ 3 ∨ (w1.engine c.master).sets.isEmpty = false) →
        Performs i s (fun _ =>
          let (w2, wait, st, rs, aux) := w1.nmuRun c cmd slot m
          w2.enterTaken c ⟨cmd, cmdTag cmd, st, rs, wait, c.husk, c.canonical, c.key, w2.now, w2.now, 0, [], aux⟩))
      ∧ ∀ reason, w1.nmuCheck c cmd = .inl reason → Performs i s (fun _ => w1.rejected c cmd reason (World.nmuSpans cmd))
    (ready 0 → nReserved cmd = true → Performs (.nmuNop sl) s (fun _ => w1.finished c cmd 0 0))
      ∧ (ready 0 → nReserved cmd = false → Performs (.nmuNop sl) s (fun _ => w1.finished c cmd 1 0x0003))
      ∧ runs 1 (.nmuFwd sl) ∧ runs 2 (.nmuTrn sl) ∧ runs 3 (.nmuBoth sl)

/-- Overlay and repair tables, images, scrubbing and refresh, R118, R119, R123, R124, R126 and R127: a commit leaves its request executing until the table takes effect;
then a valid table replaces the one in force and its generation counts, an invalid one is refused with
OVERLAY_TABLE_INVALID and the one in force stands. A RESIDENT or ACTIVE slot can be named, and is then ACTIVE; a slot that
nothing uses returns to RESIDENT and can be released; a scrub read of a stored tile flags every block of which a line needed 3 or 4
bits corrected, and ends a pass when every stored tile has been read; a refresh starts and is cancelled, a cancel taking effect in the
next tick (R420, R425). -/
def Obligations.AcornTablesAndImages : Prop :=
  (∀ (s : State) (p : Path) (h : Fin 16), odTakes s.world p (0x3030 + h.val * 256) 4 1 = true →
    Performs (.huskOverlayCommit p h 1) s (fun w => ((odAsked w p (0x3030 + h.val * 256) 4 1).upAcorn (fun a =>
      { a with overlayPending := a.overlayPending.put h.val p })).odBusy p))
  ∧ (∀ (s : State) (p : Path), odTakes s.world p 0x8020 3 1 = true →
      Performs (.acornRepairCommit p 1) s (fun w => ((odAsked w p 0x8020 3 1).upAcorn (fun a => { a with repairPending := some p })).odBusy p))
  ∧ (∀ (s : State) (p : Path) (h : Fin 16) (l : List OverlayEnt) (w1 : World), s.dev.acorn.overlayPending.get? h.val = some p →
      (s.world.upAcorn (fun a => { a with overlayPending := a.overlayPending.del h.val })).nextOverlays h.val = (some l, w1) →
      (w1.overlaysValid h.val l = true → Performs (.overlayTableEffect h) s (fun _ =>
        (((w1.pinTables (some h.val)).upAcorn (fun a => { a with overlays := a.overlays.put h.val l })).wr (oHuskOverlayGeneration h.val)
          (fit 32 (w1.rd (oHuskOverlayGeneration h.val) + 1))).odFinish p 0 0 [] false))
      ∧ (w1.overlaysValid h.val l = false → Performs (.overlayTableEffect h) s (fun _ => w1.odFinish p 0x040B 0 [] false)))
  ∧ (∀ (s : State) (p : Path), s.dev.acorn.repairPending = some p →
      let base := s.val oAcornRepairTableBase
      let n := s.val oAcornRepairTableCount
      let w0 := (s.world.upAcorn (fun a => { a with repairPending := none })).mirrorHeal base (32 * n) World.otherReserve
      let l := w0.nextRepair.2
      let ok := !w0.nextRepair.1.anyBad && decide (n ≤ 65536) && inReserve base
        && keysRise l && l.all (fun e => e.addr % 64 == 0 && e.kind == 1 && regionOf e.addr == .hbm)
      ((∀ k, base / 64 ≤ k → k * 64 < base + 32 * n → s.world.lineBad k = false) →
        Completes .repairTableEffect s (fun t => t.dev.acorn.repairPending = none ∧ SameMemory s t
        ∧ (s.val oFieldNetState ≠ 2 → t.reply p = (if ok then 0 else 0x040B)) ∧ (t.dev.acorn.repair = if ok then l else s.dev.acorn.repair)
        ∧ t.val oAcornRepairGeneration = (if ok then fit 32 (s.val oAcornRepairGeneration + 1) else s.val oAcornRepairGeneration)
        ∧ SameObjectsBut [oAcornRepairGeneration] s t))
      ∧ (ok = false → Performs .repairTableEffect s (fun _ => w0.odFinish p 0x040B 0 [] false)))
  ∧ (∀ (s : State) (p : Path) (h : Fin 16) (v : Word), odTakes s.world p (0x3030 + h.val * 256) 1 v = true → v.toNat < 16 →
    (s.world.slotState v.toNat = 3 ∨ s.world.slotState v.toNat = 4) →
    Performs (.huskActiveImageWrite p h v) s (fun w =>
      (((odAsked w p (0x3030 + h.val * 256) 1 v).wr (oHuskActiveImage h.val) v.toNat).setSlotState v.toNat 4).imagesSettle.odFinish p 0 0 [] false))
  ∧ (∀ (s : State) (p : Path) (h : Fin 16) (v : Word), odTakes s.world p (0x3030 + h.val * 256) 1 v = true → v.toNat ≠ 0xFF →
      (16 ≤ v.toNat ∨ s.world.slotState v.toNat < 3 ∨ 4 < s.world.slotState v.toNat) →
      Completes (.huskActiveImageWrite p h v) s (fun t => t.reply p = 0x040A ∧ t.dev.od = s.dev.od ∧ t.dev.acorn = s.dev.acorn ∧ SameMemory s t))
  ∧ (∀ (s : State) (i : Fin 16), s.world.slotState i.val = 4 → s.world.slotUsed i.val = false →
      Completes (.slotReturnResident i) s (fun t => t.world.slotState i.val = 3 ∧ t.world.slotImage i.val = s.world.slotImage i.val
        ∧ t.dev.acorn = s.dev.acorn ∧ SameMemory s t ∧ SameObjectsBut [oAcornImageSlot i.val] s t))
  ∧ (∀ (s : State) (p : Path) (v : Word), odTakes s.world p 0x8001 0 v = true →
      let w1 := (odAsked s.world p 0x8001 0 v).imagesSettle
      (w1.slotState v.toNat ≠ 4 → w1.slotState v.toNat ≠ 1 → Performs (.acornImageRelease p v) s (fun _ =>
        ((w1.wr (oAcornImageSlot v.toNat) 0).upAcorn (fun a => { a with images := a.images.del v.toNat })).odFinish p 0 0 [] false))
      ∧ (w1.slotState v.toNat = 4 ∨ w1.slotState v.toNat = 1 → Performs (.acornImageRelease p v) s (fun _ => w1.odFinish p 0x0405 0 [] false)))
  ∧ (∀ (s : State) (pa : BitVec 48) (slot tr tc : Nat) (r : MatrixRec), s.world.tileAt pa.toNat = some (slot, r, tr, tc) →
      s.val oAcornScrubPeriod ≠ 0 → (s.world.slotState slot = 3 ∨ s.world.slotState slot = 4) →
      let w1 := (s.world.readStoredTile slot r tr tc pa.toNat none (masterId 0xD ((pa.toNat - 0x20000000000) / 0x1800000000)) 0x14).2
      let seen := setInsert pa.toNat w1.dev.acorn.scrubbed
      let all := w1.storedTiles.all (fun t => seen.elem t)
      Completes (.scrubRead pa) s (fun t =>
        (∀ x ∈ s.world.lineErrs pa.toNat (tileStride ((Fmt.ofCode r.fmt).getD .f32)), (x.2 = 3 ∨ x.2 = 4) →
          World.blockOf (x.1 * 64) ∈ t.dev.acorn.flagged)
        ∧ (∀ b ∈ w1.dev.acorn.flagged, b ∈ t.dev.acorn.flagged)
        ∧ t.dev.acorn.scrubbed = (if all then [] else seen)
        ∧ t.val oAcornScrubPass = (if all then fit 32 (w1.rd oAcornScrubPass + 1) else w1.rd oAcornScrubPass)
        ∧ t.dev.acorn.images = w1.dev.acorn.images ∧ t.dev.acorn.queues = w1.dev.acorn.queues))
  ∧ (∀ (s : State) (p : Path), odTakes s.world p 0x8042 1 1 = true →
      (stIdleOrTerminal (s.val (oAcornRefreshStatus 0)) = true → stIdleOrTerminal (s.val (oAcornInstallStatus 0)) = true →
        Performs (.acornRefreshStart p 1) s (fun w => (odAsked w p 0x8042 1 1).refreshStart.2.odFinish p 0 0 [] false)
        ∧ (s.dev.acorn.flagged = [] → Completes (.acornRefreshStart p 1) s (fun t => t.reply p = 0
            ∧ stState (t.val (oAcornRefreshStatus 0)) = 4 ∧ t.dev.acorn.queues = s.dev.acorn.queues ∧ SameMemory s t)))
      ∧ ((stIdleOrTerminal (s.val (oAcornRefreshStatus 0)) = false ∨ stIdleOrTerminal (s.val (oAcornInstallStatus 0)) = false) →
        Completes (.acornRefreshStart p 1) s (fun t =>
          t.reply p = 0x0405 ∧ t.dev.od = s.dev.od ∧ t.dev.acorn = s.dev.acorn ∧ SameMemory s t)))
  ∧ (∀ (s : State) (p : Path), odTakes s.world p 0x8042 2 1 = true →
      Deferred (.acornRefreshCancel p 1) s p (.cancelRefresh p) ∧ Completes (.acornRefreshCancel p 1) s (fun t => t.dev.acorn = s.dev.acorn))
  ∧ ∀ (s : State) (p : Path), s.val oFieldNetState ≠ 2 → let t := s.run (fun w => w.dueAct (.cancelRefresh p))
      (stIdleOrTerminal (s.val (oAcornRefreshStatus 0)) = true →
        t.reply p = 0x000E ∧ t.dev.od = s.dev.od ∧ t.dev.acorn = s.dev.acorn ∧ SameMemory s t)
      ∧ (stIdleOrTerminal (s.val (oAcornRefreshStatus 0)) = false → t.reply p = 0 ∧ SameMemory s t
        ∧ (s.dev.acorn.pulse = .empty → stState (t.val (oAcornRefreshStatus 0)) = 6 ∧ t.dev.acorn.queues.vals.all (fun l => l.isEmpty) = true))

/-- Installation, R130 to R135: a start into an EMPTY slot, or an INCOMPLETE one of the same IMAGE_ID, with no operation running begins it,
another is refused; the manifest, once it is verified and consistent and its image has room, gives the slot its image, else the
installation fails with the first check's reason; a chunk in full is staged, counted, forwarded and checked; a write pulse ends in
a page verified, a longer pulse or a failure; upstream silence ends the installation, and a cancel takes effect in the next tick (where
chunks stand staged is the model's choice, log entry 150). -/
def Obligations.InstallationSteps : Prop :=
  (∀ (s : State) (p : Path), odTakes s.world p 0x8010 6 1 = true → let slot := s.val oAcornInstallSlot
    (stIdleOrTerminal (s.val (oAcornInstallStatus 0)) = true → s.world.slotTakes slot = true →
      Completes (.acornInstallStart p 1) s (fun t => t.reply p = 0 ∧ stState (t.val (oAcornInstallStatus 0)) = 2
        ∧ t.dev.acorn.install = { InstallSt.init with slot := slot, lastData := s.dev.time.tick }
        ∧ t.dev.acorn.images = s.dev.acorn.images ∧ t.dev.acorn.queues = s.dev.acorn.queues ∧ SameMemory s t))
    ∧ ((stIdleOrTerminal (s.val (oAcornInstallStatus 0)) = false ∨ s.world.slotTakes slot = false) →
      Completes (.acornInstallStart p 1) s (fun t => t.reply p = 0x0405 ∧ t.dev.od = s.dev.od ∧ t.dev.acorn = s.dev.acorn ∧ SameMemory s t)))
  ∧ (∀ (s : State) (mb sb : List Byte), s.world.installing = true → s.dev.acorn.install.manifest = none →
      let m := Config.manifestOf mb
      let slot := s.dev.acorn.install.slot
      let resume := s.world.slotState slot == 2
      let signed := s.world.signerListed (Config.sha384 m.key) && Config.p384Verify m.key (Config.sha384 mb) sb
      let place := if resume then some (s.world.imageInfo slot).base else s.world.freeExtent slot m.extent
      let failed (reason : Nat) : Prop := Completes (.installManifestVerified mb sb) s (fun t => SameMemory s t
        ∧ stState (t.val (oAcornInstallStatus 0)) = 5 ∧ fld (t.val (oAcornInstallStatus 0)) 16 16 = reason
        ∧ t.val (oAcornInstallStatus 9) = reason * 2 ^ 48 ∧ t.dev.acorn.install = InstallSt.init ∧ t.dev.acorn.images = s.dev.acorn.images)
      (signed = false → failed 0x0403)
      ∧ (signed = true → World.manifestValid m = false → failed 0x040F)
      ∧ (signed = true → World.manifestValid m = true → (resume && s.world.slotImage slot != m.image) = true → failed 0x0405)
      ∧ (signed = true → World.manifestValid m = true → (resume && s.world.slotImage slot != m.image) = false → place = none → failed 0x0406)
      ∧ ∀ base, signed = true → World.manifestValid m = true → (resume && s.world.slotImage slot != m.image) = false → place = some base →
        Performs (.installManifestVerified mb sb) s (fun w =>
          let info : ImageInfo := ⟨base, m.extent, World.manifestRecords m, m.chunks, if resume then (w.imageInfo slot).written else []⟩
          let w1 := (w.wr (oAcornImageSlot slot) (2 ^ 60 + m.image)).upAcorn (fun a => { a with images := a.images.put slot info })
          let w2 := (w1.upInstall (fun i => { i with
            manifest := some m, before := ⟨(List.range 8).map (fun a => (a, World.blocksDone info a))⟩, old := info.written, lastData := w.now })).installProgress
          if World.imageDone info then w2.installDone else w2))
  ∧ (∀ (s : State) (n place : Nat) (data : List Byte) (m : Manifest) (c : ChunkEnt), s.dev.acorn.install.manifest = some m →
      m.chunks[n]? = some c → s.world.installing = true → s.dev.acorn.install.cancelling = false →
      s.dev.acorn.install.received.elem n = false → s.world.stagingPlace = some place → data.length = 256 * c.length →
      let src := World.stagingBase + place * 0x4000000
      let w0 := (s.world.store src data).upInstall (fun i => { i with
        received := setInsert n i.received, lastData := s.world.now, staged := s.world.chunksStaged.put n place })
      let down := s.val oAcornInstallDownstream
      ∀ w1, (down = 0xFFFF → w1 = w0) →
        (down ≠ 0xFFFF → s.dev.acorn.install.downLost = false → w0.reachable down = true →
          w1 = (w0.sendTo down 7 0 0 0x44 n data).upInstall (fun i => { i with forwarded := i.forwarded + 1 })) →
        (down ≠ 0xFFFF → s.dev.acorn.install.downLost = false → w0.reachable down = false →
          w1 = w0.upInstall (fun i => { i with downLost := true })) →
        (down ≠ 0xFFFF → s.dev.acorn.install.downLost = true → w1 = w0) →
        let r := w1.readStored src data.length 0
        ((r.anyBad = true ∨ Config.sha384 r.data ≠ c.digest) → Performs (.installChunk n data) s (fun _ => w1.installEnd 5 0x0404))
        ∧ (r.anyBad = false → Config.sha384 r.data = c.digest → Performs (.installChunk n data) s (fun _ =>
            (w1.addJobs c.stack (World.chunkJobs (w1.imageInfo s.dev.acorn.install.slot) n c src)).installProgress)))
  ∧ (∀ (s : State) (a : Fin 8) (k : Nat) (j : WriteJob) (q : List WriteJob), s.dev.acorn.pulse.get? a.val = some k →
      s.dev.acorn.queues.getD a.val [] = j :: q → s.dev.resets.seqs.has 16 = false →
      Performs (.writePulseEnd a true) s (fun w => ((w.pageDone a.val j).startPulse a.val).downReady)
      ∧ (k < 3 → Performs (.writePulseEnd a false) s (fun w =>
          (w.upAcorn (fun x => { x with pulse := if w.mayPulse then x.pulse.put a.val (k + 1) else x.pulse.del a.val })).downReady))
      ∧ (3 ≤ k → Performs (.writePulseEnd a false) s (fun w => (w.jobFails a.val j).downReady)))
  ∧ (∀ s : State, s.world.installing = true → s.val oAcornInstallSource = 0 →
      (∀ m, s.dev.acorn.install.manifest = some m → s.dev.acorn.install.received.length ≠ m.chunks.length) →
      s.dev.acorn.install.lastData + s.val oAcornInstallTimeout ≤ s.dev.time.tick →
      Completes .installUpstreamTimeout s (fun t => stState (t.val (oAcornInstallStatus 0)) = 5
        ∧ fld (t.val (oAcornInstallStatus 0)) 16 16 = 0x040D ∧ t.dev.acorn.install = InstallSt.init
        ∧ (s.world.slotState s.dev.acorn.install.slot = 1 → t.world.slotState s.dev.acorn.install.slot = 2)
        ∧ t.dev.acorn.images = s.dev.acorn.images ∧ SameMemory s t))
  ∧ (∀ (s : State) (p : Path), odTakes s.world p 0x8010 7 1 = true →
      Deferred (.acornInstallCancel p 1) s p (.cancelInstall p) ∧ Completes (.acornInstallCancel p 1) s (fun t => t.dev.acorn = s.dev.acorn))
  ∧ ∀ (s : State) (p : Path), s.val oFieldNetState ≠ 2 → let t := s.run (fun w => w.dueAct (.cancelInstall p))
      (stIdleOrTerminal (s.val (oAcornInstallStatus 0)) = true →
        t.reply p = 0x000E ∧ t.dev.od = s.dev.od ∧ t.dev.acorn = s.dev.acorn ∧ SameMemory s t)
      ∧ (stIdleOrTerminal (s.val (oAcornInstallStatus 0)) = false → t.reply p = 0 ∧ SameMemory s t
        ∧ (s.dev.acorn.pulse = .empty → stState (t.val (oAcornInstallStatus 0)) = 6))

/-! ### Prefetch, schedules and Tier 3 -/

/-- Prefetch entries of a run and of queue 11, R149 to R151, R159, R160 and R162: an entry that fails a check ends with the check's reason; a
COPY reads its source; a SHARD_FETCH reads the header, and again once ShardPollInterval has passed; a SHARD_PUBLISH that no
earlier publication of its block delays reads the header; an object RESIDENT at a sufficient epoch is used and held, or pinned; one that
loads is waited for; one that must be loaded gets space or waits in its husk's queue, or is too large; a STEP_END releases every hold of
its run. A command at the head of queue 11 is taken and its entry runs likewise. -/
def Obligations.PrefetchEntries : Prop :=
  (∀ (s : State) (sl : Fin 16) (er : EntryRef) (x : PfEntry), let n := entryNo er
    s.world.entry sl.val n = some x →
    let h := s.world.pfHusk sl.val
    let o := pObj x.cmd
    let e := s.world.poolEnt h o
    let go (stage : Nat) (w : World) : World := World.carryOn World.carryFuel (w.setEntry sl.val n { x with stage := stage }) sl.val n
    -- a command of the update sequencer that waits to publish goes first
    let ownPublish := er = .queue → (s.world.entry (16 + sl.val) 0).isNone
    let turn := s.val (oHuskPoolTurn h)
    (∀ (kind : Nat) (i : Instr), (kind, i) ∈ [(1, Instr.copy sl er), (2, .shardFetch sl er), (3, .shardPublish sl er),
        (4, .poolEnsure sl er), (5, .poolPin sl er), (6, .stepEnd sl er)] → (kind = 3 → ownPublish) →
      x.stage = 0 → pKind x.cmd = kind → ∀ r, s.world.entryFail h sl.val x.cmd = some r →
        Performs i s (fun w => w.entryRejected sl.val n r x.cmd))
    ∧ (x.stage = 0 → s.world.entryFail h sl.val x.cmd = none →
      (pKind x.cmd = 1 → Performs (.copy sl er) s (go 2))
      ∧ (pKind x.cmd = 2 → Performs (.shardFetch sl er) s (go 1))
      ∧ (pKind x.cmd = 3 → ownPublish →
          (s.world.earlierPublish sl.val n x = false → Performs (.shardPublish sl er) s (go 12))
          ∧ (s.world.earlierPublish sl.val n x = true → exec (.shardPublish sl er) s = .next s))
      ∧ (∀ (kind : Nat) (i : Instr), (kind, i) ∈ [(4, Instr.poolEnsure sl er), (5, .poolPin sl er)] → pKind x.cmd = kind →
          (s.world.pinTooMuch h x = true → Performs i s (fun w => w.entryEnds sl.val n 0x0207))
          ∧ (s.world.pinTooMuch h x = false →
            (e.state = 2 → pMin x.cmd ≤ e.epoch → Performs i s (fun w =>
              ((w.setPoolEnt h (World.pfMaster sl.val) o { e with lastUse := w.now, pin := if kind = 5 then turn else e.pin }).takeHold
                sl.val n h o).entryEnds sl.val n 0))
            ∧ (e.state = 1 → Performs i s (fun w =>
              (w.setPoolEnt h (World.pfMaster sl.val) o { e with pin := if kind = 5 then turn else e.pin }).modEntry sl.val n
                (fun (y : PfEntry) => { y with stage := 10 })))
            ∧ (e.state ≠ 1 → (e.state ≠ 2 ∨ e.epoch < pMin x.cmd) →
              (s.val (oHuskPoolBytes h) < World.poolSize (pBytes x.cmd) → Performs i s (fun w => w.entryEnds sl.val n 0x0207))
              ∧ (World.poolSize (pBytes x.cmd) ≤ s.val (oHuskPoolBytes h) →
                (s.dev.prefetch.poolQueue.getD h [] ≠ [] → Performs i s (fun w => w.poolWait sl.val n h))
                ∧ (s.dev.prefetch.poolQueue.getD h [] = [] → ∀ placed w1, s.world.poolTry sl.val n h = (placed, w1) →
                  Performs i s (fun _ => if placed then w1 else w1.poolWait sl.val n h))))))
      ∧ (pKind x.cmd = 6 → Performs (.stepEnd sl er) s (fun w => (w.releaseHolds sl.val).entryEnds sl.val n 0)))
    ∧ (x.stage = 4 → x.since + s.val oShardPollInterval ≤ s.dev.time.tick → Performs (.shardPoll sl er) s (go 1)))
  ∧ (∀ (s : State) (sl : Fin 16) (cmd : Nat) (w1 : World) (kind : Nat) (i : Instr),
      (kind, i) ∈ [(1, Instr.copy sl .queue), (2, .shardFetch sl .queue), (3, .shardPublish sl .queue), (4, .poolEnsure sl .queue),
        (5, .poolPin sl .queue), (6, .stepEnd sl .queue)] →
      s.world.entry sl.val 0 = none → (kind = 3 → (s.world.entry (16 + sl.val) 0).isNone) →
      s.world.takeEntry (s.world.blockRing sl 11) (fun x => cmdOp x == kind) = some (cmd, w1) →
      let c := w1.ctx (s.world.blockRing sl 11)
      (rsvd cmd 512 512 = false → Performs i s (fun _ => w1.finished c cmd 1 0x0003))
      ∧ (rsvd cmd 512 512 = true → Performs i s (fun _ => ((w1.waiting c cmd .prefetch []).setPf sl.val
          { w1.pf sl.val with single := some (newEntry (cmd % 2 ^ 512) w1.now 0) }).entryRun sl.val 0)))
  ∧ ∀ (s : State) (sl : Fin 16) (x : PfEntry), s.world.entry (16 + sl.val) 0 = some x → x.stage = 0 →
      s.world.earlierPublish (16 + sl.val) 0 x = false → Performs (.shardPublish sl .queue) s (fun w =>
        (World.carryOn World.carryFuel (w.setEntry (16 + sl.val) 0 { x with stage := 12 }) (16 + sl.val) 0).entryStep sl .queue 3)

/-- Schedules and the pool, R152 to R154, R157 and R162: a SCHEDULE_RUN that passes its checks runs from entry 0; the next entry is
issued when its cursor has reached LAYER - LEAD; an ended entry writes its flag and leaves, the run completing with its
last; PrefetchTimeout ends one that has not; the head of the pool queue is served; a flush evicts what may be evicted. -/
def Obligations.SchedulesAndPool : Prop :=
  ∀ (s : State) (sl : Fin 16),
    (∀ cmd w1, s.dev.seqs.turnHeld.elem ((s.world.ownerOf sl.val).getD 16) = false →
      s.world.takeEntry (s.world.blockRing sl 11) (fun x => cmdOp x == 0x10) = some (cmd, w1) →
      let c := w1.ctx (s.world.blockRing sl 11)
      let fields := rsvd cmd 8 40 && rsvd cmd 64 448 && rsvd cmd 560 16 && rsvd cmd 608 16 && rsvd cmd 672 352
        && decide (1 ≤ runCount cmd) && decide (runCount cmd ≤ 1048576)
      let placed := runAddr cmd % 64 == 0 && runCursor cmd % 8 == 0 && w1.inScratch c.husk c.slice (runCursor cmd) 8 .rd
        && (w1.inHbm c.husk (runAddr cmd) (64 * runCount cmd) .rd || w1.inScratch c.husk c.slice (runAddr cmd) (64 * runCount cmd) .rd)
      (fields = true → placed = true → Performs (.scheduleRun sl) s (fun _ =>
        (w1.waiting c cmd .prefetch []).setPf c.slice { w1.pf c.slice with run := some ⟨cmd, 0, .empty, .empty, [], []⟩ }))
      ∧ (fields = true → placed = false → Performs (.scheduleRun sl) s (fun _ => w1.rejected c cmd 0x0004 (World.runSpans cmd)))
      ∧ (fields = false → Performs (.scheduleRun sl) s (fun _ => w1.finished c cmd 1 0x0003)))
    ∧ (∀ r d w1, (s.world.pf sl.val).run = some r → r.next < runCount r.cmd → r.flight.items.length < 32 →
      let h := s.world.pfHusk sl.val
      s.world.readVirt h (World.pfMaster sl.val) 0x20 (runAddr r.cmd + 64 * r.next) 64 = ((d, true), w1) → d.anyBad = false →
      let cur := s.world.runCursorNow h r.cmd
      let late := r.late.elem r.next
      (pLayer d.nat - pLead d.nat ≤ cur → Performs (.scheduleEntryIssue sl) s (fun w =>
        let e := newEntry d.nat w.now (if pLayer d.nat ≤ cur then 8 else 0)
        let y : PfEntry := if 1 ≤ pKind d.nat ∧ pKind d.nat ≤ 6 then e else { e with stage := 11, reason := 0x0003 }
        let z : PfEntry := { y with overdue := late, cause := y.cause + (if late then 0x800 else 0) }
        let r1 : PfRun := { r with next := r.next + 1, late := setErase r.next r.late, flight := r.flight.put r.next z }
        w1.setPf sl.val { w1.pf sl.val with run := some r1 }))
      ∧ (cur < pLayer d.nat - pLead d.nat → exec (.scheduleEntryIssue sl) s = .next s))
    ∧ (∀ e, s.world.entry sl.val 0 = some e → e.stage = 11 → e.cmd ≠ 0 → Performs (.prefetchEntryComplete sl .queue) s (fun w =>
      let w1 := w.putVirt (w.pfHusk sl.val) (World.pfMaster sl.val) 0x20 (pFlag e.cmd) (leBytes 8 (pFlagSeq e.cmd + e.reason * 2 ^ 32))
      (w1.setPf sl.val { w1.pf sl.val with single := none }).finishWait (w.blockRing sl 11) .prefetch (World.entryStatus e.reason) e.reason))
    ∧ (∀ r k e, (s.world.pf sl.val).run = some r → r.flight.get? k = some e → e.stage = 11 →
      let r1 := { r with flight := r.flight.del k, reasons := if e.reason = 0 then r.reasons else r.reasons.put k e.reason }
      let last := r1.next = runCount r1.cmd ∧ r1.flight.items = []
      let w1 := if e.cmd = 0 then s.world else s.world.putVirt (s.world.pfHusk sl.val) (World.pfMaster sl.val) 0x20 (pFlag e.cmd)
        (leBytes 8 (pFlagSeq e.cmd + e.reason * 2 ^ 32))
      let w2 := w1.setPf sl.val { w1.pf sl.val with run := some r1 }
      (¬ last → Performs (.prefetchEntryComplete sl (.run k)) s (fun _ => w2))
      ∧ (last → Performs (.prefetchEntryComplete sl (.run k)) s (fun _ =>
          let w3 := w2.releaseHolds sl.val
          let reason := (r1.reasons.vals.head?).getD 0
          (w3.setPf sl.val { w3.pf sl.val with run := none }).finishWait (s.world.blockRing sl 11) .prefetch (if reason = 0 then 0 else 2) reason)))
    ∧ (∀ er i n e, ((i = sl.val ∧ n = entryNo er ∧ (er = .queue → s.world.entry (16 + sl.val) 0 = none))
        ∨ (er = .queue ∧ i = 16 + sl.val ∧ n = 0 ∧ s.world.entry sl.val 0 = none)) →
      s.world.entry i n = some e → e.stage ≠ 11 → e.issued + s.val oPrefetchTimeout ≤ s.dev.time.tick →
      Performs (.prefetchTimeout sl er) s (fun w =>
        let w1 := { w with dev := { w.dev with t3 := w.dev.t3.delIf (fun _ a => a.user == 1 && a.ref == i * 0x200000 + n) } }
        let left := fun (p : PrefetchSt) => (p.poolQueue.getD (w.pfHusk i) []).filter (fun q => q != (i, n))
        let w2 := w1.upPf (fun p => { p with poolQueue := p.poolQueue.put (w.pfHusk i) (left p) })
        if e.stage = 9 ∨ e.stage = 10 ∨ (pKind e.cmd = 3 ∧ e.stage = 0) then w2.entryEnds i n 0x0206 else w2.transferFails i n 0x0206))
    ∧ (∀ (h : Fin 16) i n rest e, s.dev.prefetch.poolQueue.getD h.val [] = (i, n) :: rest →
      let w0 := s.world.upPf (fun p => { p with poolQueue := p.poolQueue.put h.val rest })
      w0.entry i n = some e → let x := w0.poolEnt h.val (pObj e.cmd)
      (w0.pinTooMuch h.val e = true → Performs (.poolWaitServed h) s (fun _ => w0.entryEnds i n 0x0207))
      ∧ (w0.pinTooMuch h.val e = false →
        (x.state = 2 → pMin e.cmd ≤ x.epoch → Performs (.poolWaitServed h) s (fun _ =>
          ((w0.setPoolEnt h.val (World.pfMaster i) (pObj e.cmd) { x with
            lastUse := s.dev.time.tick, pin := if pKind e.cmd = 5 then w0.rd (oHuskPoolTurn h.val) else x.pin }).takeHold i n h.val (pObj e.cmd)).entryEnds i n 0))
        ∧ (x.state ≠ 1 → (x.state ≠ 2 ∨ x.epoch < pMin e.cmd) → ∀ placed w1, w0.poolTry i n h.val = (placed, w1) →
            Performs (.poolWaitServed h) s (fun _ =>
              if placed then w1 else w1.upPf (fun p => { p with poolQueue := p.poolQueue.put h.val ((i, n) :: rest) })))))
    ∧ ∀ (p : Path) (h : Fin 16), odTakes s.world p (0x3040 + h.val * 256) 0xA 1 = true →
      Performs (.huskPoolFlush p h 1) s (fun w =>
        let w1 := odAsked w p (0x3040 + h.val * 256) 0xA 1
        (((w1.poolHeld h.val).filter (fun q => w1.evictable h.val q.2)).foldl (fun u q => u.poolEvict h.val (masterId 0 0) q.1) w1).odFinish p 0 0 [] false)

/-- Tier 3 accesses in flight, R146: a read's completion, with its data, with poison, or without it, and a write's acknowledgement
end the access of their number; a timeout ends it as unreachable; one that names no access changes nothing. What a unit's own
access and a pip's access to an NC page get and store is said here, what other accesses give in the statements of their users. -/
def Obligations.Tier3AccessesEnd : Prop :=
  ∀ (s : State) (port : Fin 2) (id : Nat),
    (∀ a, s.dev.t3.get? id = some a → a.port = port.val →
      Performs (.tier3CompletionTimeout port id) s (fun w => w.tier3End id .unreachable)
      ∧ (a.write = false → ∀ o, Performs (.tier3ReadCompletion port id o) s (fun w => w.tier3End id o))
      ∧ (a.write = false → a.user = 0 → Performs (.tier3ReadCompletion port id .poison) s (fun w =>
          let w0 := { w with dev := { w.dev with t3 := w.dev.t3.del id } }
          let w1 := (w0.contained a.husk a.master 1 0x0204 a.addr).inc (oTier3Poisoned a.port) 1
          let r : AccessResult := ⟨(List.range a.len).map (fun i => Config.poisonByte (a.addr + i)), List.replicate a.len true, true⟩
          { w1 with dev := { w1.dev with access := w1.dev.access.put a.master r } }))
      ∧ (a.write = false → a.user = 0 → a.coh = 0 → s.dev.lostLines = [] → Performs (.tier3ReadCompletion port id .clean) s (fun w =>
          let w0 := { w with dev := { w.dev with t3 := w.dev.t3.del id } }
          let r := w0.readStored a.addr a.len 0
          { w0 with dev := { w0.dev with access := w0.dev.access.put a.master ⟨r.data, r.bad, true⟩ } }))
      ∧ (a.write = true → a.user = 0 → a.coh = 0 → s.dev.lostLines = [] → Performs (.tier3WriteAck port id true) s (fun w =>
          ({ w with dev := { w.dev with t3 := w.dev.t3.del id } }).writeStored a.addr a.data (List.replicate a.data.length false) 0))
      ∧ (a.write = true → Performs (.tier3WriteAck port id true) s (fun w => w.tier3End id .clean)
          ∧ Performs (.tier3WriteAck port id false) s (fun w => w.tier3End id .unreachable)))
    ∧ (s.dev.t3.get? id = none → ∀ o acked, exec (.tier3ReadCompletion port id o) s = .next s
      ∧ exec (.tier3CompletionTimeout port id) s = .next s ∧ exec (.tier3WriteAck port id acked) s = .next s)

/-! ### Attention, the sampler and pods -/

/-- Attention and sampler commands, R167 to R181 and R214 to R220. A NOP with its reserved bits 0 finishes. A command whose fields,
addresses and length table pass, and whose queries start on cuts where R260 asks it, runs over its pods and is entered with its outcome;
one over ring shards waits for shard 0; one whose chain set has not come reads ahead and waits (R178). A ring whose next shard's flag never comes ends with COMPUTE_FEED_TIMEOUT at its limit.
SAMPLE writes a record for every row. -/
def Obligations.AttentionAndSampler : Prop :=
  ∀ (s : State) (sl : Fin 16) (cmd : Nat) (w1 : World),
    (let r := s.world.blockRing sl 9
     let ready (op : Nat) : Prop := s.world.takeEntry r (fun x => cmdOp x == op) = some (cmd, w1)
     let c := w1.ctx r
     let nop (i : Instr) (clean : Bool) : Prop := Performs i s (fun _ => w1.finished c cmd (if clean then 0 else 1) (if clean then 0 else 0x0003))
     (ready 0 → nop (.attnNop sl) (aReserved cmd))
     ∧ (∀ (op : Nat) (i : Instr), (op, i) ∈ [(1, Instr.attnFwd sl), (2, .attnBwd sl)] → ready op →
        (∀ reason, w1.attnFieldFail c cmd = some reason → Performs i s (fun _ => w1.finished c cmd 1 reason))
        ∧ ∀ lt w2, w1.attnFieldFail c cmd = none → aLt cmd % 32 = 0 → w1.inScratch c.husk c.slice (aLt cmd) (32 * aLtCount cmd) .rd = true →
          (aRingSrc cmd = true → aRing cmd % 32 = 0 ∧ w1.inScratch c.husk c.slice (aRing cmd) (64 + aRingSlots cmd * aRingStride cmd) .wr = true) →
          w1.readVirt c.husk c.master 1 (aLt cmd) (32 * aLtCount cmd) = ((lt, true), w2) → lt.anyBad = false →
          let es := w2.lenTable c cmd
          (∀ e ∈ es, e.valid = true ∧ w2.attnAddrOk c cmd e = true ∧ (e.seq = 0xFFFF ∨ w2.seqCancelled c.husk e.seq = false)) →
          (aBwd cmd = false ∨ c.canonical = false ∨ aDkvInit cmd ≠ 2 ∨ ∀ e ∈ es, e.qLen = 0 ∨ e.qPos0 % 128 = 0) →
          (aRingSrc cmd = false → ∀ e ∈ es, ∀ p, w2.firstPod c.husk e = some p → p.state = podFree ∨ p.state = podRetiring
            ∨ aKvh0 cmd + aKvhCount cmd ≤ p.heads) →
          (aRingSrc cmd = true → 2 ≤ aRingSlots cmd ∧ aRingSlots cmd ≤ 64 ∧ ∀ e ∈ es, ∀ e' ∈ es, e.seq = e'.seq) →
          let entered (w3 : World) (wait : Wait) (st rs : Nat) (aux : List Nat) : World :=
            w3.enterTaken c ⟨cmd, cmdTag cmd, st, rs, wait, c.husk, c.canonical, c.key, w1.now, w1.now, 0, [], aux⟩
          let fresh := w2.setAttn c.slice AttnRun.init
          (aCinit cmd = 3 → (w2.engine c.master).sets.isEmpty = true → Performs i s (fun _ => w2.attnAhead c cmd))
          ∧ (aCinit cmd = 3 → (w2.engine c.master).sets.isEmpty = false → Performs i s (fun _ =>
              let (w3, wait, st, rs, aux) := fresh.attnGo c cmd
              entered w3 wait st rs aux))
          ∧ (aCinit cmd ≠ 3 → aRingSrc cmd = false → Performs i s (fun _ =>
              let (w3, wait, st, rs, aux) := fresh.attnPods c cmd none [] []
              entered w3 wait st rs aux))
          ∧ (aCinit cmd ≠ 3 → aRingSrc cmd = true → Performs i s (fun _ => entered (fresh.attnRingStart c cmd none) .shard 0 0 []))))
  ∧ (∀ t0, s.world.takenWith (s.world.blockRing sl 9) .shard = some t0 →
      let r := s.world.blockRing sl 9
      let c := s.world.ctxOf r t0
      let u := (s.world.attnRun sl.val).shard
      let hd := s.world.vnum c.husk (World.ringSlot t0.cmd u + 8) 8
      let flag := s.world.flagPresent c (World.ringSlot t0.cmd u) ((aFlagSeq t0.cmd + u / aRingSlots t0.cmd) % 2 ^ 32)
      (t0.since + s.val oComputeFeedTimeout ≤ s.dev.time.tick → flag = none → Performs (.attnRingTimeout sl) s (fun w =>
        (w.contained c.husk c.master 0x21 0x0005 (World.ringSlot t0.cmd u)).finishWait r .shard 1 0x0005))
      ∧ (flag = none → exec (.ringShardPresent sl) s = .next s)
      ∧ (flag.isSome = true → Performs (.ringShardPresent sl) s (fun w => w.ringShard sl))
      ∧ ∀ reason, flag = some reason → u + 1 < aShards t0.cmd → Completes (.ringShardPresent sl) s (fun t =>
          (t.world.attnRun sl.val).shard = u + 1 ∧ (t.world.attnRun sl.val).prevEnd = fld hd 0 24 + fld hd 24 24
          ∧ (t.world.attnRun sl.val).received = (s.world.attnRun sl.val).received
          ∧ (reason ≠ 0 → (t.world.attnRun sl.val).refused = true)))
  ∧ (let r := s.world.blockRing sl 10
     let c := w1.ctx r
     (s.world.takeEntry r (fun x => cmdOp x == 0) = some (cmd, w1) →
        Performs (.samplerNop sl) s (fun _ => w1.finished c cmd (if smReserved cmd then 0 else 1) (if smReserved cmd then 0 else 0x0003)))
     ∧ ∀ pr w2, s.world.takeEntry r (fun x => cmdOp x == 1) = some (cmd, w1) →
        smReserved cmd = true → smFmt cmd ≤ 1 → 1 ≤ smVocab cmd → smVocab cmd ≤ 262144 → 1 ≤ smRows cmd → smRows cmd ≤ 65535 →
        (∀ k < smRows cmd, w1.logitsOk c (smLogits cmd + k * smLdl cmd * 32) (smVocab cmd * (if smFmt cmd = 1 then 2 else 4)) = true) →
        smParam cmd % 32 = 0 → smOut cmd % 32 = 0 → w1.inScratch c.husk c.slice (smParam cmd) (32 * smRows cmd) .rd = true →
        w1.inScratch c.husk c.slice (smOut cmd) (16 * smRows cmd) .wr = true →
        w1.readVirt c.husk c.master 1 (smParam cmd) (32 * smRows cmd) = ((pr, true), w2) → pr.anyBad = false →
        let ps := (List.range (smRows cmd)).map (fun k => smParamOf (leNat ((pr.data.drop (32 * k)).take 32)))
        ((∀ p ∈ ps, p.ok (smVocab cmd) = true) → Performs (.sample sl) s (fun _ =>
          let (xs, os, w3) := ((List.range (smRows cmd)).zip ps).foldl (fun st q =>
            let (x, o, w3) := st.2.2.sampleOne c cmd q.1 q.2
            (st.1 ++ [x], st.2.1 ++ o, w3)) ([], [], w2)
          let (st, rs) := poisonOutcome (xs.any (fun x => x.status == 2)) os
          w3.finished c cmd st rs))
        ∧ ((∃ p ∈ ps, p.ok (smVocab cmd) = false) → Performs (.sample sl) s (fun _ => w2.finished c cmd 1 0x0009)))

/-- Pod commands, R192 to R210: one whose checks pass and whose pods are to be had now does what its opcode says and is entered with
the outcome; a check that fails rejects it with the first failure's reason; with no pods to be had it waits when WAIT is 1,
or when it lost a tie, and is otherwise rejected (which requests stand in one control cycle is a free value, log entry 61). -/
def Obligations.PodCommands : Prop :=
  ∀ (s : State) (sl : Fin 16) (cmd : Nat) (w1 : World) (i : Instr) (op : Nat), let r := s.world.blockRing sl 14
    (op, i) ∈ [(0x40, Instr.podAlloc sl), (0x41, .podShare sl), (0x42, .podRelease sl), (0x43, .podAppend sl), (0x44, .podCommit sl),
      (0x45, .podRetract sl), (0x46, .podSwapOut sl), (0x47, .podSwapIn sl), (0x48, .podForward sl)] →
    s.world.takeEntry r (fun x => cmdOp x == op) = some (cmd, w1) →
    let c := w1.ctx r
    let h := c.husk
    let n := w1.podNeed c cmd
    let enter (w : World) (st rs : Nat) (wait : Wait) (aux : List Nat) : World :=
      w.enterTaken c ⟨cmd, cmdTag cmd, st, rs, wait, h, c.canonical, c.key, w1.now, w1.now, 0, [], aux⟩
    let layers := (dLayer cmd, dLayer cmd + dLayers cmd)
    let short := n ≠ 0 ∧ w1.rd (oHuskPodsHeld h) + n ≤ w1.rd (oHuskPodLimit h) ∧ w1.podsNow h n = false
    let granted := n = 0 ∨ (w1.rd (oHuskPodsHeld h) + n ≤ w1.rd (oHuskPodLimit h) ∧ w1.podsNow h n = true)
    (w1.seqCancelled h (dSeq cmd) = true → Performs i s (fun _ => w1.finished c cmd 3 0x0105))
    ∧ (w1.seqCancelled h (dSeq cmd) = false →
      (∀ reason, w1.podFail c cmd = some reason → Performs i s (fun _ => w1.rejected c cmd reason (World.podSpans cmd)))
      ∧ (w1.podFail c cmd = none →
        (n ≠ 0 → w1.rd (oHuskPodLimit h) < w1.rd (oHuskPodsHeld h) + n → Performs i s (fun _ => w1.finished c cmd 1 0x020E))
        ∧ (short → (w1.podsAvailable h n = false ∨ w1.queueBefore ≠ []) → w1.tiePossible h c.slice (dPrio cmd) n = false →
          (dWait cmd = false → Performs i s (fun _ => w1.finished c cmd 1 0x0202))
          ∧ (dWait cmd = true → Performs i s (fun _ => ((w1.waiting c cmd .alloc []).upPods (fun u =>
              { u with queue := u.queue ++ [⟨h, c.slice, dPrio cmd, none, false, w1.now⟩] })).inc (oHuskPodAllocWaits h) 1)))
        ∧ (∀ late tie w2, short → w1.podTie h c.slice (dPrio cmd) n = ((late, tie), w2) →
          (late = false → (tie || dWait cmd) = true → Performs i s (fun _ =>
            (w2.waiting c cmd .alloc []).podQueued ⟨h, c.slice, dPrio cmd, none, tie, w1.now⟩))
          ∧ (late = false → (tie || dWait cmd) = false → Performs i s (fun _ => w2.finished c cmd 1 0x0202))
          ∧ (late = true → w2.podForwardOk c cmd = true → Performs i s (fun _ =>
            let (w3, wait, st, rs, aux) := (w2.noteGrant h c.slice (dPrio cmd) n).podGo c cmd
            enter w3 st rs wait aux)))
        ∧ (granted → w1.podForwardOk c cmd = false → Performs i s (fun _ => w1.finished c cmd 1 0x0211))
        ∧ (granted → w1.podForwardOk c cmd = true → let cs := dCovers cmd;
          let w2 := w1.noteGrant h c.slice (dPrio cmd) n;
          let r0 : Rd := ⟨[], [], []⟩
          (op = 0x40 → Performs i s (fun _ =>
            enter ((cs.zip (w2.freePods cs.length)).foldl (fun w x => w.allocOne h c.master (dGeo cmd) x.1 x.2) w2) 0 0 .done []))
          ∧ (op = 0x41 → Performs i s (fun _ =>
            enter ((cs.zip (dSources cmd)).foldl (fun w x => w.shareOne h c.master x.2.va x.1.va) w2) 0 0 .done []))
          ∧ (op = 0x42 → Performs i s (fun _ => enter (w2.each cs (fun w x => w.releaseOne h c.master x.va)) 0 0 .done []))
          ∧ (op = 0x43 → Performs i s (fun _ =>
            let (d, w3) := cs.foldl (fun (st : Rd × World) x => let (w, d) := st.2.appendOne c cmd x; (st.1.append d, w)) (r0, w2)
            enter w3 (if d.anyBad then 2 else 0) (if d.anyBad then d.reason else 0) .done []))
          ∧ (op = 0x44 → Performs i s (fun _ => enter (w2.endGeneration h (dSeq cmd) layers.1 layers.2 (some (dPos cmd))) 0 0 .done []))
          ∧ (op = 0x45 → Performs i s (fun _ => enter (w2.endGeneration h (dSeq cmd) layers.1 layers.2 none) 0 0 .done []))
          ∧ (op = 0x46 → ∀ id w3, (w2.endGeneration h (dSeq cmd) layers.1 layers.2 none).swapGroup h c.slice none = (id, w3) →
            let l := cs.filter (fun x => (w3.listEnt h x.va).kind == 1)
            (l = [] → Performs i s (fun _ => enter (w3.upPods (fun t => { t with groups := t.groups.del id })) 0 0 .done []))
            ∧ (l ≠ [] → Performs i s (fun _ => enter (w3.each l (fun w x => w.swapOutOne h c.slice id x.va (World.swapSlot cmd x))) 0 0 .swap [id])))
          ∧ (op = 0x47 → ∀ id w3, w2.swapGroup h c.slice none = (id, w3) →
            let l := cs.filter (fun x => (w3.listEnt h x.va).kind == 2)
            (l = [] → Performs i s (fun _ => enter (w3.upPods (fun t => { t with groups := t.groups.del id })) 0 0 .done []))
            ∧ (l ≠ [] → Performs i s (fun _ => enter ((l.zip (w3.freePods l.length)).foldl (fun w x =>
                w.swapInOne h c.slice id x.1.layer x.1.va x.1.ix x.2 (dGeo cmd)) w3) 0 0 .swap [id])))
          ∧ (op = 0x48 → Performs i s (fun _ =>
            let (d, w3) := (List.range (dLayers cmd)).foldl (fun (st : Rd × World) l =>
              let (w, d) := st.2.forwardLayer c cmd (dLayer cmd + l)
              (st.1.append d, w)) (r0, w2)
            enter (w3.addPeer h (dSeq cmd) (dGen cmd) (dPeer cmd, dPeerHusk cmd, dPeerSeq cmd)) (if d.anyBad then 2 else 0)
              (if d.anyBad then d.reason else 0) .done [])))))

/-- Pods that wait, retire and swap, R197, R201 and R208 to R210: the grant goes to a waiting request; a RETIRING pod without
references or readers becomes FREE; an acknowledged swap write makes its entry SWAPPED, one that failed makes it RESIDENT
again and counts; a swap-in read ends its swap. A number that names no swap changes nothing. -/
def Obligations.PodsWaitRetireAndSwap : Prop :=
  ∀ s : State,
    (∀ p, p < s.val oPodRegionPods → (s.world.pod p).state = podRetiring → (s.world.pod p).refs = 0 → (s.world.pod p).readers = 0 →
      Performs (.podRetireFree p) s (fun w => w.freePod p))
    ∧ (∀ a rest, s.dev.pods.queue = a :: rest → s.world.podsAvailable a.husk (s.world.requestNeed a) = true →
        s.val (oHuskPodsHeld a.husk) + s.world.requestNeed a ≤ s.val (oHuskPodLimit a.husk) →
        let w1 := s.world.upPods (fun u => { u with queue := rest })
        (a.seq = none → Performs .podAllocGrant s (fun _ => w1.podGrant a))
        ∧ ∀ q, a.seq = some q → Performs .podAllocGrant s (fun _ => w1.stepAlloc a.husk q (seqMaster a.slice)))
    ∧ (∀ id op ok w1, s.dev.pods.swaps.get? id = some op → op.out = true →
        s.world.writeVirt op.husk (seqMaster op.slice) 0x22 op.slot op.data op.bad = (ok, w1) →
        (w1.swapLive op = true → Performs (.swapWriteAck id) s (fun _ =>
          (((w1.setList op.husk (seqMaster op.slice) op.entry (listSwapped op.slot op.tokens)).setPod op.pod
            { w1.pod op.pod with swapAddr := 0 }).dropRef op.pod).swapDone id op false false))
        ∧ (w1.swapLive op = false → Performs (.swapWriteAck id) s (fun _ => w1.swapDone id op false false)))
    ∧ (∀ id op, s.dev.pods.swaps.get? id = some op → op.out = true → Performs (.swapWriteFailed id) s (fun w =>
        let w2 := w.setList op.husk (seqMaster op.slice) op.entry (listPod 1 op.pod)
        let x := w2.pod op.pod
        let w3 := if x.state = podSwapOut then w2.setPod op.pod { x with state := podActive, swapAddr := 0 } else w2
        ((if w.swapLive op then w3 else w).inc (oHuskPodSwapFailed op.husk) 1).swapDone id op true false))
    ∧ (∀ id op o, s.dev.pods.swaps.get? id = some op → op.out = false → Performs (.swapInReadDone id o) s (fun w => w.swapInEnd id o)
        ∧ Completes (.swapInReadDone id o) s (fun t => t.dev.pods.swaps.get? id = none))
    ∧ ∀ id o, s.dev.pods.swaps.get? id = none → exec (.swapWriteAck id) s = .next s ∧ exec (.swapWriteFailed id) s = .next s
        ∧ exec (.swapInReadDone id o) s = .next s

/-! ### Sequences, tenants, checkpoints and updates -/

/-- Sequence commands, R236 to R252 and R255: one that fails a check is rejected with the first failure's reason; one that passes
has its effect and finishes, a commit after the boundaries and cancellations of its tick (R252, R253). ADMIT makes the entry QUEUED with its generation kept; FINISH makes it DONE; a PAUSE of an unplanned
sequence takes effect at once, of a planned one at its commit; RESUME is noted for the next plan; RELEASE frees the entry;
TENANT_SET gives the tenant its identity and its tokens. A plan waits while it is held. -/
def Obligations.SequenceCommands : Prop :=
  ∀ (s : State) (sl : Fin 16) (cmd : Nat) (w1 : World), let r := s.world.blockRing sl 14
    let c := w1.ctx r
    let h := c.husk
    let q := dSeq cmd
    let ready (op : Nat) : Prop := s.world.takeEntry r (fun x => cmdOp x == op) = some (cmd, w1)
    let does (op : Nat) (i : Instr) (f : World) : Prop := ready op → w1.seqFail c cmd = none → Performs i s (fun _ => f.finished c cmd 0 0)
    let fails (op : Nat) (i : Instr) : Prop := ready op → ∀ reason, w1.seqFail c cmd = some reason → Performs i s (fun _ => w1.rejected c cmd reason (w1.seqSpans c cmd))
    fails 1 (.seqAdmit sl) ∧ fails 3 (.seqCommit sl) ∧ fails 4 (.seqFinish sl) ∧ fails 5 (.seqPause sl) ∧ fails 6 (.seqResume sl)
    ∧ fails 7 (.seqRelease sl) ∧ fails 8 (.tenantSet sl) ∧ (w1.planHeld h = false → fails 2 (.seqPlan sl))
    ∧ does 1 (.seqAdmit sl)
        (let v := cmd / 2 ^ 448 * 2 ^ 448 + w1.now % 2 ^ 64 * 2 ^ 384 + 2 ^ 96 + sqcDraft cmd * 2 ^ 56 + sqcPrio cmd * 2 ^ 54
            + fld cmd 32 16 * 2 ^ 16 + sqcTenant cmd
         let w2 := (w1.putSeq h q (sqSet v ssQueued 0x0103)).setSeqRt h q ⟨0, 0, false, 0, 0, bitAt (sqcArg cmd) 0, false⟩
         w2.upPods (fun u => { u with peers := u.peers.del (h * 65536 + q) }))
    ∧ (ready 2 → w1.planHeld h = true → exec (.seqPlan sl) s = .next s)
    ∧ (ready 2 → w1.planHeld h = false → w1.seqFail c cmd = none → Performs (.seqPlan sl) s (fun _ => (w1.seqPlan c cmd).2.2.finished c cmd 0 0))
    ∧ (∀ p, (w1.cancelEffect h).planAt h (sqcA cmd) = some p → does 3 (.seqCommit sl)
        (let w2 := (w1.cancelEffect h).each ((List.range p.entries.length).zip p.entries) (fun w e => w.commitOne c cmd e)
         let w3 := w2.upSeqs (fun u => { u with plans := u.plans.filter (fun x => !(x.husk == h && x.buffer == sqcA cmd)) })
         w3.wr (oHuskSeqStepsInFlight h) (w3.dev.seqs.plans.filter (fun x => x.husk == h)).length))
    ∧ does 4 (.seqFinish sl) ((w1.seqTo h q ssDone 0).seqLetGo h q)
    ∧ (w1.inPlan h q = false → does 5 (.seqPause sl) (w1.seqPauseNow h q))
    ∧ (w1.inPlan h q = true → does 5 (.seqPause sl) (w1.modSeqRt h q (fun x => { x with pausing := true })))
    ∧ does 6 (.seqResume sl) (w1.modSeqRt h q (fun x => { x with pausing := true }))
    ∧ does 7 (.seqRelease sl) ((w1.seqTo h q 0 0).upSeqs (fun u => { u with rts := u.rts.del (h * 65536 + q) }))
    ∧ does 8 (.tenantSet sl) (w1.modTenant (sqcTenant cmd) (fun t => { t with
        state := 1, husk := h, ident := fld cmd 480 32, cap := fld cmd 448 32, refill := sqcArg cmd,
        issued := t.issued + sqcArg cmd, available := t.available + sqcArg cmd }))

/-- Time and management of sequences, R243, R252 to R257 and R262: a QUEUED sequence past its hold limit is REFUSED; a boundary that is
due refills every active tenant; a window write starts the windows anew; cancellations name sequences and take effect a
tick later; a weight replacement starts in the tick after its write, drains and ends layer by layer; a checkpoint table of rising entries is taken. -/
def Obligations.SequenceManagement : Prop :=
  ∀ s : State,
    (∀ (h : Fin 16) (q : BitVec 16), let v := s.world.seqWord h.val q.toNat
      s.world.seqState h.val q.toNat = ssQueued → sqArrival v + sqHold v ≤ s.dev.time.tick →
      (1 ≤ (s.world.tenant (sqTenant v)).available → Performs (.seqHoldExpiry h q) s (fun w => w.seqEnd h.val q.toNat ssRefused 0x0102))
      ∧ ((s.world.tenant (sqTenant v)).available = 0 → Performs (.seqHoldExpiry h q) s (fun w =>
          (w.seqEnd h.val q.toNat ssRefused 0x0101).modTenant (sqTenant v) (fun t => { t with refusals := t.refusals + 1 }))))
    ∧ (s.val oTenantWindow ≠ 0 → s.dev.seqs.lastBoundary + s.val oTenantWindow ≤ s.dev.time.tick →
        Performs .tenantWindowBoundary s (fun w =>
          let w1 := w.tenantBoundary
          { w1 with dev := { w1.dev with seqs := { w1.dev.seqs with lastBoundary := w.nextBoundary } } }))
    ∧ (∀ (p : Path) (v : Word), odTakes s.world p 0x2070 1 v = true → Completes (.tenantWindowWrite p v) s (fun t =>
        t.reply p = 0 ∧ t.val oTenantWindow = v.toNat ∧ t.val oTenantWindowStart = s.dev.time.tick % 2 ^ 64 ∧ t.dev.seqs = { s.dev.seqs with lastBoundary := s.dev.time.tick }
        ∧ SameMemory s t ∧ SameObjectsBut [oTenantWindow, oTenantWindowStart, oNvConfigWrites] s t))
    ∧ (∀ (p : Path) (h : Fin 16) (v : Word) (i : Instr), (i = .seqCancel p h v ∨ i = .seqCancelGroup p h v) →
        odTakes s.world p (0x3060 + h.val * 256) 0x10 v = true → rsvd v.toNat 16 15 = true →
        (s.world.cancelNames h.val v.toNat ≠ [] → Completes i s (fun t => t.reply p = 0 ∧ t.dev.od = s.dev.od ∧ SameMemory s t
          ∧ t.dev.seqs.cancels = s.dev.seqs.cancels.put h.val (s.dev.seqs.cancels.getD h.val []
              ++ (s.world.cancelNames h.val v.toNat).map (fun q => (q, s.dev.time.tick)))
          ∧ t.dev.seqs.plans = s.dev.seqs.plans))
        ∧ (s.world.cancelNames h.val v.toNat = [] → Completes i s (fun t => t.reply p = 0x0108 ∧ t.dev.seqs = s.dev.seqs
          ∧ t.val (oHuskSeqLastReason h.val) = 0x0108 ∧ SameMemory s t ∧ SameObjectsBut [oHuskSeqLastReason h.val] s t)))
    ∧ (∀ (h : Fin 16) q k, s.dev.seqs.cancels.getD h.val [] = [(q, k)] → k < s.dev.time.tick → Performs (.seqCancelEffect h) s (fun w =>
        let w1 := w.tenantCatchUp.upSeqs (fun u => { u with cancels := u.cancels.del h.val })
        if sqLive (w1.seqState h.val q) then w1.seqEnd h.val q ssCancelled 0x0105 else w1))
    ∧ (∀ (p : Path) (h : Fin 16) (v : Word) (i : Instr), (i = .seqCancel p h v ∨ i = .seqCancelGroup p h v) →
        odTakes s.world p (0x3060 + h.val * 256) 0x10 v = true → rsvd v.toNat 16 15 = false →
        Completes i s (fun t => t.reply p = 0x000D ∧ t.dev.seqs = s.dev.seqs ∧ t.val (oHuskSeqLastReason h.val) = 0x000D ∧ SameMemory s t
          ∧ SameObjectsBut [oHuskSeqLastReason h.val] s t))
    ∧ (∀ (p : Path) (h : Fin 16) (v : Word), odTakes s.world p (0x3060 + h.val * 256) 0x20 v = true →
        let cur := s.val (oHuskReplaceState h.val)
        let due := s.world.replaceDue h.val
        let ok := fld cur 60 4 == 0 && decide (fld cur 0 32 < fld v.toNat 0 32) && !due
        Completes (.huskReplaceStart p h v) s (fun t =>
          t.reply p = (if rsvd v.toNat 48 16 then (if ok then 0 else 0x010A) else 0x000D)
          ∧ t.dev.due = s.dev.due ++ (if rsvd v.toNat 48 16 && ok then [.replaceStart h.val (fld v.toNat 0 32) (fld v.toNat 32 16)] else [])
          ∧ t.dev.od = s.dev.od ∧ t.dev.seqs = s.dev.seqs ∧ SameMemory s t))
    ∧ (∀ (h : Fin 16) (ver n : Nat), ver < 2 ^ 32 → let t := s.run (fun w => w.dueAct (.replaceStart h.val ver n))
        t.val (oHuskReplaceState h.val) = World.replaceWord 1 0 ver ∧ t.world.planHeld h.val = true
          ∧ t.dev.seqs.plans = s.dev.seqs.plans ∧ SameMemory s t ∧ SameObjectsBut [oHuskReplaceState h.val] s t)
    ∧ (∀ h : Fin 16, let cur := s.val (oHuskReplaceState h.val)
        fld cur 60 4 = 1 → s.val (oHuskSeqStepsInFlight h.val) = 0 → Performs (.replaceDrained h) s (fun w =>
          (w.wr (oHuskReplaceState h.val) (World.replaceWord (if w.dev.seqs.replaceLayers.getD h.val 0 = 0 then 0 else 2) 0 (fld cur 0 32))).writeReady
            h.val (fld cur 0 32 * 65536)))
    ∧ (∀ (p : Path) (h : Fin 16) (v : Word), odTakes s.world p (0x3060 + h.val * 256) 0x22 v = true →
        let cur := s.val (oHuskReplaceState h.val)
        let n := s.dev.seqs.replaceLayers.getD h.val 0
        (fld cur 60 4 = 2 → fld cur 32 16 < v.toNat → v.toNat ≤ n → Performs (.huskReplaceLayerDone p h v) s (fun w =>
          (((odAsked w p (0x3060 + h.val * 256) 0x22 v).wr (oHuskReplaceState h.val)
            (World.replaceWord (if v.toNat = n then 0 else 2) v.toNat (fld cur 0 32))).writeReady h.val (fld cur 0 32 * 65536 + v.toNat)).odFinish
              p 0 0 [] false))
        ∧ (fld cur 60 4 = 2 → (v.toNat ≤ fld cur 32 16 ∨ n < v.toNat) → Completes (.huskReplaceLayerDone p h v) s (fun t =>
            t.reply p = 0x000D ∧ t.dev.od = s.dev.od ∧ SameMemory s t))
        ∧ (fld cur 60 4 ≠ 2 → Completes (.huskReplaceLayerDone p h v) s (fun t => t.reply p = 0x0108 ∧ t.dev.od = s.dev.od ∧ SameMemory s t)))
    ∧ ∀ (p : Path) (h : Fin 16) (v : Word), odTakes s.world p (0x3080 + h.val * 256) 2 v = true →
        let reason := if s.world.runActive h.val then 0x0208 else if s.world.ckTableOk h.val v.toNat then 0 else 0x0504
        Completes (.ckptTableWrite p h v) s (fun t => t.reply p = BitVec.ofNat 16 reason ∧ SameMemory s t
          ∧ t.val (oHuskCkptCount h.val) = (if reason = 0 then v.toNat else s.val (oHuskCkptCount h.val))
          ∧ t.dev.prefetch.ckBase = (if reason = 0 then s.dev.prefetch.ckBase.put h.val (s.val (oHuskCkptTableBase h.val)) else s.dev.prefetch.ckBase)
          ∧ SameObjectsBut [oHuskCkptCount h.val, oNvConfigWrites] s t)

/-- Weight updates, R286 to R300: an UPDATE that passes its checks locks its parameters and waits for the reduction's flag, one
that fails is rejected; the flag's word begins the programs; a program's end writes the new bank and what R295 names, and
carries the command on; with no flag at its limit the locks go and the command ends. A NOP finishes. -/
def Obligations.UpdateCommands : Prop :=
  ∀ (s : State) (sl : Fin 16), let r := s.world.blockRing sl 13
    (∀ cmd w1, let c := w1.ctx r
      (s.world.takeEntry r (fun x => cmdOp x == 0) = some (cmd, w1) →
        Performs (.updateNop sl) s (fun _ => w1.finished c cmd (if uReserved cmd then 0 else 1) (if uReserved cmd then 0 else 0x0003)))
      ∧ (s.world.takeEntry r (fun x => cmdOp x == 1) = some (cmd, w1) → w1.dev.seqs.turnHeld.elem c.husk = false →
          (w1.updateFail c cmd = none → Performs (.update sl) s (fun _ =>
            (w1.each (List.range (uCount cmd)) (fun w i => w.upSetLock c cmd i (c.slice + 1))).waiting c cmd .grad [0, 0, 0, 0, 0, 0]))
          ∧ ∀ reason, w1.updateFail c cmd = some reason → Performs (.update sl) s (fun _ => w1.rejected c cmd reason (w1.updateSpans c cmd)))
      ∧ (s.world.takeEntry r (fun x => cmdOp x == 1) = some (cmd, w1) → w1.dev.seqs.turnHeld.elem c.husk = true →
          exec (.update sl) s = .next s))
    ∧ (∀ t0, s.world.takenWith r .grad = some t0 →
        let flag := fld (s.world.vnum t0.husk (uFlag t0.cmd) 8) 0 32
        let c : Ctx := s.world.ctxOf r t0
        (flag = uFlagSeq t0.cmd → Performs (.updateGradReady sl) s (fun w =>
          World.updateOn (uCount t0.cmd) (w.modTaken r (fun t => t.wait == .grad) (fun t => { t with wait := .event })) c t0.cmd t0.aux))
        ∧ (flag ≠ uFlagSeq t0.cmd → t0.since + s.val (oHuskUpdateTimeout t0.husk) ≤ s.dev.time.tick →
            Performs (.updateGradTimeout sl) s (fun w =>
              (w.each (List.range (uCount t0.cmd)) (fun u i => u.upSetLock (w.ctx r) t0.cmd i 0)).finishWait r .grad 1 0x050B)))
    ∧ (∀ t0, s.world.takenWith r .grad = some t0 → let flag := fld (s.world.vnum t0.husk (uFlag t0.cmd) 8) 0 32
        (flag ≠ uFlagSeq t0.cmd → exec (.updateGradReady sl) s = .next s))
    ∧ ∀ t0, s.world.upWaits sl 0 = some t0 → s.val (oSliceRunning sl.val) = t0.husk →
        Performs (.paramCommit sl) s (fun w =>
          let c : Ctx := w.ctxOf r t0
          let cmd := t0.cmd
          let h := t0.husk
          let i := t0.aux.headD 0
          let v := w.upEnt h cmd i
          let used := fld (w.vnum h (uRecord cmd) 64) 192 32
          let came := t0.aux.drop 6
          let ((g, _), w1) := w.readVirt h c.master 1 (uGrad cmd + upGrad v * 544) (gradBytes v)
          let ((d, _), w2) := w1.readVirt h c.master 1 (upBankAddr v (upBank v)) (bankBytes v)
          let (b, bad, w3) : List Byte × Bool × World := if came = [] then (d.data, d.anyBad, w2.consumed c (upBankAddr v (upBank v)) d)
            else (came.map (BitVec.ofNat 8), false, w1)
          let st := upRun v (uStep cmd) (gradOf cmd v used g.data) (bankRead v b)
          let out := bankAll v st (pubData cmd v t0.key (w3.elementsBefore h cmd i) st.w)
          let dst := upBankAddr v (1 - upBank v)
          match w3.tier3Port h dst .wr with
          | some p =>
            if w3.portCarries p then
              (w3.upKeep c (t0.aux.set 4 (if bad then 2 else t0.aux.getD 4 0)) 2 [if bad then 1 else 0]).t3Begin
                ⟨p, true, dst, out.length, World.pfMaster sl.val, h, 2, sl.val, out, 0⟩
            else w3.upSkip c cmd t0.aux 0x0209
          | none =>
            let put (u : World) (va : Nat) (x : List Byte) : World :=
              let bb := List.replicate x.length bad
              (u.writeVirt h c.master 2 va (maskBad va x bb) bb).2
            let pub := (out.drop (bankBytes v - up64 (pubBytes v))).take (pubBytes v)
            let w4 := put (put w3 dst out) (uStage cmd + 64 + 64 * upPub v) pub
            let v1 := setFld (setFld (setFld (setFld v 8 8 0) 16 1 (1 - upBank v)) 192 64 (uStep cmd)) 160 32 (f32Mul (upPow1 v) (upBeta1 v)).toNat
            let w5 := (w4.upCommitWord c cmd i (setFld v1 128 32 (f32Mul (upPow2 v) (upBeta2 v)).toNat)).inc (oHuskUpdateApplied h) 1
            World.updateOn (uCount cmd) w5 c cmd
              [i + 1, t0.aux.getD 1 0 + 1, t0.aux.getD 2 0, t0.aux.getD 3 0, if bad then 2 else t0.aux.getD 4 0])

/-- Turns, R306 to R318: a start begins the operation, unless one runs; validation fails the turn on its configuration or its tables, or
lets its drain begin in the next tick; an ended drain goes to the barrier; a limit that has passed aborts, or at the commit pauses, at the
end of its tick; a resolution of a paused turn commits or aborts it; the reached phase releases the husk; a turn not yet committed can be
cancelled, in the next tick. -/
def Obligations.TurnCommands : Prop :=
  ∀ (s : State) (h : Fin 16), let st := s.val (oTurnStatus h.val 0)
    let cfg := s.val (oHuskTurnConfig h.val)
    let dues (a : DueAct) : List DueAct := if s.dev.due.elem a then s.dev.due else s.dev.due ++ [a]
    let later (i : Instr) (a : DueAct) : Prop := Completes i s (fun t => t.dev.due = dues a ∧ t.dev.od = s.dev.od
      ∧ t.dev.turns = s.dev.turns ∧ t.dev.fabric = s.dev.fabric ∧ SameMemory s t)
    let when' (a : DueAct) : State := s.run (fun w => w.dueAct a)
    (∀ p, odTakes s.world p (0x30A0 + h.val * 256) 0x05 1 = true →
      (stIdleOrTerminal st = true → (∀ x, s.dev.turns.get? h.val = some x → ∀ m ∈ x.early, m.kind ≠ 8#8 ∨ m.addr.toNat / 65536 ≠ fld cfg 32 32) →
        Completes (.huskTurnStart p h 1) s (fun t => t.reply p = 0 ∧ SameMemory s t
          ∧ stState (t.val (oTurnStatus h.val 0)) = 2 ∧ t.dev.fabric = s.dev.fabric
          ∧ ∃ x, t.dev.turns.get? h.val = some x ∧ x.stage = 0 ∧ x.turnId = fld cfg 32 32
              ∧ x.prevPhase = s.val (oHuskPhase h.val) ∧ x.since = s.dev.time.tick))
      ∧ (stIdleOrTerminal st = false → Completes (.huskTurnStart p h 1) s (fun t => t.reply p = 0x0605 ∧ t.dev.od = s.dev.od
          ∧ t.dev.turns = s.dev.turns ∧ SameMemory s t)))
    ∧ (∀ x, s.dev.turns.get? h.val = some x →
        let layoutAt := s.world.turnTable h.val (s.val (oHuskTurnLayoutBase h.val)) 32 (2 ^ 32 - 1) (some x.turnId)
        let planAt := s.world.turnTable h.val (s.val (oHuskTurnPlanBase h.val)) 64 16777214 (some x.turnId)
        (x.stage = 0 → s.world.turnParts h.val cfg = none → Performs (.turnValidated h) s (fun w => w.turnAbort h.val x 0x0602 0xFFFF 5 false))
        ∧ (∀ y, x.stage = 0 → s.world.turnParts h.val cfg = some y → (layoutAt = none ∨ planAt = none) →
            Performs (.turnValidated h) s (fun w => w.turnAbort h.val x 0x0603 0xFFFF 5 false))
        ∧ (∀ parts rank lc layout pc plan, x.stage = 0 → s.world.turnParts h.val cfg = some (parts, rank) →
            layoutAt = some (lc, layout) → planAt = some (pc, plan) →
            let old := if s.val (oHuskTurnIdCurrent h.val) = 0 then [] else ranksEnts rank (s.world.turnCurrent h.val)
            let ok := layout.all (layoutEntOk parts.length) && plan.all (planEntOk parts.length plan.length)
              && turnPlanOk rank old (ranksEnts rank layout) plan
            (ok = false → Performs (.turnValidated h) s (fun w => w.turnAbort h.val x 0x0603 0xFFFF 5 false))
            ∧ (ok = true → x.early = [] → Completes (.turnValidated h) s (fun t =>
              t.dev.due = dues (.turnDrain h.val x.turnId) ∧ t.dev.seqs = s.dev.seqs ∧ t.dev.fabric = s.dev.fabric ∧ SameMemory s t
              ∧ ∃ y, t.dev.turns.get? h.val = some y ∧ y.stage = 1 ∧ y.parts = parts ∧ y.rank = rank ∧ y.layoutCrc = lc
                  ∧ y.planCrc = pc ∧ y.turnId = x.turnId ∧ y.since = s.dev.time.tick
                  ∧ y.plan = ((List.range plan.length).zip plan).filter (fun p => peFrom p.2 == rank || peTo p.2 == rank))))
        ∧ (x.stage = 1 → fld cfg 0 2 ≠ 1 → let t := when' (.turnDrain h.val x.turnId)
            t.dev.seqs.turnHeld = setInsert h.val s.dev.seqs.turnHeld
            ∧ t.dev.turns.get? h.val = some { x with cancelled := [], since := s.dev.time.tick } ∧ t.dev.od = s.dev.od ∧ SameMemory s t)
        ∧ (x.stage = 1 → s.dev.seqs.turnHeld.elem h.val = true → s.world.turnDrained h.val x = true → Performs (.turnDrainEnd h) s (fun w =>
            let t1 := { x with stage := 2, since := w.now }
            let w1 := ((w.setPhase h.val 2).turnRecord h.val 3 0).turnSummary h.val 0 0xFFFF 2
            (w1.each (World.turnOthers t1) (fun w k => w.sendTurn h.val t1 k 0x06 0
              (leBytes 4 x.layoutCrc ++ leBytes 4 x.planCrc ++ leBytes 4 x.rank))).turnBarrier h.val t1))
        ∧ (x.stage = 1 → (s.dev.seqs.turnHeld.elem h.val = false ∨ s.world.turnDrained h.val x = false) →
            exec (.turnDrainEnd h) s = .next s)
        ∧ (x.stage = 1 → x.since + s.val (oHuskTurnDrainTimeout h.val) ≤ s.dev.time.tick → later (.turnDrainTimeout h) (.turnLimit h.val 1)
            ∧ when' (.turnLimit h.val 1) = s.run (fun w => w.turnAbort h.val x 0x0606 0xFFFF 5 true))
        ∧ (x.stage = 2 → x.since + s.val (oHuskTurnBarrierTimeout h.val) ≤ s.dev.time.tick → later (.turnBarrierTimeout h) (.turnLimit h.val 2)
            ∧ when' (.turnLimit h.val 2) = s.run (fun w => w.turnAbort h.val x 0x0607 0xFFFF 5 true))
        ∧ (x.stage = 4 → x.since + s.val (oHuskTurnCommitTimeout h.val) ≤ s.dev.time.tick → later (.turnCommitTimeout h) (.turnLimit h.val 4)
            ∧ let t := when' (.turnLimit h.val 4)
              t.dev.turns.get? h.val = some { x with stage := 7 } ∧ stState (t.val (oTurnStatus h.val 0)) = 3 ∧ t.dev.fabric = s.dev.fabric
              ∧ SameMemory s t ∧ SameObjectsBut [oTurnStatus h.val 0, oTurnStatus h.val 1] s t)
        ∧ (x.stage = 5 → s.world.pointReached = true → Performs (.turnSwitchDone h) s (fun w => w.turnRelease h.val x))
        ∧ (s.world.pointReached = false → exec (.turnSwitchDone h) s = .next s)
        ∧ ∀ p, (odTakes s.world p (0x30A0 + h.val * 256) 0x06 1 = true → Deferred (.huskTurnCancel p h 1) s p (.cancelTurn p h.val)
              ∧ Completes (.huskTurnCancel p h 1) s (fun t => t.dev.turns = s.dev.turns))
          ∧ (stIdleOrTerminal st = false → x.stage ≤ 3 → when' (.cancelTurn p h.val)
              = s.run (fun w => (w.turnAbort h.val x 0x0601 0xFFFF 6 true).odFinish p 0 0 [] false))
          ∧ (s.val oFieldNetState ≠ 2 → (stIdleOrTerminal st = true ∨ 3 < x.stage) → let t := when' (.cancelTurn p h.val)
              t.reply p = (if stIdleOrTerminal st then 0x000E else 0x0605) ∧ t.dev.od = s.dev.od ∧ t.dev.turns = s.dev.turns ∧ SameMemory s t)
          ∧ (odTakes s.world p (0x30A0 + h.val * 256) 0x07 1 = true →
              (x.stage = 7 → Completes (.turnResolveCommit p h) s (fun t => t.reply p = 0 ∧ t.dev.due = dues (.turnCommit h.val true)
                ∧ t.dev.od = s.dev.od ∧ t.dev.turns = s.dev.turns ∧ SameMemory s t))
              ∧ (x.stage ≠ 7 → Completes (.turnResolveCommit p h) s (fun t => t.reply p = 0x0605 ∧ t.dev.od = s.dev.od
                ∧ t.dev.turns = s.dev.turns ∧ SameMemory s t)))
          ∧ (x.stage = 7 → when' (.turnCommit h.val true) = s.run (fun w => w.turnCommit h.val x))
          ∧ (odTakes s.world p (0x30A0 + h.val * 256) 0x07 2 = true → x.stage = 7 → Performs (.turnResolveAbort p h) s (fun w =>
              ((odAsked w p (0x30A0 + h.val * 256) 0x07 2).turnAbort h.val x 0x0608 0xFFFF 5 true).odFinish p 0 0 [] false)))

/-! ### Husks and the cycle -/

/-- Husks, R326, R327, R344 and R45: an enable of a DISABLED husk whose configuration passes draws its key pair and zeroes its scratch;
its end makes the husk ACTIVE; a disable of an ACTIVE husk begins its teardown, of one ENABLING or RESETTING is held; an
invalidation drops the husk's cached translations and no other's; frames are given byte by byte. -/
def Obligations.HuskCommands : Prop :=
  ∀ (s : State) (h : Fin 16), let st := s.world.huskState h.val
    (∀ p, odTakes s.world p (0x3000 + h.val * 256) 2 1 = true →
      (st = hsDisabled → s.world.huskConfigOk h.val = true → Performs (.huskEnable p h) s (fun w =>
        let w0 := odAsked w p (0x3000 + h.val * 256) 2 1
        let w1 := (w0.wr (oHuskState h.val) hsEnabling).drawKey h.val
        let w2 := w1.each (w1.slicesOf h.val) (fun u i => (u.zeroRange (i * 0x4000000) 0x2000000).wr (oSliceOwner i) h.val)
        (w2.selectSoon.ringsOff ((sliceRingsOf h.val).filter (fun r => (w0.slicesOf h.val).elem (ringSlice r)))).odFinish p 0 0 [] false))
      ∧ (st = hsDisabled → s.world.huskConfigOk h.val = false → Completes (.huskEnable p h) s (fun t =>
          t.reply p = 0x0A01 ∧ t.dev.od = s.dev.od ∧ t.dev.keys = s.dev.keys ∧ SameMemory s t))
      ∧ (st ≠ hsDisabled → Completes (.huskEnable p h) s (fun t =>
          t.reply p = 0x0A02 ∧ t.dev.od = s.dev.od ∧ t.dev.keys = s.dev.keys ∧ SameMemory s t)))
    ∧ (st = hsEnabling → s.dev.resets.disableHeld.get? h.val = none → Completes (.huskEnableDone h) s (fun t =>
        t.val (oHuskState h.val) = hsActive ∧ t.dev.keys = s.dev.keys ∧ t.dev.rings = s.dev.rings ∧ SameMemory s t))
    ∧ (∀ p, odTakes s.world p (0x3000 + h.val * 256) 2 2 = true →
      (st = hsActive → Performs (.huskDisable p h) s (fun w =>
        (((odAsked w p (0x3000 + h.val * 256) 2 2).wr (oHuskState h.val) hsDisabling).beginReset 1 h.val 14 (pathMaster p) 0 0xFFFF).odFinish
          p 0 0 [] false))
      ∧ (st = hsEnabling ∨ st = hsResetting → Completes (.huskDisable p h) s (fun t => t.reply p = 0 ∧ t.dev.od = s.dev.od
          ∧ t.dev.resets.disableHeld.get? h.val = some (pathMaster p) ∧ SameMemory s t))
      ∧ (st = hsDisabled ∨ st = hsDisabling → Completes (.huskDisable p h) s (fun t =>
          t.reply p = (if st = hsDisabled then 0x0A03 else 0x0A02) ∧ t.dev.od = s.dev.od ∧ SameMemory s t)))
    ∧ Completes (.translationInvalidation h) s (fun t => (∀ k, k / 2 ^ 32 = h.val → t.dev.tlb.get? k = none)
        ∧ (∀ k, k / 2 ^ 32 ≠ h.val → t.dev.tlb.get? k = s.dev.tlb.get? k) ∧ t.dev.od = s.dev.od ∧ t.dev.rings = s.dev.rings ∧ SameMemory s t)
    ∧ ∀ (p : Path) (req : OdReq) (d : List Byte) (row : OdRow), let q : OdReq := { req with index := 0x2043, sub := 0 }
        odOpen s.world p = true → odLookup 0x2043 0 = some row → s.world.odWriteRefusal p 0x2043 0 row = none →
        d.length = reqLength q → 4096 * req.segment.toNat + d.length ≤ 196608 → (∀ b ∈ d, b.toNat ≤ 0x10) →
        (∀ k < 16, s.world.huskState k = hsDisabled) → Performs (.hbmFrameOwnerWrite p req d) s (fun w =>
          let w0 := odServed w ⟨1, p, q, 0, d, none, true⟩
          let w1 := w0.each (w0.frameWrites (4096 * req.segment.toNat) d) (fun u x => { u with dev := { u.dev with
            frames := if x.2 = 0 then u.dev.frames.del x.1 else u.dev.frames.put x.1 x.2 } })
          (w1.each allHusks (fun u k => u.wr (oHuskHbmQuota k) (0x200000 * (w1.dev.frames.vals.filter (fun b => b == k + 1)).length))).odFinish
            p 0 0 [] false)

/-- The cycle, R336 to R342: a valid table is committed and takes effect at the end of the table in force; CycleEnable arms the
table, or has it stop; a slot's request names what each slice is to run; a saved slice runs no husk and counts the
pre-emption; a restored one is released at its slot's start; the filler leaves an engine when its owner's command comes. -/
def Obligations.CycleCommands : Prop :=
  ∀ s : State,
    (∀ p, odTakes s.world p 0x2080 4 1 = true → let t0 := s.world.nextTable
      (s.world.tableValid t0 = true → Completes (.cycleCommit p 1) s (fun t => t.reply p = 0 ∧ t.dev.od = s.dev.od
        ∧ t.dev.cycle = { s.dev.cycle with next := some (t0, s.dev.time.tick + 100000) } ∧ SameMemory s t))
      ∧ (s.world.tableValid t0 = false → Completes (.cycleCommit p 1) s (fun t => t.reply p = 0x0A04 ∧ t.dev.od = s.dev.od
          ∧ t.dev.cycle = s.dev.cycle ∧ SameMemory s t)))
    ∧ (∀ t0, s.world.tableDue = some t0 → s.world.slotEnd ≤ s.dev.time.tick → s.dev.cycle.stopping = false →
        Performs .cycleTableEffect s (fun w => ((((w.upCycle (fun c => { c with table := t0, next := none, slotStart := w.slotEnd })).wr
          oCyclePeriod (cyclePeriodOf t0)).wr oCycleGeneration (fit 32 (w.rd oCycleGeneration + 1))).wr oCycleCurrentSlot 0).fillersBarred)
        ∧ ((∀ k, s.dev.cycle.lent.has k = false) → Completes .cycleTableEffect s (fun t => t.val oCycleCurrentSlot = 0
          ∧ t.dev.cycle = { s.dev.cycle with table := t0, next := none, slotStart := s.world.slotEnd }
          ∧ t.val oCycleGeneration = fit 32 (s.val oCycleGeneration + 1) ∧ SameMemory s t
          ∧ SameObjectsBut [oCyclePeriod, oCycleGeneration, oCycleCurrentSlot] s t)))
    ∧ (∀ p, odTakes s.world p 0x2080 1 0 = true → s.val oCycleEnable ≠ 0 → s.dev.cycle.armed = false →
        Completes (.cycleEnableWrite p 0) s (fun t => t.reply p = 0 ∧ t.val oCycleEnable = s.val oCycleEnable
          ∧ t.dev.cycle = { s.dev.cycle with stopping := true } ∧ SameMemory s t))
    ∧ (∀ p, odTakes s.world p 0x2080 1 0 = true → s.val oCycleEnable ≠ 0 → s.dev.cycle.armed = true →
        Performs (.cycleEnableWrite p 0) s (fun w =>
          let w1 := ((odAsked w p 0x2080 1 0).wr oCycleEnable 0).upCycle (fun c => { c with armed := false, requested := none })
          (w1.each allSlices (fun w i => w.requestChange i (w.slotHusk 0 i) w.now false)).odFinish p 0 0 [] false))
    ∧ (∀ p, odTakes s.world p 0x2080 1 1 = true → s.val oCycleEnable = 0 → s.dev.cycle.next = none → s.dev.cycle.table ≠ [] →
        s.dev.time.tick + 100000 ≤ s.val oCycleStartTick → Completes (.cycleEnableWrite p 1) s (fun t => t.reply p = 0
          ∧ t.val oCycleEnable = 1 ∧ t.dev.cycle = { s.dev.cycle with slotStart := s.val oCycleStartTick, armed := true, stopping := false }
          ∧ SameMemory s t))
    ∧ (∀ e start, s.world.nextSlot = some (e, start) → start ≤ s.dev.time.tick + ceLead e → s.dev.cycle.requested ≠ some start →
        Performs .cycleSlotRequest s (fun w =>
          (w.each allSlices (fun w i => w.requestChange i (w.slotHusk e i) start (w.slotGrants e i))).upCycle (fun c => { c with requested := some start })))
    ∧ (∀ (sl : Fin 16) ch, s.dev.cycle.changes.get? sl.val = some ch →
        (ch.saved = false → s.world.pipsStopped sl.val = true →
          Completes (.preemptSaveDone sl) s (fun t => t.val (oSliceRunning sl.val) = 0xFF
            ∧ t.dev.cycle.changes.get? sl.val = some { ch with saved := true }))
        ∧ (ch.saved = true → ch.restored = false → ch.incoming < 16 → s.world.restoreGood sl.val ch.incoming = true →
          Completes (.restoreDone sl) s (fun t => t.dev.cycle.changes.get? sl.val = some { ch with restored := true }))
        ∧ (ch.saved = true → ch.restored = true → ch.slotStart ≤ s.dev.time.tick →
          (16 ≤ ch.incoming → Completes (.slotRelease sl) s (fun t => t.val (oSliceRunning sl.val) = ch.incoming % 2 ^ 64
            ∧ t.dev.cycle.changes.get? sl.val = none ∧ t.dev.rings = s.dev.rings ∧ SameMemory s t))
          ∧ (ch.incoming < 16 → Performs (.slotRelease sl) s (fun w =>
            let w1 := (w.wr (oSliceRunning sl.val) ch.incoming).upCycle (fun c => { c with changes := c.changes.del sl.val })
            let w2 := w1.each (World.enginesOf sl.val ch.incoming) (fun w r => if (w.ring r).state = 5 then w.setRing r { w.ring r with state := 0 } else w)
            let w3 := (w2.each (List.range 8) (fun w e => w.chainWake (masterId 0x1 (sl.val * 8 + e)))).updateResume sl
            if ch.grant = true ∧ ch.slotStart + 200 < w.now ∧ w.dev.cycle.late ≠ ch.slotStart then
              (w3.inc oCycleSlotsLate 1).upCycle (fun c => { c with late := ch.slotStart })
            else w3)))
        ∧ (ch.saved = false → ch.requestTick + 4000 = s.dev.time.tick → Completes (.preemptForcedStop sl) s (fun t =>
            t.dev.due = (if s.dev.due.elem (.forcedStop sl.val) then s.dev.due else s.dev.due ++ [.forcedStop sl.val])
            ∧ t.dev.cycle = s.dev.cycle ∧ t.dev.od = s.dev.od ∧ t.dev.rings = s.dev.rings ∧ SameMemory s t))
        ∧ (ch.saved = false → ch.requestTick + 4000 ≤ s.dev.time.tick →
            let r : RingRef := .slice sl 8 (Fin.ofNat 16 ch.out)
            let ps := (s.world.pipsOf sl.val).filter (fun p => (s.world.pip p).waiting == 0)
            let stop (w : World) : World :=
              let told (w : World) (m : Nat) : World :=
                let w1 := (w.corrected (unitSource m) m 0 0x0A05 0).upCycle (fun c => { c with
                  changes := c.changes.put sl.val { ch with forced := true } })
                if ch.forced then w1 else w1.inc (oHuskPreemptForced ch.out) 1
              match ps with
              | p :: _ => told (w.each ps (fun w p => w.savePip p World.allRegs.1 World.allRegs.2)) (masterId 0x2 p)
              | [] => if (w.ring r).taken.isEmpty then w else told (w.setRing r { w.ring r with
                  taken := (w.ring r).taken.map (fun t => { t with wait := .done, status := 3, reason := 0x0A05 }) }) (masterId 0x4 sl.val)
            s.run (fun w => w.dueAct (.forcedStop sl.val)) = s.run stop
            ∧ (ch.requestTick + 4000 < s.dev.time.tick → Performs (.preemptForcedStop sl) s stop)))
    ∧ (∀ (sl : Fin 16) (u : Fin 9), let x := s.world.ring (.slice sl (Fin.ofNat 16 u.val) (Fin.ofNat 16 (s.world.running sl.val)))
        x.enable = true → x.head ≠ x.tail → Performs (.fillerEvict sl u) s (fun w => w.fillerReturn sl.val u.val))
    ∧ ∀ (sl : Fin 16) (u : Fin 9) (f o : Fin 16), let x := s.world.ring (.slice sl (Fin.ofNat 16 u.val) o)
        let y := s.world.ring (.filler sl u)
        s.val (oSliceFillerHusk sl.val) = f.val → s.world.running sl.val = o.val → s.world.active f.val = true → s.world.active o.val = true →
        s.val (oSliceGuestEnable sl.val) = 1 → bitAt (s.val (oHuskGuestSlices f.val)) sl.val = true → s.world.powered sl.val = true →
        s.world.ownerOf sl.val = some o.val → s.dev.cycle.changes.has sl.val = false → s.world.noFill sl.val = false →
        x.head = x.tail → x.taken = [] → s.dev.cycle.idleSince.getD (sl.val * 16 + u.val) 0 + s.val oFillerIdleTicks ≤ s.dev.time.tick →
        s.dev.cycle.lent.has (sl.val * 16 + u.val) = false → y.enable = true → y.head ≠ y.tail → y.cqFree = true → y.taken = [] →
        Performs (.fillerTake sl u) s (fun w =>
          let w1 := w.windowLoad sl.val f.val
          let w2 := if u.val < 8 then (w1.saveBank sl.val o.val (2 * u.val)).saveBank sl.val o.val (2 * u.val + 1) else w1
          w2.upCycle (fun c => { c with lent := c.lent.put (sl.val * 16 + u.val) (w.engine (masterId 0x1 (sl.val * 8 + u.val))) }))

/-! ### Collectives -/

/-- Collective descriptors, R374 to R390: the ring whose turn it is gives its engine its descriptor, which is accepted with its checks;
a source becoming ready, a deadline that passes with nothing sent, a fold whose values are ready, a ring slot coming free, a
timeout and the 10 microsecond resend each carry the named descriptor on. -/
def Obligations.CollectiveDescriptors : Prop :=
  (∀ (s : State) (e : Fin 2) (h : Fin 16) (cmd : Nat) (w1 : World) (op : Nat) (i : Instr),
    (op, i) ∈ [(1, Instr.allReduce e h), (2, .reduceScatter e h), (3, .allGather e h), (4, .allToAll e h), (5, .broadcast e h),
      (6, .reduce e h), (7, .chainBcast e h), (8, .send e h), (9, .recv e h), (10, .chainLink e h)] →
    s.world.collTurn e h = true →
    ((allHusks.map (fun k => (s.world.ring (.coll e (Fin.ofNat 16 k))).taken.length)).foldl (· + ·) 0) < 16 →
    s.world.takeEntry (.coll e h) (fun x => cmdOp x == op) = some (cmd, w1) →
    let w2 := w1.upColl (fun c => { c with served := c.served.put e.val h.val })
    let c := w1.ctx (.coll e h)
    (World.collFieldsOk cmd c.husk = false → Performs i s (fun _ => w2.finished c cmd 1 0x0003))
    ∧ (World.collFieldsOk cmd c.husk = true → Performs i s (fun _ => w2.collAccept c e.val cmd)))
  ∧ ∀ (s : State) (e : Fin 2) (h : Fin 16) (id : BitVec 32) (r : CollRun), s.world.collOf e.val h.val id.toNat = some r →
      let ready := kReady r.cmd == 0 || decide (kReadySeq r.cmd ≤ s.world.vnum r.husk (kReady r.cmd) 8)
      let absent := !r.ready || (!r.gathers && r.sent.isEmpty)
      let late := r.deadline != 0 && decide (r.deadline < s.dev.time.tick) && absent
      let r0 := if r.ready then r else { r with mine := s.world.carriesOn r }
      -- the decision of R274 and R382 on a contribution whose fate is open, where it is present and where it is absent
      let decided (w : World) (r : CollRun) : World :=
        if r.ready && (r.gathers || !r.sent.isEmpty) then (w.tellOwners r (if r.mine then 1 else 0, 0)).collGo r
        else
          let old := w.dev.coll.deferrals.getD (r.husk * 2 ^ 32 + kReduction r.cmd) (0, 0)
          let defer := r.policy == 1 && kFmtCode r.cmd == 0xC && kResid r.cmd != 0
            && decide ((if old.2 + 1 = kStep r.cmd then old.1 else 0) < r.deferMax)
          let f : Nat × Nat := if defer then (2, 0x0501) else (3, 0x0502)
          let (r1, w1) := w.settleOwn { r with folding := defer } f
          (w1.tellOwners r1 f).collGo r1
      (late = false → (ready = false ∨ r.ready = true ∨ World.srcBytes r = 0) → Performs (.collSourceReady e h id) s (fun w => w.collGo r0))
      ∧ (late = true → ready = false → r.own = none → r.ready = false →
          Performs (.collSourceReady e h id) s (fun w => decided w r0))
      ∧ (late = false → ready = true → r.ready = false → World.srcBytes r ≠ 0 → Performs (.collSourceReady e h id) s (fun w =>
          let ((d, _), w1) := w.readVirt r.husk (World.collMaster r) 1 (kSrc r.cmd) (World.srcBytes r)
          let r1 := { r0 with ready := true, src := d.data, srcBad := d.anyBad }
          if kReduces r.cmd = false then
            let (r2, w2) := w1.sendPieces r1 d.data d.anyBad d.reason
            w2.collGo r2
          else if d.anyBad = true ∧ r.own = none then
            let (r2, w2) := w1.settleOwn r1 (3, 0x0502)
            (w2.tellOwners r2 (3, 0x0502)).collGo r2
          else (if r1.mine && r1.own.isNone && r1.gathers then w1.tellOwners r1 (1, 0) else w1).collGo r1))
      ∧ (r.deadline = s.dev.time.tick → let a := DueAct.deadline e.val h.val id.toNat
          Completes (.reductionDeadline e h id) s (fun t => t.dev.due = (if s.dev.due.elem a then s.dev.due else s.dev.due ++ [a])
            ∧ t.dev.coll = s.dev.coll ∧ t.dev.od = s.dev.od ∧ SameMemory s t))
      ∧ (r.deadline ≠ 0 → r.deadline ≤ s.dev.time.tick → r.own = none → r.ready = true →
          s.run (fun w => w.dueAct (.deadline e.val h.val id.toNat)) = s.run (fun w => decided w r)
          ∧ (r.deadline < s.dev.time.tick → Performs (.reductionDeadline e h id) s (fun w => decided w r)))
      ∧ (r.deadline ≠ 0 → r.deadline < s.dev.time.tick → r.own = none → r.ready = false → ready = false →
          Performs (.reductionDeadline e h id) s (fun w =>
            let w1 := decided w r0
            match w1.collOf e.val h.val id.toNat with
            | none => w1
            | some r1 => (w1.deadlineDecide r1).2.collGo (w1.deadlineDecide r1).1))
      ∧ (r.folding = true → ready = true → Performs (.contribFold e h id) s (fun w =>
          let n := kCount r.cmd
          let ((q, _), w1) := w.readVirt r.husk (World.collMaster r) 1 (kSrc r.cmd) (World.srcBytes r)
          let ((d, _), w2) := w1.readVirt r.husk (World.collMaster r) 1 (kResid r.cmd) (2 * n)
          let vals := (List.range n).map (fun j => bf16Round (((Fmt.g8e.valAt q.data j).add (Fmt.bf16.valAt d.data j)).f32))
          let bad := (List.range n).map (fun j => Fmt.g8e.elemBad q.bad j || Fmt.bf16.elemBad d.bad j)
          let w3 := (w2.writeVirt r.husk (World.collMaster r) 2 (kResid r.cmd) (rneRow .bf16 vals) (badBytes .bf16 bad (2 * n))).2
          w3.collGo { r with folding := false }))
      ∧ (∀ d bad, r.slot = some (d, bad) → Performs (.ringSlotFree e h id) s (fun w =>
          let (r1, w1) := w.putPiece r 0 d bad 0x0010
          w1.collGo r1))
      ∧ (r.since + s.val (oHuskCollTimeout h.val) ≤ s.dev.time.tick → kReduces r.cmd = true → Performs (.collTimeout e h id) s (fun w =>
          let (r1, w1) := w.settleOwn r (3, 0x0B03)
          let late := (List.range r.n).filter (fun k => k != r.rank && !r1.fates.has k)
          let r2 := { r1 with fates := late.foldl (fun m k => m.put k (3, 0x0B03)) r1.fates }
          let (r3, w2) := (r2.expected.filter (fun j => !r2.written.elem j)).foldl (fun (st : CollRun × World) j =>
            st.2.deliverShard st.1 j (List.replicate (r.place j).2 0) true 0x0B03) (r2, w1)
          let (r4, w3) := w2.closeShards r3
          w3.collEnd r4 2 0x0B03))
      ∧ (r.since + s.val (oHuskCollTimeout h.val) ≤ s.dev.time.tick → kReduces r.cmd = false → Performs (.collTimeout e h id) s (fun w =>
          let late := (List.range r.n).filter (fun k => k != r.rank && !r.fates.has k)
          let r2 := { r with fates := late.foldl (fun m k => m.put k (3, 0x0B03)) r.fates }
          let (r3, w2) := (r2.expected.filter (fun j => !r2.written.elem j)).foldl (fun (st : CollRun × World) j =>
            st.2.putPiece st.1 j (List.replicate (kCount r.cmd) 0) true 0x0B03) (r2, w)
          w2.collEnd r3 2 0x0B03))
      ∧ ∀ k x, s.dev.coll.resends.get? k = some x → x.engine = e.val → x.refused = true → x.last + 1000 ≤ s.dev.time.tick →
          (x.first + s.val (oHuskCollTimeout x.msg.srcHusk.toNat) ≤ s.dev.time.tick → Completes (.collNotPostedResend e k) s (fun t =>
            t.dev.coll.resends.get? k = none ∧ t.dev.od = s.dev.od ∧ t.dev.fabric = s.dev.fabric ∧ SameMemory s t))
          ∧ (s.dev.time.tick < x.first + s.val (oHuskCollTimeout x.msg.srcHusk.toNat) → Performs (.collNotPostedResend e k) s (fun w =>
            let (n, w1) := w.newSeq x.msg.dest.toNat x.msg.srcHusk.toNat x.msg.dstHusk.toNat x.msg.vc.toNat
            let m := { x.msg with seq := BitVec.ofNat 32 n }
            let w2 := w1.upColl (fun c => { c with resends := c.resends.put k { x with msg := m, last := w.now, refused := false } })
            ((w2.inc (oCollNotPostedResends e.val) 1).inc (oCollBytesSent e.val) m.payload.length).sendMsg m))

/-! ### The dictionary, ledgers and ports -/

/-- Dictionary requests, R408 to R415, R436 and R438: a READ of a scalar answers its value, an INFO its length, right and type; a WRITE
of an object with no effect of its own sets it; each request ends in the reply that its path carries. Defaults are restored
at the next reset; MCTP and PLDM requests are answered. -/
def Obligations.DictionaryRequests : Prop :=
  (∀ (s : State) (p : Path) (req : OdReq), odOpen s.world p = true →
    let index := req.index.toNat
    let sub := req.sub.toNat
    let served (k : Nat) := odServed s.world ⟨k, p, req, 0, [], none, true⟩
    (∀ row o, (p ≠ .fieldNet ∨ o = none) → World.odReadRefusal p index sub = none → odLookup index sub = some row → odIsBlob row.ty = false →
      Performs (.odRead p ⟨req, o⟩) s (fun _ =>
        ((served 0).odValue index sub row).2.odFinish p 0 (BitVec.ofNat 64 ((served 0).odValue index sub row).1) [] true)
      ∧ Performs (.odInfo p ⟨req, o⟩) s (fun _ => (served 2).odFinish p 0
          (BitVec.ofNat 64 (odBytes row.ty * 2 ^ 32 + World.odRight p index sub row * 256 + odTypeCode row.ty)) [] true))
    ∧ (∀ o, (p ≠ .fieldNet ∨ o = none) → odLookup index sub = none →
        Completes (.odRead p ⟨req, o⟩) s (fun t => t.reply p = 0x000A ∧ t.dev.od = s.dev.od ∧ SameMemory s t)
        ∧ Completes (.odInfo p ⟨req, o⟩) s (fun t => t.reply p = 0x000A ∧ t.dev.od = s.dev.od ∧ SameMemory s t)))
  ∧ (∀ (s : State) (req : OdReq) (v : Word) (d : List Byte) (ok : Bool) (o : NetOrigin), odOpen s.world .fieldNet = true →
      let k (x : NetSeen) : Bool := x.origin == o && x.kind == 1 && x.req == req && x.value == v && x.data == d
        && decide (s.dev.time.tick < x.tick + 100000000)
      (∀ x, s.dev.mgmt.net.find? k = some x → Completes (.odWrite .fieldNet req v d (some o) ok) s (fun t =>
        t.reply .fieldNet = x.reply.reason ∧ t.dev.od = s.dev.od ∧ t.dev.rings = s.dev.rings ∧ SameMemory s t)))
  ∧ (∀ (s : State) (p : Path) (req : OdReq) (v : Word), odTakes s.world p req.index.toNat req.sub.toNat v = true →
      let k : OKey := ⟨req.index.toNat * 256 + req.sub.toNat, 0⟩
      (req.index = 0x2020 ∨ req.index = 0x2030 ∨ req.index = 0x2040) →
      Completes (.odWrite p req v [] none true) s (fun t => t.reply p = 0 ∧ t.dev.od.get? k.key = some v ∧ SameMemory s t
        ∧ (∀ j, j ≠ k.key → j ≠ oNvConfigWrites.key → t.dev.od.get? j = s.dev.od.get? j) ∧ t.dev.rings = s.dev.rings))
  ∧ (∀ (s : State) (p : Path), odTakes s.world p 0x1010 1 1 = true → Completes (.configRestoreDefaults p 1) s (fun t =>
      t.reply p = 0 ∧ t.dev.saved = .empty ∧ t.dev.od = s.dev.od ∧ SameMemory s t))
  ∧ (∀ (s : State) (b : Fin 3) (eid : BitVec 8),
      Completes (.mctpControl b (some eid)) s (fun t => t.val (oMctpEid b.val) = eid.toNat ∧ SameObjectsBut [oMctpEid b.val] s t
        ∧ t.dev.mgmt = { s.dev.mgmt with answers := ⟨b.val, 0, 1, 0, 0, eid.toNat⟩ :: s.dev.mgmt.answers } ∧ SameMemory s t)
      ∧ Completes (.mctpControl b none) s (fun t => t.dev.od = s.dev.od ∧ SameMemory s t
        ∧ t.dev.mgmt = { s.dev.mgmt with answers := ⟨b.val, 0, 0, 0, 0, s.val (oMctpEid b.val)⟩ :: s.dev.mgmt.answers }))
  ∧ (∀ (s : State) (b : Fin 3) (header : BitVec 192) (d : List Byte), bitAt header.toNat 8 = false →
      (rsvd header.toNat 9 23 = false ∨ fld header.toNat 0 8 = 0 ∨ 3 < fld header.toNat 0 8) →
      Completes (.mctpVendorRequest b header d) s (fun t => t.reply .mctp = 0x0003 ∧ t.dev.od = s.dev.od ∧ SameMemory s t))
  ∧ ∀ (s : State) (b : Fin 3) (ty c : BitVec 8) (item : Nat),
      (ty ≠ 0 → ty ≠ 2 → Completes (.pldmRequest b ty c item) s (fun t => t.dev.od = s.dev.od ∧ SameMemory s t
        ∧ t.dev.mgmt.answers = ⟨b.val, 1, ty.toNat * 256 + c.toNat, item, pldmBadType, 0⟩ :: s.dev.mgmt.answers))
      ∧ ((ty = 0 ∨ ty = 2) → Completes (.pldmRequest b ty c item) s (fun t => t.dev.od = s.dev.od ∧ SameMemory s t
          ∧ ∃ v, t.dev.mgmt.answers = ⟨b.val, 1, ty.toNat * 256 + c.toNat, item,
            if pldmKnown ty.toNat c.toNat then 0 else pldmBadCommand, v⟩ :: s.dev.mgmt.answers))
      ∧ (ty = 2 → c = 0x21 → Completes (.pldmRequest b ty c item) s (fun t => t.dev.od = s.dev.od ∧ SameMemory s t
        ∧ t.dev.mgmt.answers = ⟨b.val, 1, 2 * 256 + 0x21, item, 0, s.world.huskState (item % 16)⟩ :: s.dev.mgmt.answers))

/-- Ledgers and host links, R146, R402 to R404, R428 and R429: a check of ledgers whose identities all hold changes nothing; a
requested snapshot is taken at the end of the tick after its request, when every ledger is copied and the tick noted, and
one requested in a tick that a warm or cold reset takes is not taken; LedgerFirstBroken is cleared by its own
value; a host link comes up and goes down; a write to the HDM range is counted and discarded. -/
def Obligations.LedgersAndHostLinks : Prop :=
  ∀ s : State,
    ((∀ x ∈ ledgerIndexes, s.world.ledgerOk x = true) → exec .ledgerCheck s = .next s)
    ∧ (∀ x, ledgerIndexes.filter (fun y => !s.world.ledgerOk y) = [x] → s.val oLedgerFirstBroken = 0 → Performs .ledgerCheck s (fun w =>
        ((w.inc oLedgerViolations 1).wr oLedgerFirstBroken x).containedUnit 0x000 0 0x60 0x0801 x))
    ∧ (∀ p, odTakes s.world p 0x7800 1 1 = true → s.dev.resets.seqs.get? 16 = none → Completes (.ledgerSnapshot p 1) s (fun t =>
        t.reply p = 0 ∧ t.dev.snapshot = some (s.dev.time.tick + 1) ∧ t.dev.od = s.dev.od ∧ SameMemory s t))
    ∧ (∀ p x, odTakes s.world p 0x7800 1 1 = true → s.dev.resets.seqs.get? 16 = some x → x.start = s.dev.time.tick →
        x.scope = 2 ∨ x.scope = 3 → Completes (.ledgerSnapshot p 1) s (fun t => t.reply p = 0 ∧ t.dev.snapshot = s.dev.snapshot
          ∧ t.dev.od = s.dev.od ∧ SameMemory s t))
    ∧ (∀ k, s.dev.snapshot = some k → k ≤ s.dev.time.tick → Completes .ledgerSnapshotTaken s (fun t => t.dev.snapshot = none
        ∧ t.val oLedgerSnapshotTick = s.dev.time.tick % 2 ^ 64 ∧ (∀ x ∈ ledgerIndexes, ∀ j < 9, t.val ⟨x * 256 + 0x81 + j, 0⟩ = s.world.ledger x j)
        ∧ t.dev.rings = s.dev.rings ∧ SameMemory s t))
    ∧ (∀ (p : Path) (v : Word), odTakes s.world p 0x7800 5 v = true → Completes (.ledgerFirstBrokenClear p v) s (fun t => t.reply p = 0
        ∧ t.val oLedgerFirstBroken = (if v.toNat = s.val oLedgerFirstBroken then 0 else s.val oLedgerFirstBroken) ∧ SameMemory s t
        ∧ SameObjectsBut [oLedgerFirstBroken] s t))
    ∧ (∀ (p : Fin 2) (rate width : BitVec 8), World.linkOption rate.toNat width.toNat = true → s.dev.resets.perst.getD p.val false = false → s.dev.resets.seqs.has (17 + p.val) = false →
        s.world.powered (30 + p.val) = true → s.val oPowerState = 2 → Completes (.hostLinkUp p rate width) s (fun t =>
          t.val (oHostLinkRate p.val) = rate.toNat ∧ t.val (oHostLinkWidth p.val) = width.toNat
          ∧ t.val (oHostCxlActive p.val) = (if rate = 64 ∧ (width = 16 ∨ width = 8) then 1 else 0)
          ∧ SameObjectsBut [oHostLinkRate p.val, oHostLinkWidth p.val, oHostCxlActive p.val] s t ∧ SameMemory s t))
    ∧ (∀ p : Fin 2, Completes (.hostLinkDown p) s (fun t => t.val (oHostLinkRate p.val) = 0 ∧ t.val (oHostLinkWidth p.val) = 0
        ∧ t.val (oHostCxlActive p.val) = 0))
    ∧ ∀ (p : Fin 2) (o : BitVec 30) (d : List Byte), s.world.portCarries p.val = true → Completes (.hdmWrite p o d) s (fun t =>
        t.val (oHostHdmWritesDiscarded p.val) = fit 64 (s.val (oHostHdmWritesDiscarded p.val) + 1) ∧ SameMemory s t
        ∧ SameObjectsBut [oHostHdmWritesDiscarded p.val] s t)

/-- The firmware and the I3C and test ports, R437 to R444. An update starts unless one runs; a manifest that fails ends it with its
reason; a written payload is read back; a cancel ends it; a good boot puts the pending bank in service, three bad ones
give it up; a key stays revoked. BYPASS, IDCODE, SAMPLE/PRELOAD and EXTEST load their registers, EXTEST only in cold reset. -/
def Obligations.FirmwareAndTestPorts : Prop :=
  ∀ s : State, let fw := s.dev.firmware
    (∀ p, odTakes s.world p 0x1030 3 1 = true →
      (fw.update = none → s.val oFirmwareSource = 0 → Completes (.firmwareStart p 1) s (fun t => t.reply p = 0
        ∧ stState (t.val (oFirmwareUpdateStatus 0)) = 2
        ∧ t.dev.firmware = { fw with update := some ⟨1, 0, none, 0, 0, 0, 0⟩ } ∧ SameMemory s t))
      ∧ (∀ q, fw.update = none → let a := s.val oFirmwareSource
          a ≠ 0 → regionOf a = .tier3 q → s.world.portCarries q = true → Performs (.firmwareStart p 1) s (fun w =>
            let w1 := ((odAsked w p 0x1030 3 1).startOp oFirmwareUpdateStatus 0x0F1 2).setOpProgress (oFirmwareUpdateStatus 0) 0 1
            ((w1.upFw (fun f => { f with update := some ⟨1, a, none, 0, 0, 0, 0⟩ })).t3Begin ⟨q, false, a, imageHeader, 0, 0, 6, 1, [], 0⟩).odFinish
              p 0 0 [] false))
      ∧ (fw.update.isSome = true → Completes (.firmwareStart p 1) s (fun t => t.reply p = 0x0405 ∧ t.dev.od = s.dev.od
        ∧ t.dev.firmware = fw ∧ SameMemory s t)))
    ∧ (∀ u, fw.update = some u →
      (∀ l, u.stage = 1 → (if u.source = 0 then some ((s.dev.blobs.getD 0x103100 []).take imageHeader) else u.read) = some l →
        let key := (l.drop 16).take 97
        let fits := imageHeader ≤ l.length ∧ imageNum l 0 4 = 0x4A757446 ∧ imageNum l 12 4 ≤ 0x4000000
          ∧ s.val oFirmwareLength = imageHeader + imageNum l 12 4 ∧ imageNum l 8 4 ≤ 63 ∧ s.val oFirmwareSecurityCounter ≤ imageNum l 8 4
        let signed := (∃ i : Fin 4, Config.fuseDigests[i.val]? = some (Config.sha384 key) ∧ bitAt fw.revoked i.val = false)
          ∧ Config.p384Verify key (Config.sha384 (l.take 256)) ((l.drop 256).take 96) = true
        let ended (reason : Nat) : Prop := Performs .firmwareManifestVerified s (fun w =>
          (w.wr (oFirmwareUpdateStatus 1) (reason * 2 ^ 48 + imageNum l 4 4)).fwEnd 5 reason)
        (¬ fits → ended 0x040F) ∧ (fits → ¬ signed → ended 0x0403)
        ∧ (fits → signed → u.source = 0 → Completes .firmwareManifestVerified s (fun t => let b := 1 - s.val oFirmwareActiveBank
            t.dev.firmware = { fw with banks := fw.banks.put b ⟨false, 0, 0, []⟩,
                                       update := some ⟨2, 0, none, imageNum l 4 4, imageNum l 8 4, imageNum l 12 4, imageNum l 113 48⟩ }
            ∧ t.val oFirmwarePendingBank = 0xFF ∧ t.val oFirmwareBootFailures = 0 ∧ SameMemory s t)))
      ∧ (∀ l, u.stage = 2 → (if u.source = 0 then some (((s.dev.blobs.getD 0x103100 []).drop imageHeader).take u.length) else u.read) = some l →
        Performs (.firmwareWriteDone false) s (fun w => w.fwEnd 5 0x0402)
        ∧ Completes (.firmwareWriteDone true) s (fun t => t.dev.firmware.update = some { u with stage := 3, read := none } ∧ SameMemory s t
            ∧ t.dev.firmware.banks.get? (1 - s.val oFirmwareActiveBank) = some ⟨false, u.version, u.security, l⟩))
      ∧ (u.stage = 3 → Performs .firmwareReadbackDone s (fun w =>
          let w1 := w.wr (oFirmwareUpdateStatus 2) (u.length * 2 ^ 32 + u.length)
          if Config.sha384 (w.fwBank w.inactiveBank).data = u.digest then
            ((w1.setOpState (oFirmwareUpdateStatus 0) 4 0).upFw (fun f => { f with
              update := none, banks := f.banks.modify w.inactiveBank ⟨false, 0, 0, []⟩ (fun x => { x with valid := true }) })).wr
                oFirmwarePendingBank w.inactiveBank
          else w1.fwEnd 5 0x0404))
      ∧ ∀ p, s.run (fun w => w.dueAct (.cancelFirmware p)) = s.run (fun w => (w.fwEnd 6 0).odFinish p 0 0 [] false))
    ∧ (∀ p, (odTakes s.world p 0x1030 4 1 = true → Deferred (.firmwareCancel p 1) s p (.cancelFirmware p)
          ∧ Completes (.firmwareCancel p 1) s (fun t => t.dev.firmware = fw))
        ∧ (s.val oFieldNetState ≠ 2 → fw.update = none → let t := s.run (fun w => w.dueAct (.cancelFirmware p))
            t.reply p = 0x000E ∧ t.dev.od = s.dev.od ∧ t.dev.firmware = fw ∧ SameMemory s t))
    ∧ (∀ p, odTakes s.world p 0x1030 5 1 = true → fw.update = none → s.val oFirmwarePendingBank ≠ 0xFF →
        Performs (.firmwareActivate p 1) s (fun w => (((odAsked w p 0x1030 5 1).upFw (fun f => { f with booting := true })).beginReset 3 0 10
          (pathMaster p) 0 0xFFFF).odFinish p 0 0 [] false))
    ∧ (fw.booting = true → s.val oFirmwarePendingBank ≠ 0xFF → let b := s.val oFirmwarePendingBank
        let x := s.world.fwBank b
        Completes (.firmwareBootResult true) s (fun t => t.val oFirmwareActiveBank = b ∧ t.val oFirmwareActiveVersion = x.version % 2 ^ 64
          ∧ t.val oFirmwarePendingBank = 0xFF ∧ t.dev.firmware = { fw with booting := false } ∧ SameMemory s t
          ∧ t.val oFirmwareSecurityCounter = Nat.max (s.val oFirmwareSecurityCounter) x.security % 2 ^ 64)
        ∧ (s.val oFirmwareBootFailures = 2 → Completes (.firmwareBootResult false) s (fun t => t.val oFirmwareBootFailures = 3
            ∧ t.val oFirmwarePendingBank = 0xFF ∧ t.dev.firmware.booting = false ∧ (t.world.fwBank b).valid = false ∧ SameMemory s t))
        ∧ (s.val oFirmwareBootFailures < 2 → Completes (.firmwareBootResult false) s (fun t =>
            t.val oFirmwareBootFailures = s.val oFirmwareBootFailures + 1 ∧ t.dev.firmware = fw ∧ SameObjectsBut [oFirmwareBootFailures] s t
            ∧ SameMemory s t)))
    ∧ (∀ (p : Path) (v : Word), odTakes s.world p 0x1030 0xB v = true → Completes (.firmwareKeyRevoke p v) s (fun t => t.reply p = 0
        ∧ t.dev.firmware = { fw with revoked := fw.revoked ||| 2 ^ (v.toNat % 4) } ∧ t.dev.od = s.dev.od ∧ SameMemory s t))
    ∧ (let m := s.dev.mgmt
       let same (t : State) : Prop := t.dev.od = s.dev.od ∧ t.dev.rings = s.dev.rings ∧ SameMemory s t
       (∀ a : BitVec 7, m.i3cDynamic = none → Completes (.i3cEntdaa a) s (fun t => t.dev.mgmt = { m with i3cDynamic := some a.toNat } ∧ same t))
       ∧ (∀ d a : BitVec 7, d.toNat = s.world.i3cStatic → Completes (.i3cSetdasa d a) s (fun t =>
            t.dev.mgmt = { m with i3cDynamic := some a.toNat } ∧ same t))
       ∧ Completes .bypass s (fun t => t.dev.mgmt = { m with ir := 0, dr := 0 } ∧ same t)
       ∧ Completes .idcode s (fun t => t.dev.mgmt = { m with ir := 1, dr := 0x158A856B } ∧ same t)
       ∧ (∀ c pre : BitVec 24, Completes (.samplePreload c pre) s (fun t =>
            t.dev.mgmt = { m with ir := 2, dr := c.toNat, sampled := c.toNat, preload := pre.toNat } ∧ same t))
       ∧ (s.world.inColdReset = true → Completes .extest s (fun t => t.dev.mgmt = { m with ir := 3, dr := m.preload } ∧ same t))
       ∧ (s.world.inColdReset = false → Completes .extest s (fun t => t.dev.mgmt = { m with ir := 0, dr := 0 } ∧ same t)))

/-! ### Faults -/

/-- Faults, R447 to R465: an event is recorded, its class counted and its record begun or merged; a condition's end clears it; an
acknowledgement of the record's number moves it to the history; a timer that expires resets its husk; a hung unit and a named
one are re-initialised; a step that completes begins its quiet period, which ends; one that overruns climbs; injection
needs the test mode; unfencing is noted. -/
def Obligations.FaultCommands : Prop :=
  ∀ s : State,
    (∀ f : FaultReport, sourceListed f.source.toNat = true → 1 ≤ f.cls → f.cls ≤ 2 → s.world.counting f.source.toNat = false →
      (s.world.faultRec f.source.toNat).valid = false → Completes (.faultEvent f) s (fun t =>
        let r := t.world.faultRec f.source.toNat
        r.valid = true ∧ r.count = 1 ∧ r.tick = s.dev.time.tick ∧ r.cls = f.cls ∧ r.master = f.master.toNat ∧ r.address = f.address.toNat
          ∧ r.reason = f.reason.toNat ∧ r.access = f.access.toNat ∧ r.conds = (if f.condition then 1 else 0)
          ∧ r.deadline = (if f.cls = 2 ∧ f.husk.toNat < 16 then s.dev.time.tick + s.val oFaultEscalateContained else 0) ∧ r.seq = ((s.world.faultRec f.source.toNat).seq + 1) % 65536
          ∧ (∀ j, j ≠ f.source.toNat → t.world.faultRec j = s.world.faultRec j)
          ∧ t.val (oFaultTotals (f.cls - 1)) = fit 64 (s.val (oFaultTotals (f.cls - 1)) + 1) ∧ SameMemory s t))
    ∧ (∀ f : FaultReport, sourceListed f.source.toNat = true → 1 ≤ f.cls → f.cls ≤ 2 → s.world.counting f.source.toNat = false →
      let r0 := s.world.faultRec f.source.toNat
      let first := r0.tick = s.dev.time.tick ∧ (faultPrecedence f < r0.precedence ∨ faultPrecedence f = r0.precedence ∧ f.master.toNat < r0.master)
      r0.valid = true → Completes (.faultEvent f) s (fun t => let r := t.world.faultRec f.source.toNat
        r.count = Nat.min 0xFFFFFFFF (r0.count + 1) ∧ r.merged = true ∧ r.lastTick = s.dev.time.tick ∧ r.tick = r0.tick
          ∧ r.cls = Nat.max r0.cls f.cls ∧ r.seq = r0.seq ∧ (¬ first → r.address = r0.address ∧ r.master = r0.master ∧ r.reason = r0.reason)
          ∧ (first → r.address = f.address.toNat ∧ r.master = f.master.toNat ∧ r.reason = f.reason.toNat)
          ∧ (∀ j, j ≠ f.source.toNat → t.world.faultRec j = s.world.faultRec j) ∧ SameMemory s t))
    ∧ (∀ f : FaultReport, sourceListed f.source.toNat = true → f.cls = 3 → s.world.counting f.source.toNat = false →
      let src := f.source.toNat
      (s.world.faultRec src).valid = false → s.dev.resets.seqs.get? 16 = none → s.val oPowerState = 2 →
      Completes (.faultEvent f) s (fun t => let warm := 0x1A0 ≤ src ∧ src < 0x1A8 ∨ src = 0x1FA ∨ src = 0x1FB
        (t.world.faultRec src).cls = 3 ∧ (t.world.faultRec src).action = (if warm then 4 else 5)
        ∧ t.dev.resets.seqs.get? 16 = some ⟨if warm then 2 else 3, 7, 0, 0x0803, src, s.dev.time.tick, 0, s.world.pulseInProgress⟩))
    ∧ (∀ f : FaultReport, sourceListed f.source.toNat = true → 1 ≤ f.cls → f.cls ≤ 3 → s.world.counting f.source.toNat = true →
      let src := f.source.toNat
      let win := s.dev.faults.windows.getD src []
      win.length + 1 < s.val oFaultCountN → Completes (.faultEvent f) s (fun t => t.dev.faults.windows.get? src = some ((s.dev.time.tick :: win).take 16)
        ∧ (t.world.faultRec src).counted = true ∧ t.dev.resets = s.dev.resets ∧ SameMemory s t))
    ∧ (∀ src : BitVec 16, let r := s.world.faultRec src.toNat
      r.valid = true → r.conds ≠ 0 → Completes (.faultConditionEnd src) s (fun t =>
        t.world.faultRec src.toNat = { r with conds := 0, cleared := true, valid := !r.acked } ∧ t.dev.od = s.dev.od ∧ SameMemory s t))
    ∧ (∀ (p : Path) (v : Word), odTakes s.world p 0x7000 3 v = true → Deferred (.faultAck p v) s p (.faultAck p v.toNat)
        ∧ Completes (.faultAck p v) s (fun t => t.dev.faults = s.dev.faults))
    ∧ (∀ (p : Path) (v : Word), s.val oFieldNetState ≠ 2 → let src := fld v.toNat 0 16
      let r := s.world.faultRec src
      let t := s.run (fun w => w.dueAct (.faultAck p v.toNat))
      ((src < 0x1B0 ∨ 0x1C0 ≤ src ∨ r.deadline = 0 ∨ s.dev.time.tick < r.deadline) → r.valid = true → fld v.toNat 16 16 = r.seq → r.acked = false →
        t.reply p = 0 ∧ t.world.faultRec src = (if r.conds = 0 then { r with deadline := 0, valid := false }
          else { r with deadline := 0, acked := true })
        ∧ t.dev.faults.history.get? (s.val oFaultHistoryNext) = some { r with deadline := 0 }
        ∧ t.val oFaultHistoryNext = (s.val oFaultHistoryNext + 1) % 256 ∧ SameObjectsBut [oFaultHistoryNext] s t ∧ SameMemory s t)
      ∧ ((src < 0x1B0 ∨ 0x1C0 ≤ src ∨ r.deadline = 0 ∨ s.dev.time.tick < r.deadline) → (r.valid = false ∨ fld v.toNat 16 16 ≠ r.seq) →
        t.reply p = 0x000D ∧ t.dev.od = s.dev.od ∧ t.dev.faults = s.dev.faults ∧ SameMemory s t))
    ∧ (∀ h : Fin 16, let r := s.world.faultRec (huskSource h.val)
      r.deadline ≠ 0 → r.deadline ≤ s.dev.time.tick → Performs (.escalationExpiry h) s (fun w =>
        (w.setRec (huskSource h.val) { r with escalated := true, deadline := 0, action := 3 }).beginReset 1 h.val 6 0 0x0802 (huskSource h.val)))
    ∧ (∀ m : Master, let o := s.world.hangHusk m.toNat
      let src := if o < 16 then huskSource o else reinitSource m.toNat
      ((recoverable m.toNat = true ∨ (unitSlice m.toNat).isSome = true) → Performs (.hangMonitor m) s (fun w =>
        let rs := BitVec.ofNat 16 (openReason w.dev.free)
        let w1 := { w with dev := { w.dev with free := w.dev.free + 1 } }
        let w2 := w1.reportFault ⟨BitVec.ofNat 16 src, 2, rs, BitVec.ofNat 16 m.toNat, 0, 0x61, BitVec.ofNat 5 (if o < 16 then o else 0x1F), true⟩
        (w2.setRec src { w2.faultRec src with action := 2 }).reinit m.toNat))
      ∧ (∀ st, s.dev.faults.steps.get? (2 * 65536 + reinitSource m.toNat) = some st → st.quiet = none →
          Performs (.reinitDone m true) s (fun w => (w.endStep 2 (reinitSource m.toNat)).conditionEnds src)
          ∧ (st.failed = false → Performs (.reinitDone m false) s (fun w =>
            (w.upFaults (fun f => { f with steps := f.steps.del (2 * 65536 + reinitSource m.toNat) })).climb 2 src))))
    ∧ (∀ (p : Path) (v : Word), odTakes s.world p 0x7002 1 v = true →
        (recoverable v.toNat = true → Performs (.faultRecoverUnit p v) s (fun w => ((odAsked w p 0x7002 1 v).reinit v.toNat).odFinish p 0 0 [] false))
        ∧ (recoverable v.toNat = false → Completes (.faultRecoverUnit p v) s (fun t => t.reply p = 0x000D ∧ t.dev.od = s.dev.od
            ∧ t.dev.faults = s.dev.faults ∧ SameMemory s t)))
    ∧ (∀ (src : BitVec 16) st, s.dev.faults.steps.vals.find? (fun x => x.quiet.isNone && !x.failed && s.world.stepCovers x src.toNat && x.bound != 0
          && decide (x.start + x.bound < s.dev.time.tick)) = some st → Performs (.recoveryStepOverrun src) s (fun w =>
        (w.stepFails st).climb st.action src.toNat))
    ∧ (∀ src : BitVec 16, Completes (.faultQuietEnd src) s (fun t => SameMemory s t ∧ t.dev.od = s.dev.od ∧ t.dev.faults.recs = s.dev.faults.recs
        ∧ ∀ k st, t.dev.faults.steps.get? k = some st → s.world.stepCovers st src.toNat = true → ∀ q, st.quiet = some q → s.dev.time.tick < q))
    ∧ (∀ (p : Path) (v : Word), odTakes s.world p 0x7006 1 v = true →
        (s.val oFaultTestMode ≠ 1 → Completes (.faultInject p v) s (fun t => t.reply p = 0x000B ∧ t.dev.faults = s.dev.faults ∧ SameMemory s t))
        ∧ (s.val oFaultTestMode = 1 → sourceListed (fld v.toNat 0 16) = true → 1 ≤ fld v.toNat 16 4 → fld v.toNat 16 4 ≤ 3 →
            rsvd v.toNat 20 12 = true → (fld v.toNat 0 16 < 0x1B0 ∨ 0x1C0 ≤ fld v.toNat 0 16) → Performs (.faultInject p v) s (fun w =>
              ((odAsked w p 0x7006 1 v).reportFault ⟨BitVec.ofNat 16 (fld v.toNat 0 16), fld v.toNat 16 4, 0, 0, 0, 0xFF, 0x1F, false⟩).odFinish
                p 0 0 [] false)))
    ∧ ∀ (p : Path) (v : Word), odTakes s.world p 0x7002 3 v = true → Completes (.faultUnfence p v) s (fun t => t.reply p = 0
        ∧ t.dev.faults = { s.dev.faults with unfence := s.dev.faults.unfence ||| v.toNat } ∧ t.dev.od = s.dev.od ∧ SameMemory s t)

/-- Commands that store nothing leave every addressed byte, its poison and its tag as they were, whatever their operands and in
every state: register, status, power, time, fault and port commands. -/
def Obligations.CommandsThatStoreNothing : Prop :=
  ∀ (s t : State) (c : Instr) (p : Path) (r : RingRef) (v : Word) (h : Fin 16) (sl : Fin 16),
    c ∈ [Instr.clockNominalRootWrite p v, .rootStep, .powerSustainedLimitWrite p v, .huskPhaseSet p h v, .droopDetect sl,
      .queueEnable p r v, .queueDisable p r v, .cqheadWrite p r v, .tenantWindowWrite p v, .seqCancel p h v, .seqCancelGroup p h v,
      .huskReplaceStart p h v, .cycleCommit p v, .cycleEnableWrite p v, .faultUnfence p v, .firmwareCancel p v, .firmwareKeyRevoke p v,
      .ledgerSnapshot p v, .ledgerSnapshotTaken, .ledgerFirstBrokenClear p v, .translationInvalidation h, .bypass, .idcode, .extest,
      .acornRefreshCancel p v, .faultConditionEnd (v.setWidth 16), .slotReturnResident sl] →
    exec c s = .next t → SameMemory s t ∧ t.pending = s.pending
end

