-- ==== Sys2Proof/Laws/Map.lean ====
section
/-! SUPPORT. The laws of the sparse tables and of the sets of numbers. -/
namespace Sys2Proof.Machine

theorem AMap.find_insert_same {α : Type} (k : Nat) (a : α) (l : List (Nat × α)) :
    AMap.find k (AMap.insert k a l) = some a := by
  induction l with
  | nil => simp [AMap.insert, AMap.find]
  | cons p t ih =>
    obtain ⟨j, b⟩ := p
    simp only [AMap.insert]
    split
    · simp [AMap.find]
    · split
      · simp [AMap.find]
      · rename_i h
        simp [AMap.find, Ne.symm h, ih]

theorem AMap.find_insert_other {α : Type} {j k : Nat} (h : j ≠ k) (a : α) (l : List (Nat × α)) :
    AMap.find j (AMap.insert k a l) = AMap.find j l := by
  induction l with
  | nil => simp [AMap.insert, AMap.find, Ne.symm h]
  | cons p t ih =>
    obtain ⟨i, b⟩ := p
    simp only [AMap.insert]
    split
    · simp [AMap.find, Ne.symm h]
    · split
      · rename_i e
        subst e
        simp [AMap.find, Ne.symm h]
      · simp [AMap.find, ih]

/-- A table reads back what was put. -/
@[simp] theorem AMap.get?_put_same {α : Type} (m : AMap α) (k : Nat) (a : α) : (m.put k a).get? k = some a :=
  AMap.find_insert_same k a m.items

/-- Putting at one key leaves the others. -/
theorem AMap.get?_put_other {α : Type} (m : AMap α) {j k : Nat} (h : j ≠ k) (a : α) : (m.put k a).get? j = m.get? j :=
  AMap.find_insert_other h a m.items

@[simp] theorem AMap.getD_put_same {α : Type} (m : AMap α) (k : Nat) (a d : α) : (m.put k a).getD k d = a := by
  simp [AMap.getD]

theorem AMap.getD_put_other {α : Type} (m : AMap α) {j k : Nat} (h : j ≠ k) (a d : α) :
    (m.put k a).getD j d = m.getD j d := by
  simp [AMap.getD, AMap.get?_put_other m h]

@[simp] theorem AMap.get?_empty {α : Type} (k : Nat) : (AMap.empty : AMap α).get? k = none := rfl

@[simp] theorem AMap.getD_empty {α : Type} (k : Nat) (d : α) : (AMap.empty : AMap α).getD k d = d := rfl

end Sys2Proof.Machine
end

