-- ==== Sys2Proof/Laws/Memory.lean ====
section
/-! SUPPORT. The laws of the addressed bytes: reading after writing, and that every operation keeps the canonical form. -/
namespace Sys2Proof.Machine

theorem Memory.wfFrom_mono {lo hi : Nat} (h : lo ≤ hi) {m : Memory} (w : Memory.wfFrom hi m = true) :
    Memory.wfFrom lo m = true := by
  cases m with
  | nil => rfl
  | cons c t =>
    obtain ⟨a, v⟩ := c
    simp only [Memory.wfFrom, Bool.and_eq_true, decide_eq_true_eq] at w ⊢
    exact ⟨⟨by omega, w.1.2⟩, w.2⟩

theorem Memory.set_wfFrom (a : Nat) (v : Byte) {lo : Nat} (ha : lo ≤ a) {m : Memory} (w : Memory.wfFrom lo m = true) :
    Memory.wfFrom lo (Memory.set a v m) = true := by
  induction m generalizing lo with
  | nil =>
    simp only [Memory.set]
    split
    · rfl
    · rename_i h
      simp [Memory.wfFrom, ha, h]
  | cons c t ih =>
    obtain ⟨b, u⟩ := c
    simp only [Memory.wfFrom, Bool.and_eq_true, decide_eq_true_eq] at w
    obtain ⟨⟨hb, hu⟩, ht⟩ := w
    simp only [Memory.set]
    split
    · split
      · simp only [Memory.wfFrom, Bool.and_eq_true, decide_eq_true_eq]
        exact ⟨⟨hb, hu⟩, ht⟩
      · rename_i hab hv
        simp only [Memory.wfFrom, Bool.and_eq_true, decide_eq_true_eq]
        exact ⟨⟨ha, by simpa using hv⟩, ⟨by omega, hu⟩, ht⟩
    · split
      · rename_i hab
        subst hab
        split
        · exact Memory.wfFrom_mono (by omega) ht
        · rename_i hv
          simp only [Memory.wfFrom, Bool.and_eq_true, decide_eq_true_eq]
          exact ⟨⟨ha, by simpa using hv⟩, ht⟩
      · simp only [Memory.wfFrom, Bool.and_eq_true, decide_eq_true_eq]
        exact ⟨⟨hb, hu⟩, ih (by omega) ht⟩

/-- Storing a byte keeps the canonical form. -/
theorem Memory.set_wf (a : Nat) (v : Byte) {m : Memory} (w : m.wf = true) : (Memory.set a v m).wf = true :=
  Memory.set_wfFrom a v (Nat.zero_le a) w

/-- Storing bytes keeps the canonical form. -/
theorem Memory.setBytes_wf (d : List Byte) (a : Nat) {m : Memory} (w : m.wf = true) : (m.setBytes a d).wf = true := by
  induction d generalizing a m with
  | nil => exact w
  | cons v t ih => exact ih (a + 1) (Memory.set_wf a v w)

theorem Memory.filter_wfFrom (f : Host.Cell → Bool) {lo : Nat} {m : Memory} (w : Memory.wfFrom lo m = true) :
    Memory.wfFrom lo (m.filter f) = true := by
  induction m generalizing lo with
  | nil => rfl
  | cons c t ih =>
    obtain ⟨a, v⟩ := c
    simp only [Memory.wfFrom, Bool.and_eq_true, decide_eq_true_eq] at w
    simp only [List.filter]
    split
    · simp only [Memory.wfFrom, Bool.and_eq_true, decide_eq_true_eq]
      exact ⟨w.1, ih w.2⟩
    · exact Memory.wfFrom_mono (by omega) (ih w.2)

/-- Zeroing a range keeps the canonical form. -/
theorem Memory.zero_wf (lo len : Nat) {m : Memory} (w : m.wf = true) : (m.zero lo len).wf = true :=
  Memory.filter_wfFrom _ w

theorem Memory.get_below {a lo : Nat} (h : a < lo) {m : Memory} (w : Memory.wfFrom lo m = true) : m.get a = unlistedByte := by
  induction m generalizing lo with
  | nil => rfl
  | cons c t ih =>
    obtain ⟨b, v⟩ := c
    simp only [Memory.wfFrom, Bool.and_eq_true, decide_eq_true_eq] at w
    have hb : b ≠ a := by omega
    simp only [Memory.get, if_neg hb]
    exact ih (lo := b + 1) (by omega) w.2

theorem Memory.get_set_from (a : Nat) (v : Byte) {lo : Nat} {m : Memory} (w : Memory.wfFrom lo m = true) (b : Nat) :
    (Memory.set a v m).get b = if b = a then v else m.get b := by
  induction m generalizing lo with
  | nil =>
    simp only [Memory.set]
    split
    · rename_i h
      split <;> simp [Memory.get, h]
    · simp only [Memory.get]
      by_cases h : a = b
      · simp [h]
      · simp [h, Ne.symm h]
  | cons c t ih =>
    obtain ⟨j, u⟩ := c
    simp only [Memory.wfFrom, Bool.and_eq_true, decide_eq_true_eq] at w
    obtain ⟨-, ht⟩ := w
    simp only [Memory.set]
    split
    · rename_i haj
      have low : Memory.get ((j, u) :: t) a = unlistedByte := by
        simp only [Memory.get, if_neg (show j ≠ a by omega)]
        exact Memory.get_below (by omega) ht
      split
      · rename_i hv
        by_cases hb : b = a
        · rw [if_pos hb, hb, low, hv]
        · rw [if_neg hb]
      · by_cases hb : b = a
        · simp [Memory.get, hb]
        · rw [if_neg hb]
          simp only [Memory.get, if_neg (Ne.symm hb)]
    · split
      · rename_i haj
        subst haj
        split
        · rename_i hv
          by_cases hb : b = a
          · rw [if_pos hb, hb, Memory.get_below (Nat.lt_succ_self a) ht, hv]
          · simp only [if_neg hb, Memory.get, if_neg (Ne.symm hb)]
        · by_cases hb : b = a
          · simp [Memory.get, hb]
          · simp only [Memory.get, if_neg (Ne.symm hb), if_neg hb]
      · rename_i hlt hne
        simp only [Memory.get]
        split
        · rename_i hj
          rw [if_neg (show b ≠ a by omega)]
        · exact ih ht

/-- A byte reads as it was last stored, and every other byte reads as before. -/
theorem Memory.get_set (a : Nat) (v : Byte) {m : Memory} (w : m.wf = true) (b : Nat) :
    (Memory.set a v m).get b = if b = a then v else m.get b :=
  Memory.get_set_from a v w b

/-- A store of bytes reads back, and every byte outside it reads as before. -/
theorem Memory.get_setBytes (d : List Byte) (a : Nat) {m : Memory} (w : m.wf = true) (b : Nat) :
    (m.setBytes a d).get b = if a ≤ b ∧ b < a + d.length then (d[b - a]?).getD unlistedByte else m.get b := by
  induction d generalizing a m with
  | nil => simp [Memory.setBytes] <;> omega
  | cons v t ih =>
    simp only [Memory.setBytes]
    rw [ih (a + 1) (Memory.set_wf a v w), Memory.get_set a v w]
    by_cases h1 : b = a
    · subst h1
      rw [if_neg (by omega), if_pos rfl, if_pos (by simp only [List.length_cons]; omega)]
      simp
    · by_cases h2 : a + 1 ≤ b ∧ b < a + 1 + t.length
      · rw [if_pos h2, if_pos (by simp only [List.length_cons]; omega)]
        obtain ⟨n, rfl⟩ : ∃ n, b = a + 1 + n := ⟨b - (a + 1), by omega⟩
        simp [show a + 1 + n - a = n + 1 by omega]
      · rw [if_neg h2, if_neg h1, if_neg (by simp only [List.length_cons]; omega)]

theorem risingFrom_mono {lo hi : Nat} (h : lo ≤ hi) {l : List Nat} (w : risingFrom hi l = true) : risingFrom lo l = true := by
  cases l with
  | nil => rfl
  | cons x t =>
    simp only [risingFrom, Bool.and_eq_true, decide_eq_true_eq] at w ⊢
    exact ⟨by omega, w.2⟩

theorem risingFrom_filter (f : Nat → Bool) {lo : Nat} {l : List Nat} (w : risingFrom lo l = true) :
    risingFrom lo (l.filter f) = true := by
  induction l generalizing lo with
  | nil => rfl
  | cons x t ih =>
    simp only [risingFrom, Bool.and_eq_true, decide_eq_true_eq] at w
    simp only [List.filter]
    split
    · simp only [risingFrom, Bool.and_eq_true, decide_eq_true_eq]
      exact ⟨w.1, ih w.2⟩
    · exact risingFrom_mono (by omega) (ih w.2)

theorem setInsert_rising (k : Nat) {lo : Nat} (hk : lo ≤ k) {l : List Nat} (w : risingFrom lo l = true) :
    risingFrom lo (setInsert k l) = true := by
  induction l generalizing lo with
  | nil => simp [setInsert, risingFrom, hk]
  | cons x t ih =>
    simp only [risingFrom, Bool.and_eq_true, decide_eq_true_eq] at w
    simp only [setInsert]
    split
    · simp only [risingFrom, Bool.and_eq_true, decide_eq_true_eq]
      exact ⟨hk, by omega, w.2⟩
    · split
      · simp only [risingFrom, Bool.and_eq_true, decide_eq_true_eq]
        exact w
      · simp only [risingFrom, Bool.and_eq_true, decide_eq_true_eq]
        exact ⟨w.1, ih (by omega) w.2⟩

theorem insert_rising {α : Type} (k : Nat) (a : α) {lo : Nat} (hk : lo ≤ k) {l : List (Nat × α)}
    (w : risingFrom lo (l.map (fun p => p.1)) = true) :
    risingFrom lo ((AMap.insert k a l).map (fun p => p.1)) = true := by
  induction l generalizing lo with
  | nil => simp [AMap.insert, risingFrom, hk]
  | cons p t ih =>
    obtain ⟨j, b⟩ := p
    simp only [List.map_cons, risingFrom, Bool.and_eq_true, decide_eq_true_eq] at w
    simp only [AMap.insert]
    split
    · simp only [List.map_cons, risingFrom, Bool.and_eq_true, decide_eq_true_eq]
      exact ⟨hk, by omega, w.2⟩
    · split
      · simp only [List.map_cons, risingFrom, Bool.and_eq_true, decide_eq_true_eq]
        exact ⟨hk, by rename_i h; subst h; exact w.2⟩
      · simp only [List.map_cons, risingFrom, Bool.and_eq_true, decide_eq_true_eq]
        exact ⟨w.1, ih (by omega) w.2⟩

theorem keys_filter_rising {α : Type} (f : Nat × α → Bool) {lo : Nat} {l : List (Nat × α)}
    (w : risingFrom lo (l.map (fun p => p.1)) = true) :
    risingFrom lo ((l.filter f).map (fun p => p.1)) = true := by
  induction l generalizing lo with
  | nil => rfl
  | cons p t ih =>
    simp only [List.map_cons, risingFrom, Bool.and_eq_true, decide_eq_true_eq] at w
    simp only [List.filter]
    split
    · simp only [List.map_cons, risingFrom, Bool.and_eq_true, decide_eq_true_eq]
      exact ⟨w.1, ih w.2⟩
    · exact risingFrom_mono (by omega) (ih w.2)

theorem mem_insert {α : Type} {k : Nat} {a : α} {l : List (Nat × α)} {p : Nat × α} (h : p ∈ AMap.insert k a l) :
    p = (k, a) ∨ p ∈ l := by
  induction l with
  | nil => simpa [AMap.insert] using h
  | cons q t ih =>
    obtain ⟨j, b⟩ := q
    simp only [AMap.insert] at h
    split at h
    · simpa using h
    · split at h
      · rcases List.mem_cons.mp h with h | h
        · exact .inl h
        · exact .inr (List.mem_cons_of_mem _ h)
      · rcases List.mem_cons.mp h with h | h
        · exact .inr (h ▸ List.mem_cons_self)
        · rcases ih h with h | h
          · exact .inl h
          · exact .inr (List.mem_cons_of_mem _ h)

/-- An entry of a write log keeps the canonical form of the three stores. -/
theorem Store.apply_wf (op : MemOp) {s : Store} (w : s.wf) : (s.apply op).wf := by
  obtain ⟨hm, hp, ht, hz⟩ := w
  cases op with
  | bytes a d => exact ⟨Memory.setBytes_wf d a hm, hp, ht, hz⟩
  | zero lo len =>
    exact ⟨Memory.zero_wf lo len hm, risingFrom_filter _ hp, keys_filter_rising _ ht, fun p h => hz p (List.mem_filter.mp h).1⟩
  | mark g on =>
    refine ⟨hm, ?_, ht, hz⟩
    cases on
    · exact risingFrom_filter _ hp
    · exact setInsert_rising g (Nat.zero_le g) hp
  | tag l k =>
    refine ⟨hm, hp, ?_, ?_⟩ <;> simp only [Store.apply]
    · split
      · exact keys_filter_rising _ ht
      · exact insert_rising l k (Nat.zero_le l) ht
    · split
      · intro p hp'
        exact hz p ((List.mem_filter.mp hp').1)
      · rename_i hk
        intro p hp'
        rcases mem_insert hp' with rfl | h
        · exact hk
        · exact hz p h

/-- A write log keeps the canonical form of the three stores. -/
theorem Store.flush_wf (log : List MemOp) {s : Store} (w : s.wf) : (s.flush log).wf := by
  induction log with
  | nil => exact w
  | cons op t ih => exact Store.apply_wf op ih

/-- The empty stores are canonical; the state after reset has them. -/
theorem Store.empty_wf : Store.wf ⟨[], [], .empty⟩ := ⟨rfl, rfl, rfl, by simp [AMap.empty]⟩

end Sys2Proof.Machine
end

