-- ==== Sys2Proof/Laws/State.lean ====
section
/-! SUPPORT. What the state's updates leave and what they change: one lemma per update and part, true by definition. -/
namespace Sys2Proof.Machine

/-! ### A command's run -/

@[simp] theorem State.world_dev (s : State) : s.world.dev = s.dev := rfl
@[simp] theorem State.world_log (s : State) : s.world.log = [] := rfl
@[simp] theorem State.world_base (s : State) : s.world.base = s.store := rfl
@[simp] theorem State.run_pending (s : State) (f : World → World) : (s.run f).pending = s.pending := rfl
@[simp] theorem State.run_dev (s : State) (f : World → World) : (s.run f).dev = (f s.world).dev := rfl
@[simp] theorem State.run_store (s : State) (f : World → World) : (s.run f).store = s.store.flush (f s.world).log := rfl
/-- A command's effect always gives a next state. -/
theorem State.done_eq (s : State) (f : World → World) : s.done f = .next (s.run f) := rfl
@[simp] theorem Store.flush_nil (s : Store) : s.flush [] = s := rfl
/-- A value is read from the device alone. -/
theorem State.val_eq (s : State) (k : OKey) : s.val k = (World.rd ⟨s.store, [], s.dev⟩ k) := rfl

/-- A command that completes with `Q` is one whose next state `Q` holds of. -/
theorem completes_of_done {c : Instr} {s : State} {f : World → World} (h : exec c s = s.done f) {Q : State → Prop}
    (q : Q (s.run f)) : Completes c s Q := ⟨s.run f, by rw [h, State.done_eq], rfl, q⟩

/-- A command that writes no byte leaves memory, poison and tags. -/
theorem same_memory_of_log {s : State} {f : World → World} (h : (f s.world).log = []) : SameMemory s (s.run f) := by
  simp [SameMemory, State.byteAt, State.badAt, h]

/-- Two states whose objects are the same read alike. -/
theorem val_of_od {s t : State} (h : t.dev.od = s.dev.od) (k : OKey) : t.val k = s.val k := by
  simp [State.val, World.rd, h]

namespace World

/-! ### Objects -/

@[simp] theorem wr_log (w : World) (k : OKey) (v : Nat) : (w.wr k v).log = w.log := rfl
@[simp] theorem wr_base (w : World) (k : OKey) (v : Nat) : (w.wr k v).base = w.base := rfl
@[simp] theorem wr_dev (w : World) (k : OKey) (v : Nat) :
    (w.wr k v).dev = { w.dev with od := w.dev.od.put k.key (BitVec.ofNat 64 v) } := rfl
@[simp] theorem inc_log (w : World) (k : OKey) (n : Nat) : (w.inc k n).log = w.log := rfl
@[simp] theorem wrInt_log (w : World) (k : OKey) (v : Int) : (w.wrInt k v).log = w.log := rfl
@[simp] theorem wrInt_dev (w : World) (k : OKey) (v : Int) :
    (w.wrInt k v).dev = { w.dev with od := w.dev.od.put k.key (BitVec.ofInt 64 v) } := rfl
@[simp] theorem fresh_log (w : World) : w.fresh.2.log = w.log := rfl
@[simp] theorem push_log (w : World) (op : MemOp) : (w.push op).log = op :: w.log := rfl
@[simp] theorem push_dev (w : World) (op : MemOp) : (w.push op).dev = w.dev := rfl

/-- An object reads as it was last written, modulo 2^64. -/
@[simp] theorem rd_wr_same (w : World) (k : OKey) (v : Nat) : (w.wr k v).rd k = v % 2 ^ 64 := by
  simp [rd, BitVec.toNat_ofNat]

/-- Another object reads as before. -/
theorem rd_wr_other (w : World) {j k : OKey} (h : j.key ≠ k.key) (v : Nat) : (w.wr k v).rd j = w.rd j := by
  simp [rd, AMap.get?_put_other _ h]

/-- A counter counts, modulo 2^64. -/
@[simp] theorem rd_inc_same (w : World) (k : OKey) (n : Nat) : (w.inc k n).rd k = fit 64 (w.rd k + n) % 2 ^ 64 := by
  simp [inc]

theorem rd_inc_other (w : World) {j k : OKey} (h : j.key ≠ k.key) (n : Nat) : (w.inc k n).rd j = w.rd j := by
  simp [inc, rd_wr_other w h]

/-- What an object reads depends on the objects alone. -/
theorem rd_congr {w v : World} (h : v.dev.od = w.dev.od) (k : OKey) : v.rd k = w.rd k := by simp [rd, h]

/-! ### The parts of the device -/
@[simp] theorem upFaults_log (w : World) (f : FaultSt → FaultSt) : (w.upFaults f).log = w.log := rfl
@[simp] theorem upFaults_dev (w : World) (f : FaultSt → FaultSt) : (w.upFaults f).dev = { w.dev with faults := f w.dev.faults } := rfl
@[simp] theorem rd_upFaults (w : World) (f : FaultSt → FaultSt) (k : OKey) : (w.upFaults f).rd k = w.rd k := rfl
@[simp] theorem upResets_log (w : World) (f : ResetSt → ResetSt) : (w.upResets f).log = w.log := rfl
@[simp] theorem upResets_dev (w : World) (f : ResetSt → ResetSt) : (w.upResets f).dev = { w.dev with resets := f w.dev.resets } := rfl
@[simp] theorem rd_upResets (w : World) (f : ResetSt → ResetSt) (k : OKey) : (w.upResets f).rd k = w.rd k := rfl
@[simp] theorem upPower_log (w : World) (f : PowerSt → PowerSt) : (w.upPower f).log = w.log := rfl
@[simp] theorem upPower_dev (w : World) (f : PowerSt → PowerSt) : (w.upPower f).dev = { w.dev with power := f w.dev.power } := rfl
@[simp] theorem rd_upPower (w : World) (f : PowerSt → PowerSt) (k : OKey) : (w.upPower f).rd k = w.rd k := rfl
@[simp] theorem upTime_log (w : World) (f : TimeSt → TimeSt) : (w.upTime f).log = w.log := rfl
@[simp] theorem upTime_dev (w : World) (f : TimeSt → TimeSt) : (w.upTime f).dev = { w.dev with time := f w.dev.time } := rfl
@[simp] theorem rd_upTime (w : World) (f : TimeSt → TimeSt) (k : OKey) : (w.upTime f).rd k = w.rd k := rfl
@[simp] theorem upFabric_log (w : World) (f : FabricSt → FabricSt) : (w.upFabric f).log = w.log := rfl
@[simp] theorem upFabric_dev (w : World) (f : FabricSt → FabricSt) : (w.upFabric f).dev = { w.dev with fabric := f w.dev.fabric } := rfl
@[simp] theorem rd_upFabric (w : World) (f : FabricSt → FabricSt) (k : OKey) : (w.upFabric f).rd k = w.rd k := rfl
@[simp] theorem upColl_log (w : World) (f : CollSt → CollSt) : (w.upColl f).log = w.log := rfl
@[simp] theorem upColl_dev (w : World) (f : CollSt → CollSt) : (w.upColl f).dev = { w.dev with coll := f w.dev.coll } := rfl
@[simp] theorem rd_upColl (w : World) (f : CollSt → CollSt) (k : OKey) : (w.upColl f).rd k = w.rd k := rfl
@[simp] theorem upCycle_log (w : World) (f : CycleSt → CycleSt) : (w.upCycle f).log = w.log := rfl
@[simp] theorem upCycle_dev (w : World) (f : CycleSt → CycleSt) : (w.upCycle f).dev = { w.dev with cycle := f w.dev.cycle } := rfl
@[simp] theorem rd_upCycle (w : World) (f : CycleSt → CycleSt) (k : OKey) : (w.upCycle f).rd k = w.rd k := rfl
@[simp] theorem upFw_log (w : World) (f : FwSt → FwSt) : (w.upFw f).log = w.log := rfl
@[simp] theorem upFw_dev (w : World) (f : FwSt → FwSt) : (w.upFw f).dev = { w.dev with firmware := f w.dev.firmware } := rfl
@[simp] theorem rd_upFw (w : World) (f : FwSt → FwSt) (k : OKey) : (w.upFw f).rd k = w.rd k := rfl
@[simp] theorem upMgmt_log (w : World) (f : MgmtSt → MgmtSt) : (w.upMgmt f).log = w.log := rfl
@[simp] theorem upMgmt_dev (w : World) (f : MgmtSt → MgmtSt) : (w.upMgmt f).dev = { w.dev with mgmt := f w.dev.mgmt } := rfl
@[simp] theorem rd_upMgmt (w : World) (f : MgmtSt → MgmtSt) (k : OKey) : (w.upMgmt f).rd k = w.rd k := rfl
@[simp] theorem upAcorn_log (w : World) (f : AcornSt → AcornSt) : (w.upAcorn f).log = w.log := rfl
@[simp] theorem upAcorn_dev (w : World) (f : AcornSt → AcornSt) : (w.upAcorn f).dev = { w.dev with acorn := f w.dev.acorn } := rfl
@[simp] theorem rd_upAcorn (w : World) (f : AcornSt → AcornSt) (k : OKey) : (w.upAcorn f).rd k = w.rd k := rfl
@[simp] theorem upPods_log (w : World) (f : PodSt → PodSt) : (w.upPods f).log = w.log := rfl
@[simp] theorem upPods_dev (w : World) (f : PodSt → PodSt) : (w.upPods f).dev = { w.dev with pods := f w.dev.pods } := rfl
@[simp] theorem rd_upPods (w : World) (f : PodSt → PodSt) (k : OKey) : (w.upPods f).rd k = w.rd k := rfl
@[simp] theorem upSeqs_log (w : World) (f : SeqSt → SeqSt) : (w.upSeqs f).log = w.log := rfl
@[simp] theorem upSeqs_dev (w : World) (f : SeqSt → SeqSt) : (w.upSeqs f).dev = { w.dev with seqs := f w.dev.seqs } := rfl
@[simp] theorem rd_upSeqs (w : World) (f : SeqSt → SeqSt) (k : OKey) : (w.upSeqs f).rd k = w.rd k := rfl
@[simp] theorem upPf_log (w : World) (f : PrefetchSt → PrefetchSt) : (w.upPf f).log = w.log := rfl
@[simp] theorem upPf_dev (w : World) (f : PrefetchSt → PrefetchSt) : (w.upPf f).dev = { w.dev with prefetch := f w.dev.prefetch } := rfl
@[simp] theorem rd_upPf (w : World) (f : PrefetchSt → PrefetchSt) (k : OKey) : (w.upPf f).rd k = w.rd k := rfl
@[simp] theorem upCoh_log (w : World) (f : CohSt → CohSt) : (w.upCoh f).log = w.log := rfl
@[simp] theorem upCoh_dev (w : World) (f : CohSt → CohSt) : (w.upCoh f).dev = { w.dev with coh := f w.dev.coh } := rfl
@[simp] theorem rd_upCoh (w : World) (f : CohSt → CohSt) (k : OKey) : (w.upCoh f).rd k = w.rd k := rfl

/-! ### Rings -/

@[simp] theorem setRing_log (w : World) (r : RingRef) (x : Ring) : (w.setRing r x).log = w.log := rfl
@[simp] theorem setRing_dev (w : World) (r : RingRef) (x : Ring) :
    (w.setRing r x).dev = { w.dev with rings := w.dev.rings.put (ringKey r) x } := rfl
@[simp] theorem rd_setRing (w : World) (r : RingRef) (x : Ring) (k : OKey) : (w.setRing r x).rd k = w.rd k := rfl

/-- A slice's image reads as it was set. -/
theorem ring_setRing_slice (w : World) (s q h : Fin 16) (x : Ring) :
    (w.setRing (.slice s q h) x).ring (.slice s q h) = x := by
  simp [ring]

/-- A filler image reads as it was set. -/
theorem ring_setRing_filler (w : World) (s : Fin 16) (u : Fin 9) (x : Ring) :
    (w.setRing (.filler s u) x).ring (.filler s u) = x := by
  simp [ring]

/-! ### The end of a dictionary request -/

/-- A request's end changes its window or its reply and nothing else. -/
theorem odFinish_log (w : World) (p : Path) (reason : Nat) (d : Word) (b : List Byte) (r : Bool) :
    (w.odFinish p reason d b r).log = w.log := by
  cases p <;> simp only [odFinish] <;> (try split) <;> rfl

theorem odFinish_od (w : World) (p : Path) (reason : Nat) (d : Word) (b : List Byte) (r : Bool) :
    (w.odFinish p reason d b r).dev.od = w.dev.od := by
  cases p <;> simp only [odFinish] <;> (try split) <;> rfl

theorem rd_odFinish (w : World) (p : Path) (reason : Nat) (d : Word) (b : List Byte) (r : Bool) (k : OKey) :
    (w.odFinish p reason d b r).rd k = w.rd k := rd_congr (odFinish_od w p reason d b r) k

end World

end Sys2Proof.Machine
end

