-- ==== Sys2Proof/Laws/Od.lean ====
section
/-! SUPPORT. What a write of a scalar object does: the checks once, then the effect, the save and the end of the request. -/
namespace Sys2Proof.Machine

/-- The world with another set of windows. -/
abbrev withWindows (w : World) (ws : AMap Window) : World := { w with dev := { w.dev with windows := ws } }

/-- The window that a request leaves while it executes, R414. -/
def askedWindow (w : World) (x : OdHeld) : Window :=
  { w.window (pathFn x.path) with
    busy := false
    request := BitVec.ofNat 64 (x.req.segment.toNat * 2 ^ 36 + x.req.length.toNat * 2 ^ 24 + x.req.index.toNat * 256 + x.req.sub.toNat),
    data := if x.kind = 1 then x.value else (w.window (pathFn x.path)).data,
    buffer := if x.kind = 1 && !x.data.isEmpty then x.data else (w.window (pathFn x.path)).buffer }

/-- The windows while it executes. -/
def askedWindows (w : World) (x : OdHeld) : AMap Window :=
  if pathFn x.path < 128 then w.dev.windows.put (pathFn x.path) (askedWindow w x) else w.dev.windows

/-- A request that no window and no restart holds up executes in a world that differs in its windows alone. -/
theorem odGate_executes (w : World) (x : OdHeld) (go : World → World)
    (h : (decide (pathFn x.path < 128) && (w.window (pathFn x.path)).busy) = false)
    (c : w.dev.resets.seqs.has 19 = false) : w.odGate x go = go (withWindows w (askedWindows w x)) := by
  unfold World.odGate
  by_cases hb : pathFn x.path < 128
  · simp only [hb, decide_true, Bool.true_and] at h
    simp only [hb, decide_true, h, Bool.and_false, Bool.false_eq_true, if_false, Bool.not_true]
    rw [if_neg (by simp [c])]
    simp only [withWindows, askedWindows, if_pos hb]
    rfl
  · simp only [hb, decide_false, Bool.false_and, Bool.false_eq_true, if_false, Bool.not_false, if_true]
    rw [if_neg (by simp [c])]
    simp only [withWindows, askedWindows, if_neg hb]

/-- The world in which a write that is carried out has its effect differs in its windows alone. -/
theorem odAsked_eq (w : World) (p : Path) (index sub : Nat) (v : Word)
    (h : (decide (pathFn p < 128) && (w.window (pathFn p)).busy) = false) (c : w.dev.resets.seqs.has 19 = false) :
    ∃ ws, odAsked w p index sub v = withWindows w ws :=
  ⟨_, odGate_executes w _ id h c⟩

/-- The refusal of a write does not look at the windows. -/
theorem odWriteRefusal_windows (w : World) (ws : AMap Window) (p : Path) (index sub : Nat) (r : OdRow) :
    (withWindows w ws).odWriteRefusal p index sub r = w.odWriteRefusal p index sub r := rfl

/-- A write that is carried out, R408 to R412: its effect, then the save of an RWS object, then the end of the request. -/
theorem odCommand_takes {w : World} {p : Path} {index sub : Nat} {v : Word} (h : odTakes w p index sub v = true)
    (effect : World → Nat → Nat × World) :
    ∃ ws, w.odCommand p index sub v true effect =
      (let (reason, w1) := effect (withWindows w ws) v.toNat
       if reason = World.odPending then w1.odBusy p
       else if reason = 0 && odSaved index sub then
        (w1.odSave (index * 256 + sub) v true).2.odFinish p 0 0 [] false
       else w1.odFinish p reason 0 [] false) := by
  simp only [odTakes, odOpen, Bool.and_eq_true, Bool.not_eq_true'] at h
  obtain ⟨⟨⟨hb, hc⟩, _⟩, hl⟩ := h
  refine ⟨askedWindows w ⟨1, p, ⟨BitVec.ofNat 16 index, BitVec.ofNat 8 sub, 0, 0⟩, v, [], none, true⟩, ?_⟩
  refine (odGate_executes w _ _ hb hc).trans ?_
  split at hl
  · cases hl
  · rename_i r hr
    simp only [Bool.and_eq_true, Option.isNone_iff_eq_none, Bool.not_eq_true'] at hl
    obtain ⟨⟨⟨h1, h2⟩, h3⟩, h4⟩ := hl
    simp only [World.odScalar, hr, odWriteRefusal_windows, h1, h2, h3, h4, odSaved]
    simp [World.odSave]

end Sys2Proof.Machine
end

