-- ==== Sys2Proof/WellFormed.lean ====
section
/-! DEFINITION. Which commands are well formed: those whose operands fit together. The types bound every operand that one
bound fits; what they cannot bound is checked here. An ill-formed command still has a meaning (most often no effect). -/
namespace Sys2Proof

/-- A queue of R80: a slice has queues 0 to 14. -/
def anyRing : RingRef → Bool
  | .slice _ q _ => decide (q.val < 15)
  | .filler _ _ => true
  | .coll _ _ => true

/-- A queue of a matrix engine, R80 and R342. -/
def matrixRing : RingRef → Bool
  | .slice _ q _ => decide (q.val < 8)
  | .filler _ u => decide (u.val < 8)
  | .coll _ _ => false

/-- The vector engine's queue, R80 and R342. -/
def vectorRing : RingRef → Bool
  | .slice _ q _ => q.val == 8
  | .filler _ u => u.val == 8
  | .coll _ _ => false

/-- The address of a 64-byte line, R97. -/
def lineAligned (line : BitVec 48) : Bool := line.toNat % 64 == 0

/-- An entry of a schedule, R152: at most 1,048,576 of them. -/
def entryExists : EntryRef → Bool
  | .queue => true
  | .run n => decide (n < 1048576)

/-- The check of each command's operands. -/
def Instr.wf : Instr → Bool
  | .clockNominalRootWrite _ _ => true
  | .rootStep => true
  | .timeSync _ _ _ _ _ _ => true
  | .timeSyncSend => true
  | .timeHoldover => true
  | .timeStepCommand _ _ => true
  | .memoryAccess _ k _ len bytes => (match k with
    | .read => decide (1 ≤ len)
    | .fetch => decide (1 ≤ len)
    | .write => decide (1 ≤ bytes.length)
    | .atomic => decide (1 ≤ bytes.length))
  | .gets _ line _ => lineAligned line
  | .getm _ line _ => lineAligned line
  | .putm _ line => lineAligned line
  | .pute _ line => lineAligned line
  | .writebackLands line => lineAligned line
  | .hostSnoop line _ => lineAligned line
  | .nextOwnerForward line => lineAligned line
  | .queueEnable _ r _ => anyRing r
  | .queueDisable _ r _ => anyRing r
  | .cqheadWrite _ r _ => anyRing r
  | .tailWrite _ r _ => anyRing r
  | .commandComplete r => anyRing r
  | .meNop r => matrixRing r
  | .gemm r => matrixRing r
  | .gemmBstream r => matrixRing r
  | .drain r => matrixRing r
  | .clear r => matrixRing r
  | .chainSetArrival _ _ m n values bad => values.length == m * n && bad.all (fun i => decide (i < m * n))
  | .gfPiecePresent r _ => matrixRing r
  | .feedTimeout r => matrixRing r
  | .add r => vectorRing r
  | .sub r => vectorRing r
  | .mul r => vectorRing r
  | .fma r => vectorRing r
  | .div r => vectorRing r
  | .sqrt r => vectorRing r
  | .rsqrt r => vectorRing r
  | .max r => vectorRing r
  | .min r => vectorRing r
  | .scaleAdd r => vectorRing r
  | .exp r => vectorRing r
  | .ln r => vectorRing r
  | .sigmoid r => vectorRing r
  | .silu r => vectorRing r
  | .rope r => vectorRing r
  | .rowSum r => vectorRing r
  | .rowSumsq r => vectorRing r
  | .rowMax r => vectorRing r
  | .rowArgmax r => vectorRing r
  | .rmsnorm r => vectorRing r
  | .softmax r => vectorRing r
  | .logsoftmax r => vectorRing r
  | .convert r => vectorRing r
  | .g8eQuant r => vectorRing r
  | .transpose r => vectorRing r
  | .gather r => vectorRing r
  | .scatterAdd r => vectorRing r
  | .rngUniform r => vectorRing r
  | .rngNormal r => vectorRing r
  | .rngBernoulli r => vectorRing r
  | .dropout r => vectorRing r
  | .xqPush _ _ _ _ => true
  | .xqPoll _ _ _ => true
  | .xqWait _ _ _ _ => true
  | .xbInit _ _ _ _ => true
  | .xbArrive _ _ _ => true
  | .xbWait _ _ _ _ => true
  | .xeAdd _ _ _ _ => true
  | .xeWait _ _ _ _ => true
  | .xpPoint _ _ _ => true
  | .waitWake _ => true
  | .xqWaitTimeout _ => true
  | .nmuNop _ => true
  | .nmuFwd _ => true
  | .nmuTrn _ => true
  | .nmuBoth _ => true
  | .huskOverlayCommit _ _ _ => true
  | .overlayTableEffect _ => true
  | .acornRepairCommit _ _ => true
  | .repairTableEffect => true
  | .scrubRead _ => true
  | .acornRefreshStart _ _ => true
  | .acornRefreshCancel _ _ => true
  | .huskActiveImageWrite _ _ _ => true
  | .slotReturnResident _ => true
  | .acornImageRelease _ _ => true
  | .acornInstallStart _ _ => true
  | .installManifestVerified m _ => !m.isEmpty
  | .installChunk _ _ => true
  | .writePulseEnd _ _ => true
  | .acornInstallCancel _ _ => true
  | .installUpstreamTimeout => true
  | .tier3ReadCompletion _ _ _ => true
  | .tier3CompletionTimeout _ _ => true
  | .tier3WriteAck _ _ _ => true
  | .copy _ e => entryExists e
  | .shardFetch _ e => entryExists e
  | .shardPoll _ e => entryExists e
  | .shardPublish _ e => entryExists e
  | .poolEnsure _ e => entryExists e
  | .poolPin _ e => entryExists e
  | .stepEnd _ e => entryExists e
  | .scheduleRun _ => true
  | .scheduleEntryIssue _ => true
  | .prefetchEntryComplete _ e => entryExists e
  | .prefetchTimeout _ e => entryExists e
  | .poolWaitServed _ => true
  | .huskPoolFlush _ _ _ => true
  | .attnNop _ => true
  | .attnFwd _ => true
  | .attnBwd _ => true
  | .ringShardPresent _ => true
  | .attnRingTimeout _ => true
  | .podAlloc _ => true
  | .podShare _ => true
  | .podRelease _ => true
  | .podAppend _ => true
  | .podCommit _ => true
  | .podRetract _ => true
  | .podSwapOut _ => true
  | .podSwapIn _ => true
  | .podForward _ => true
  | .podAllocGrant => true
  | .podRetireFree _ => true
  | .podSpan m => m.kind == 0x0A#8
  | .podEnd m => m.kind == 0x0B#8
  | .swapWriteAck _ => true
  | .swapWriteFailed _ => true
  | .swapInReadDone _ _ => true
  | .samplerNop _ => true
  | .sample _ => true
  | .seqAdmit _ => true
  | .seqPlan _ => true
  | .seqCommit _ => true
  | .seqFinish _ => true
  | .seqPause _ => true
  | .seqResume _ => true
  | .seqRelease _ => true
  | .tenantSet _ => true
  | .seqHoldExpiry _ _ => true
  | .tenantWindowBoundary => true
  | .tenantWindowWrite _ _ => true
  | .seqCancel _ _ _ => true
  | .seqCancelGroup _ _ _ => true
  | .seqCancelEffect _ => true
  | .huskReplaceStart _ _ _ => true
  | .replaceDrained _ => true
  | .huskReplaceLayerDone _ _ _ => true
  | .ckptTableWrite _ _ _ => true
  | .reductionDeadline _ _ _ => true
  | .contribFold _ _ _ => true
  | .updateNop _ => true
  | .update _ => true
  | .updateGradReady _ => true
  | .updateGradTimeout _ => true
  | .paramCommit _ => true
  | .huskTurnStart _ _ _ => true
  | .turnValidated _ => true
  | .turnDrainEnd _ => true
  | .turnDrainTimeout _ => true
  | .turnArrive m => m.kind == 0x06#8
  | .turnBarrierTimeout _ => true
  | .turnCopy m => m.kind == 0x05#8
  | .turnAck m => m.kind == 0x09#8
  | .turnDone m => m.kind == 0x07#8
  | .turnAbort m => m.kind == 0x08#8
  | .turnCommitTimeout _ => true
  | .turnSwitchDone _ => true
  | .huskTurnCancel _ _ _ => true
  | .turnResolveCommit _ _ => true
  | .turnResolveAbort _ _ => true
  | .huskEnable _ _ => true
  | .huskEnableDone _ => true
  | .huskDisable _ _ => true
  | .hbmFrameOwnerWrite _ req _ => req.index == 0x2043#16 && req.sub == 0#8
  | .cycleCommit _ _ => true
  | .cycleTableEffect => true
  | .cycleEnableWrite _ _ => true
  | .cycleSlotRequest => true
  | .preemptSaveDone _ => true
  | .restoreDone _ => true
  | .slotRelease _ => true
  | .preemptForcedStop _ => true
  | .fillerTake _ _ => true
  | .fillerEvict _ _ => true
  | .linkFrameReceive _ f => f.flit.length == 256
  | .retryReq _ _ => true
  | .goingDown _ => true
  | .linkRetryExhausted _ => true
  | .lossOfSignal _ => true
  | .linkCreditTimeout _ => true
  | .cableInserted _ _ => true
  | .linkUp _ _ _ => true
  | .portSupplyOverload _ => true
  | .linkStatus m => m.kind == 0x43#8
  | .linkStatusSend => true
  | .epochNotice m => m.kind == 0x40#8
  | .nack m => m.kind == 0x41#8
  | .msgContTimeout _ => true
  | .fabricDirPowerReq _ _ _ => true
  | .dirPowerTransitionDone _ => true
  | .portDrainEnd => true
  | .allReduce _ _ => true
  | .reduceScatter _ _ => true
  | .allGather _ _ => true
  | .allToAll _ _ => true
  | .broadcast _ _ => true
  | .reduce _ _ => true
  | .chainBcast _ _ => true
  | .send _ _ => true
  | .recv _ _ => true
  | .chainLink _ _ => true
  | .collSourceReady _ _ _ => true
  | .data m => m.kind == 0x01#8
  | .running m => m.kind == 0x02#8
  | .decision m => m.kind == 0x03#8
  | .receipt m => m.kind == 0x04#8
  | .ringSlotFree _ _ _ => true
  | .collNotPostedResend _ _ => true
  | .collTimeout _ _ _ => true
  | .ledgerCheck => true
  | .energyWindowEnd _ => true
  | .ledgerSnapshot _ _ => true
  | .ledgerSnapshotTaken => true
  | .ledgerFirstBrokenClear _ _ => true
  | .odRead _ _ => true
  | .odWrite _ _ _ _ _ _ => true
  | .odInfo _ _ => true
  | .configRestoreDefaults _ _ => true
  | .hdmWrite _ _ _ => true
  | .perstAssert _ => true
  | .perstRelease _ => true
  | .mctpControl _ _ => true
  | .mctpVendorRequest _ _ _ => true
  | .pldmRequest _ _ _ _ => true
  | .i3cEntdaa _ => true
  | .i3cSetdasa _ _ => true
  | .bypass => true
  | .idcode => true
  | .samplePreload _ _ => true
  | .extest => true
  | .firmwareStart _ _ => true
  | .firmwareManifestVerified => true
  | .firmwareWriteDone _ => true
  | .firmwareReadbackDone => true
  | .firmwareCancel _ _ => true
  | .firmwareActivate _ _ => true
  | .firmwareBootResult _ => true
  | .firmwareKeyRevoke _ _ => true
  | .faultEvent f => decide (1 ≤ f.cls) && decide (f.cls ≤ 3)
  | .faultConditionEnd _ => true
  | .faultAck _ _ => true
  | .escalationExpiry _ => true
  | .hangMonitor _ => true
  | .reinitDone _ _ => true
  | .faultRecoverUnit _ _ => true
  | .recoveryStepOverrun _ => true
  | .faultQuietEnd _ => true
  | .faultInject _ _ => true
  | .faultUnfence _ _ => true
  | .resetNAssert => true
  | .resetNRelease => true
  | .resetCommandHusk _ _ => true
  | .resetCommandWarm _ _ => true
  | .resetCommandCold _ _ => true
  | .huskResetDone _ => true
  | .warmResetDone => true
  | .coldResetDone => true
  | .powerCommandDown _ => true
  | .powerCommandCycle _ => true
  | .controllerWatchdog => true
  | .railPowerGood _ => true
  | .railDischarged _ => true
  | .railWindowExpiry _ => true
  | .railFault _ => true
  | .powerOffHoldExpiry => true
  | .pwrfailAssert => true
  | .pwrfailRelease => true
  | .pwrfailCommit => true
  | .pwrfailPowerDown => true
  | .inputApplied _ => true
  | .domainPowerMaskWrite _ _ => true
  | .capperStep _ => true
  | .powerExcursion _ => true
  | .droopDetect _ => true
  | .droopRecover _ _ => true
  | .thermalSample readings => readings.length == 72
  | .thermalThrottleStep => true
  | .thermalRecoveryStep => true
  | .thermalTrip _ => true
  | .thermalTripHoldExpiry => true
  | .huskPhaseSet _ _ _ => true
  | .huskOpPointWrite _ _ _ _ => true
  | .powerSustainedLimitWrite _ _ => true
  | .translationInvalidation _ => true
  | .illegalInstruction _ _ => true
  | .hostLinkUp _ _ _ => true
  | .hostLinkDown _ => true
  | .controllerRestartDone => true
  | .vaonStoreExpiry => true

end Sys2Proof
end

