-- ==== Sys2Proof/Tests/Slice0.lean ====
section
/-! SUPPORT. Tests: an ill-formed term for each check, values that the spec prints, single commands on small states, and for
each obligation with hypotheses a state and operands that meet them. -/
namespace Sys2Proof.Tests
open Sys2Proof.Machine
set_option Elab.async false

/-! ### Small states -/

/-- A state with one object set. -/
def obj (k : OKey) (v : Nat) (s : State) : State :=
  { s with dev := { s.dev with od := s.dev.od.put k.key (BitVec.ofNat 64 v) } }
/-- A state with some bytes set. -/
def poke (a : Nat) (d : List Byte) (s : State) : State :=
  { s with store := { s.store with mem := s.store.mem.setBytes a d } }
/-- A state with a little-endian number set: its bytes other than 0. -/
def pokeN (a n v : Nat) (s : State) : State :=
  { s with store := { s.store with mem := ((List.range n).zip (leBytes n v)).foldl (fun m p => if p.2 = 0 then m else m.set (a + p.1) p.2) s.store.mem } }
/-- A state with its device changed. -/
def dev (f : Dev → Dev) (s : State) : State := { s with dev := f s.dev }
/-- A state at a tick. -/
def atTick (t : Nat) (s : State) : State := dev (fun d => { d with time := { d.time with tick := t } }) s
/-- A leaf entry with RD, W and X, and an entry that names the next table (R43). -/
def leafPte (h base code : Nat) : Nat := 0x1D + code * 2 ^ 10 + base + h * 2 ^ 48
def nextPte (h base : Nat) : Nat := 1 + base + h * 2 ^ 48
/-- Husk 0 ACTIVE on slices 0 and 1, running there; its page table maps the scratch windows, the first GiB of HBM, the first
GiB of Tier 3 window 0 one to one. -/
def husk0 : State :=
  (pokeN 0x1F30000 8 (leafPte 0 0x100000000000 3) ∘ pokeN 0x1F20000 8 (leafPte 0 0x10000000000 3) ∘ pokeN 0x1F10000 8 (leafPte 0 0 3)
    ∘ pokeN 0x1F00100 8 (nextPte 0 0x1F30000) ∘ pokeN 0x1F00010 8 (nextPte 0 0x1F20000) ∘ pokeN 0x1F00000 8 (nextPte 0 0x1F10000)
    ∘ obj (oHuskState 0) 2 ∘ obj (oHuskSlices 0) 3 ∘ obj (oSliceRunning 0) 0 ∘ obj (oSliceRunning 1) 0 ∘ obj (oSliceOwner 0) 0
    ∘ obj (oSliceOwner 1) 0 ∘ obj (oHuskPageTableBase 0) 0x1F00000 ∘ obj (oTier3Offered 0) 0x40000000)
  { State.reset with dev := { State.reset.dev with frames := ⟨[(0, 1), (1, 1)]⟩ } }
/-- A ring of 16 entries at `q`, with its completion ring at `c` and one command at its head. -/
def ringAt (r : RingRef) (q c cmd : Nat) (s : State) : State :=
  let x : Ring := { Ring.init with enable := true, log2size := 4, producer := true, qbase := q, cqbase := c, tail := 1 }
  pokeN q 128 cmd (dev (fun d => { d with rings := d.rings.put (ringKey r) x }) s)
/-- Queue `q` of slice 0 with husk 0's image, and a command at its head. -/
def q0 (q : Fin 16) : RingRef := .slice 0 q 0
def cmdAt (q : Fin 16) (cmd : Nat) (s : State) : State := ringAt (q0 q) 0x10000 0x12000 cmd s
/-- Does a ring's unit take this command now? -/
def takes (s : State) (r : RingRef) (want : Nat → Bool) (ok : World → Nat → Bool) : Bool :=
  match s.world.takeEntry r want with
  | none => false
  | some (cmd, w1) => ok w1 cmd
/-- A condition of the state that a command leaves. -/
def after (c : Instr) (s : State) (Q : State → Bool) : Bool :=
  match exec c s with
  | .next t => Q t
  | _ => false

/-- A command from its fields: value and lowest bit. -/
def fields (l : List (Nat × Nat)) : Nat := l.foldl (fun c p => c + p.1 * 2 ^ p.2) 0
/-- A taken command with this wait on queue `q` of slice 0. -/
def takenOn (q : Fin 16) (cmd : Nat) (wait : Wait) (aux : List Nat) (s : State) : State :=
  let x : Ring := { Ring.init with enable := true, log2size := 4, cqbase := 0x12000, taken := [⟨cmd, 0, 0, 0, wait, 0, true, 0, 0, 0, 0, [], aux⟩] }
  dev (fun d => { d with rings := d.rings.put (ringKey (q0 q)) x }) s

/-! ### WellFormed -/

theorem test_illFormed_ranges : Instr.wf (.memoryAccess 0x1000 .read 0 0 []) = false ∧ Instr.wf (.memoryAccess 0x1000 .fetch 0 0 []) = false
    ∧ Instr.wf (.memoryAccess 0x1000 .write 0 8 []) = false ∧ Instr.wf (.memoryAccess 0x1000 .atomic 0 8 []) = false
    ∧ Instr.wf (.memoryAccess 0x1000 .read 0 1 []) = true := by decide

theorem test_illFormed_lines : Instr.wf (.gets 127 1 []) = false ∧ Instr.wf (.getm 0 32 []) = false
    ∧ Instr.wf (.putm 0 63) = false ∧ Instr.wf (.pute 0 65) = false ∧ Instr.wf (.writebackLands 8) = false
    ∧ Instr.wf (.hostSnoop 4 true) = false ∧ Instr.wf (.nextOwnerForward 2) = false ∧ Instr.wf (.getm 0 64 []) = true := by decide

theorem test_illFormed_rings : Instr.wf (.queueEnable (.pf 0) (.slice 0 15 0) 1) = false ∧ Instr.wf (.commandComplete (.slice 3 15 1)) = false
    ∧ Instr.wf (.gemm (.slice 0 8 0)) = false ∧ Instr.wf (.clear (.coll 0 0)) = false ∧ Instr.wf (.drain (.filler 0 8)) = false
    ∧ Instr.wf (.add (.slice 0 7 0)) = false ∧ Instr.wf (.exp (.filler 0 7)) = false ∧ Instr.wf (.rope (.coll 1 0)) = false
    ∧ Instr.wf (.add (.slice 0 8 0)) = true ∧ Instr.wf (.gemm (.filler 0 7)) = true := by decide

theorem test_illFormed_contents : Instr.wf (.chainSetArrival 0x1000 0x1001 2 3 [] []) = false ∧ Instr.wf (.copy 0 (.run 1048576)) = false
    ∧ Instr.wf (.installManifestVerified [] []) = false ∧ Instr.wf (.thermalSample [0]) = false
    ∧ Instr.wf (.linkFrameReceive 0 ⟨0, [], .clean⟩) = false ∧ Instr.wf (.hbmFrameOwnerWrite (.pf 0) ⟨0x2000, 1, 0, 0⟩ []) = false
    ∧ Instr.wf (.faultEvent ⟨0, 0, 0, 0, 0, 0, 0, false⟩) = false ∧ Instr.wf (.faultEvent ⟨0, 4, 0, 0, 0, 0, 0, false⟩) = false
    ∧ Instr.wf (.copy 0 (.run 1048575)) = true := by decide

/-- A message of the wrong kind for its row. -/
def msg (kind : BitVec 8) : Msg := ⟨0, 1, 0, 0, 0xFFFF, 0xFFFF, 0, 0, 0, kind, 0, false, []⟩

theorem test_illFormed_messages : ([Instr.podSpan (msg 0), .podEnd (msg 0), .turnArrive (msg 0), .turnCopy (msg 0), .turnAck (msg 0),
      .turnDone (msg 0), .turnAbort (msg 0), .linkStatus (msg 0), .epochNotice (msg 0), .nack (msg 0), .data (msg 0), .running (msg 0),
      .decision (msg 0), .receipt (msg 0)].all (fun c => !c.wf)) = true ∧ Instr.wf (.podSpan (msg 0x0A)) = true := by decide

/-! ### Values that the spec prints -/

/-- The two test vectors of 02_numerics.md. -/
theorem test_exp_ln_vectors : f32Exp 0x3F800000 = 0x402DF854 ∧ f32Ln 0x40000000 = 0x3F317218 := by decide +kernel

/-- The output row of R226. -/
theorem test_rng_vector : rngBlock 0 0 = (0x490343F2, 0xC71D2F2A, 0x8496074E, 0xE0C0DCBB) := by decide +kernel

/-- The worked example of 08_sampling_random.md: u of counter 0 under key 0 is 17,394, and its uniform is 4,784,963 × 2⁻²⁴. -/
theorem test_rng_example : stochasticU 0 0 = 17394 ∧ uniformOf 0x490343F2 = (Val.fin false 4784963 (-24)).f32 := by decide +kernel

/-- The bytes of a number, the most significant first. -/
def bytesOf (n v : Nat) : List Nat := ((List.range n).map (fun i => v >>> (8 * i) % 256)).reverse
/-- R330 and R331 name AES-256 and XTS: FIPS 197, appendix C.3. -/
theorem test_aes256 : aesEncryptBlock (aesRoundKeys (List.range 32)) ((List.range 16).map (fun i => 17 * i))
      = bytesOf 16 0x8ea2b7ca516745bfeafc49904b496089
    ∧ aesDecryptBlock (aesRoundKeys (List.range 32)) (bytesOf 16 0x8ea2b7ca516745bfeafc49904b496089) = (List.range 16).map (fun i => 17 * i) := by
  decide +kernel
/-- The first 64 bytes of vector 10 of IEEE 1619. -/
theorem test_xts_aes256 : xtsLine aesEncryptBlock (bytesOf 32 0x2718281828459045235360287471352662497757247093699959574966967627)
      (bytesOf 32 0x3141592653589793238462643383279502884197169399375105820974944592) 0xff (List.range 64)
    = bytesOf 64 0x1c3b3a102f770386e4836c99e370cf9bea00803f5e482357a4ae12d414a3e63b5d31e276f8fe4a8d66b317f9ac683f44680a86ac35adfc3345befecb4bb188fd := by
  decide +kernel

/-- 01_organisation.md: ME 13.6 is 0x106E, and the address 0x0130_0000_3000 is held in H7. -/
theorem test_identifiers : ringMaster (.slice 13 6 0) = 0x106E ∧ hbmStack 0x13000003000 = 7 := by decide

/-- 03_compute_units.md: xq.push a0, a1, a2 is 0x00C5850B, which is listed. -/
theorem test_xqPush_listed : xplaosListed 0x00C5850B = true := by decide

/-! ### Witnesses: states and operands that meet the hypotheses of the obligations, clause by clause -/

/-- StepRunsTheFrontCommand, CommandsLeaveTheQueueAlone: no hypotheses. IdleStepIsATick: rail 0 off and on, nothing slewed. -/
theorem test_witness_IdleStepIsATick : State.reset.pending = [] ∧ State.reset.val (oRailState 0) ≠ 0
    ∧ (obj (oRailState 0) 0 State.reset).val (oRailState 0) = 0 ∧ State.reset.world.dev.time.slew = 0 := by decide

theorem test_witness_EveryStepKeepsMemoryCanonical : Store.wf State.reset.store ∧ Store.wf husk0.store := by
  unfold Store.wf; decide +kernel

theorem test_witness_ClockAndPowerWrites :
    odTakes State.reset.world (.pf 0) 0x2000 1 3200 = true ∧ odTakes State.reset.world .fieldNet 0x2000 1 6400 = true
    ∧ (let s := dev (fun d => { d with time := { d.time with rootStepEnd := some 0, rootTarget := 6300 } }) State.reset
       s.dev.time.rootStepEnd = some 0 ∧ 0 ≤ s.dev.time.tick ∧ 100 ≤ s.val oClockRootNow ∧ s.val oClockRootNow + 100 < 2 ^ 64)
    ∧ odTakes State.reset.world (.pf 1) 0x3FC0 64 0 = true ∧ odTakes State.reset.world (.vf 3 0) 0x33C0 1 0 = false
    ∧ odTakes State.reset.world (.pf 0) 0x30C1 3 0 = true ∧ odTakes State.reset.world (.pf 0) 0x3FC1 3 7 = true
    ∧ State.reset.world.turnStands 15 = false
    ∧ odTakes State.reset.world (.pf 0) 0x20A0 1 1800 = true ∧ odTakes State.reset.world (.pf 0) 0x20A0 1 2800 = true := by
  decide +kernel

theorem test_witness_DroopAndExcursion : State.reset.dev.power.stretched.elem 0 = false
    ∧ (dev (fun d => { d with power := { d.power with stretched := [15] } }) State.reset).dev.power.stretched.elem 15 = true
    ∧ State.reset.val oPowerExcursionLimit < 4201 := by decide

theorem test_witness_CapperStepMovesCeilings : State.reset.dev.time.tick % 200 = 0 ∧ State.reset.world.activeLimit < 65535
    ∧ State.reset.world.limitedSlice 15 = false := by decide +kernel

theorem test_witness_EnergyWindowCounts : State.reset.dev.time.tick % 1000 = 0 ∧ (atTick 1000 State.reset).dev.time.tick % 1000 = 0 := by decide

theorem test_witness_ThermalSampleVotes : (let l := List.replicate 72 560
    State.reset.dev.time.tick % 100 = 0 ∧ l.length = 72
    ∧ ∀ i < 36, ∀ a ∈ l[2 * i]?, ∀ b ∈ l[2 * i + 1]?, a < 65536 ∧ b < 65536 ∧ gapOf a b ≤ 64 ∧ (a + b) / 2 < (thresholds i).1) := by
  decide +kernel

theorem test_witness_ThermalStepsMoveRootCap :
    (let s := obj (oThermalReading 30) 1600 State.reset
     s.val oClockFixedFrequency = 0 ∧ 1600 ≤ s.world.voted 15 ∧ s.dev.power.lastStep.get? 0 = none)
    ∧ (let s := dev (fun d => { d with power := { d.power with rootCap := 7100, lastStep := ⟨[(0, 0)]⟩ } }) (atTick 1000000 State.reset)
       (s.dev.power.throttled.any (fun k => decide (k < 16))) = false ∧ s.dev.power.rootCap < 7200
       ∧ ∀ t0 ∈ s.dev.power.lastStep.get? 0, t0 + 1000000 ≤ s.dev.time.tick) := by decide +kernel

theorem test_witness_ThermalTripPowersDown :
    10 ≤ (dev (fun d => { d with power := { d.power with tripTicks := ⟨[(35, 10)]⟩ } }) State.reset).dev.power.tripTicks.getD 35 0
    ∧ State.reset.val oPowerState ≠ 0 ∧ State.reset.val oPowerState ≠ 4
    ∧ (let s := dev (fun d => { d with resets := { d.resets with power := { d.resets.power with trip := some 0 } } }) (atTick 6000000000 State.reset)
       s.dev.resets.power.trip = some 0 ∧ 0 + s.val oThermalTripHold * 100000 ≤ s.dev.time.tick
       ∧ s.dev.power.readings.getD 68 0 ≤ 640 ∧ s.dev.power.readings.getD 69 0 ≤ 640 ∧ s.dev.resets.power.releaseHeld = false) := by
  decide +kernel

/-- A reset sequence in progress. -/
def seqAt (k scope : Nat) (s : State) : State :=
  dev (fun d => { d with resets := { d.resets with seqs := d.resets.seqs.put k ⟨scope, 4, 0, 0, 0, 0, 0, false⟩ } }) s

theorem test_witness_ResetsBeginTheirSequence : State.reset.dev.resets.resetN = false ∧ State.reset.val oPowerState = 2
    ∧ State.reset.dev.resets.seqs.get? 16 = none ∧ State.reset.dev.resets.perst.getD 1 false = false
    ∧ State.reset.dev.resets.seqs.get? 18 = none
    ∧ odTakes State.reset.world .mctp 0x2090 1 2 = true ∧ odTakes State.reset.world (.pf 0) 0x2090 1 3 = true
    ∧ husk0.dev.resets.seqs.get? 0 = none ∧ husk0.world.huskState 0 ≠ hsDisabled ∧ odTakes husk0.world (.pf 0) 0x2090 1 1 = true := by
  decide +kernel

theorem test_witness_ResetsEnd :
    (let s := obj oPowerOnAuto 0 (dev (fun d => { d with resets := { d.resets with resetN := true } }) State.reset)
     s.dev.resets.resetN = true ∧ s.dev.resets.power.trip = none ∧ s.val oPowerOnAuto = 0)
    ∧ (let s := seqAt 18 5 State.reset
       s.dev.resets.seqs.has 18 = true ∧ 1 < s.dev.resets.perst.length)
    ∧ (let s := seqAt 16 2 State.reset
       s.dev.resets.seqs.get? 16 = some ⟨2, 4, 0, 0, 0, 0, 0, false⟩ ∧ s.world.pulseInProgress = false)
    ∧ (seqAt 15 1 State.reset).dev.resets.seqs.get? 15 = some ⟨1, 4, 0, 0, 0, 0, 0, false⟩
    ∧ (let s := seqAt 16 3 State.reset
       s.dev.resets.seqs.get? 16 = some ⟨3, 4, 0, 0, 0, 0, 0, false⟩ ∧ s.world.pulseInProgress = false ∧ s.val oPowerState = 2
       ∧ s.dev.resets.power.dir = 0 ∧ s.dev.fabric.drainSince = none ∧ s.dev.resets.resetN = false)
    ∧ (seqAt 19 6 State.reset).dev.resets.seqs.has 19 = true ∧ State.reset.dev.odHeld = [] := by decide +kernel

/-- The power sequencer in a direction. -/
def pwr (f : PowerSeq → PowerSeq) (s : State) : State := dev (fun d => { d with resets := { d.resets with power := f d.resets.power } }) s

theorem test_witness_RailsComeUpInOrder :
    (let s := (obj (oRailState 0) 1 ∘ obj oPowerStage 0 ∘ pwr (fun p => { p with dir := 1 })) State.reset
     s.val (oRailState 0) = 1 ∧ s.dev.resets.power.dir = 1 ∧ s.val oPowerStage = 0)
    ∧ (let s := (obj (oRailState 14) 1 ∘ obj oPowerStage 14 ∘ pwr (fun p => { p with dir := 1 })) State.reset
       s.val (oRailState 14) = 1 ∧ s.dev.resets.power.dir = 1 ∧ s.val oPowerStage = 14) := by decide +kernel

theorem test_witness_RailsGoDownAndFail :
    (let s := obj (oRailState 14) 3 State.reset
     s.val (oRailState 14) = 3 ∧ s.dev.resets.power.dir ≠ 2)
    ∧ (let s := (obj (oRailState 14) 1 ∘ obj oPowerStage 14 ∘ pwr (fun p => { p with dir := 1 })) (atTick 1000000 State.reset)
       s.val oPowerStage = 14 ∧ s.dev.resets.power.dir = 1 ∧ s.val (oRailState 14) = 1
       ∧ s.dev.resets.power.since + railRamp 14 + 100000 ≤ s.dev.time.tick)
    ∧ State.reset.val (oRailState 9) = 2 ∧ State.reset.dev.resets.power.dir = 0 ∧ State.reset.val (oRailState 0) = 2 := by decide +kernel

theorem test_witness_PowerCommandsAndInput :
    odTakes State.reset.world (.pf 0) 0x2091 1 1 = true ∧ odTakes State.reset.world .mctp 0x2091 1 2 = true
    ∧ State.reset.world.railsOff = false ∧ State.reset.dev.resets.seqs.get? 16 = none ∧ State.reset.dev.resets.power.trip = none
    ∧ (let s := pwr (fun p => { p with dir := 3 }) (atTick 10000000 State.reset)
       s.dev.resets.power.dir = 3 ∧ s.dev.resets.power.since + s.val oPowerOffHold ≤ s.dev.time.tick)
    ∧ State.reset.dev.resets.power.pwrfail = none
    ∧ (let s := pwr (fun p => { p with pwrfail := some 0 }) (atTick 180000 State.reset)
       s.dev.resets.power.pwrfail = some 0 ∧ 0 + 180000 ≤ s.dev.time.tick ∧ s.dev.resets.power.committed = none)
    ∧ (let s := dev (fun d => { d with fabric := { d.fabric with drainSince := some 0 } })
         (pwr (fun p => { p with committed := some 0 }) (atTick 200000 State.reset))
       s.dev.resets.power.committed = some 0 ∧ 0 + 200000 ≤ s.dev.time.tick ∧ s.world.railsOff = false
       ∧ s.dev.resets.power.dir ≠ 2 ∧ s.dev.fabric.drainSince ≠ none)
    ∧ (let s := obj (oRailState 0) 0 (obj oPowerOnAuto 0 State.reset)
       s.val (oRailState 0) = 0 ∧ s.val oPowerOnAuto = 0)
    ∧ State.reset.val (oRailState 0) ≠ 0 := by decide +kernel

theorem test_witness_WatchdogAndDomains :
    (let s := obj oDomainPowered 0xFFFFFFFF State.reset
     odTakes s.world (.pf 0) 0x209A 1 0xFFFFFFFF = true
     ∧ (∀ d, d < 32 → (bitAt (s.val oDomainPowerMask) d = bitAt (0xFFFFFFFF ||| 0x3F000000) d))
     ∧ (∀ d, d < 32 → bitAt (0xFFFFFFFF ||| 0x3F000000) d = s.world.powered d)) := by decide +kernel

/-- Node (0, 0, 0) of a 2 × 1 × 1 installation. -/
def node0 (s : State) : State := obj oFabricNodeAddress 0 (obj oFabricDims 0x20101 s)

theorem test_witness_TimeFollowsTheMaster :
    (let s := obj oTimeState 1 (node0 State.reset)
     (World.betterClock s.world.leadClock (1, 5) || 5 == s.world.self) = false ∧ s.val oTimeState ≠ 0 ∧ s.dev.time.permit = false)
    ∧ (let s := node0 State.reset
       (World.betterClock s.world.leadClock (255, 5) || 5 == s.world.self) = true
       ∧ s.world.leadClock = (s.val oTimeMasterPriority, s.world.self))
    ∧ (let s := dev (fun d => { d with time := { d.time with master := some (1, 9) } }) (node0 State.reset)
       (World.betterClock s.world.leadClock (255, 5) || 5 == s.world.self) = true
       ∧ s.world.leadClock ≠ (s.val oTimeMasterPriority, s.world.self))
    ∧ (let s := obj oTimeState 2 (atTick 1000000 State.reset)
       s.val oTimeState ≠ 0 ∧ s.dev.time.lastMsg + 1000000 ≤ Int.ofNat s.dev.time.tick)
    ∧ (atTick 100000 State.reset).dev.time.lastSend + 100000 ≤ Int.ofNat (atTick 100000 State.reset).dev.time.tick
    ∧ odTakes State.reset.world (.pf 0) 0x2010 5 1 = true := by decide +kernel

/-- A frame header of R349 with its HCRC. -/
def frameHdr (dest vc ty seq : Nat) : BitVec 64 :=
  let b := dest * 2 ^ 41 + vc * 2 ^ 38 + ty * 2 ^ 33 + seq * 2 ^ 21
  BitVec.ofNat 64 (b * 128 + crc7 b)
/-- Link 0 ACTIVE with its credits. -/
def link0 (s : State) : State :=
  let l : LinkSt := { LinkSt.init with up := true, shared := 768 }
  obj (oLinkState 0) 3 (obj (oFabricDirState 0) 0 (dev (fun d => { d with fabric := { d.fabric with links := d.fabric.links.put 0 l } }) s))
/-- The direction of link 0 powered. -/
def dir0 (s : State) : State := obj oDomainPowered 0xFFFFFFFF s

theorem test_witness_FramesAreTakenInOrder :
    (let s := link0 (node0 State.reset)
     let h := (frameHdr 1 3 4 0).toNat
     (s.val (oLinkState 0) = 3) ∧ fhGood h = true ∧ fhSeq h = (s.world.link 0).rx ∧ 1 ≤ fhType h ∧ fhType h ≤ 5 ∧ fhType h ≠ 7
     ∧ fhGood ((frameHdr 1 3 4 0) ^^^ 1).toNat = false
     ∧ (fhType (frameHdr 0 1 5 7).toNat ≠ 0 ∧ fhSeq (frameHdr 0 1 5 7).toNat ≠ (s.world.link 0).rx)) := by decide +kernel

theorem test_witness_LinksGoDownAndComeUp :
    (let l : LinkSt := { LinkSt.init with up := true, retrySince := some 0, downAt := some 0 }
     let s := (obj (oLinkState 23) 6 ∘ dev (fun d => { d with fabric := { d.fabric with links := d.fabric.links.put 23 l } })) (atTick 10000 State.reset)
     s.val (oLinkState 23) = 6 ∧ (s.world.link 23).retrySince = some 0 ∧ 0 + s.val oLinkRetryLimit ≤ s.dev.time.tick
     ∧ (s.world.link 23).downAt = some 0 ∧ (s.world.link 23).up = true ∧ s.val (oLinkState 23) ≠ 3
     ∧ 0 + s.val oLinkCreditTimeout ≤ s.dev.time.tick)
    ∧ (let s := node0 (dir0 State.reset)
       s.val (oLinkState 0) = 1 ∧ s.world.powered 24 = true ∧ s.dev.fabric.overload.elem 0 = false
       ∧ nodeValid s.world.dims s.world.self = true ∧ nodeValid s.world.dims 0x800 = true ∧ (0x20101#32).toNat = s.world.dims
       ∧ neighbour s.world.dims s.world.self 0 = some (0x800#16).toNat ∧ neighbour s.world.dims s.world.self 1 ≠ some (0x800#16).toNat
       ∧ (s.world.link 0).up = false)
    ∧ (let s := dev (fun d => { d with fabric := { d.fabric with drainSince := some 0 } }) State.reset
       s.dev.fabric.drainSince = some 0 ∧ s.world.portsHold = false) := by decide +kernel

theorem test_witness_DirectionsAndCables :
    odTakes State.reset.world (.pf 0) 0x5001 1 0 = true ∧ odTakes State.reset.world .fieldNet 0x5001 6 3 = true
    ∧ (let s := dir0 (dev (fun d => { d with fabric := { d.fabric with target := ⟨[(0, 1)]⟩ } }) State.reset)
       s.dev.fabric.target.getD 0 (s.val (oFabricDirPowerReq 0)) ≠ s.val (oFabricDirState 0) ∧ s.dev.fabric.target.getD 0 (s.val (oFabricDirPowerReq 0)) < 2 ∧ s.world.powered 24 = true)
    ∧ State.reset.world.powered 29 = false
    ∧ (let s := obj (oFabricDirState 5) 2 (dir0 State.reset)
       s.world.powered 29 = true ∧ s.val (oFabricDirState 5) < 3)
    ∧ (let s := dev (fun d => { d with fabric := { d.fabric with assembling := ⟨[(4, ⟨0, 0, [], 0, false⟩)]⟩ } }) (atTick 100000 State.reset)
       (s.dev.fabric.assembling.get? 4).isSome = true ∧ 0 + s.val oFabricContTimeout ≤ s.dev.time.tick
       ∧ fld 0 48 8 ≠ 0x41 ∧ fld (0x41 * 2 ^ 48) 48 8 = 0x41)
    ∧ (atTick 10000 State.reset).dev.fabric.lastStatus + 10000 ≤ 10000 := by decide +kernel

/-- A message from node 0x800 that husk 0 of node 0 has in its inbox. -/
def inMsg (kind : BitVec 8) : Msg := ⟨0, 1, 0, 0, 0, 0, 0x800, 0, 0, kind, 0, false, []⟩
def inbox (m : Msg) (s : State) : State := dev (fun d => { d with fabric := { d.fabric with inbox := [m] } }) s

theorem test_witness_MessagesReachTheirEngine :
    ([0x0A, 0x0B, 0x05, 0x06, 0x07, 0x08, 0x09, 0x40, 0x41, 0x43].all (fun k =>
      msgTaken (inbox (inMsg (BitVec.ofNat 8 k)) (node0 husk0)).world (inMsg (BitVec.ofNat 8 k)) k)) = true
    ∧ msgTaken (node0 husk0).world (inMsg 0x0A) 0x0A = true
    ∧ (let m : Msg := { inMsg 0x0A with srcNode := 0, dstEpoch := 5 }
       let s := dev (fun d => { d with fabric := { d.fabric with lastNack := ⟨[(0, 0)]⟩ } }) (node0 husk0)
       m.dest.toNat = s.world.self ∧ m.kind = 0x0A#8 ∧ m.vc ≠ 0#3 ∧ m.vc ≠ 7#3 ∧ m.srcNode.toNat = s.world.self ∧ m.dstEpoch ≠ 0xFFFF#16
       ∧ m.dstEpoch.toNat ≠ s.val (oFabricHuskEpoch m.dstHusk.toNat)
       ∧ s.dev.fabric.lastNack.get? m.srcNode.toNat = some s.dev.time.tick) := by decide +kernel

/-- A collective descriptor that runs for husk 0 on engine 0, with both ranks in the table. -/
def run0 (cmd : Nat) : CollRun :=
  ⟨0, 0, cmd, 0, 0, [0, 0x800], 0, 0, 0, 0, false, [], false, [], .empty, [], .empty, [], .empty, none, false, .empty, [], false, none, none,
   false, 0, .empty, [], false, 0, false⟩
def withRun (r : CollRun) (s : State) : State := dev (fun d => { d with coll := { d.coll with runs := ⟨[(0, r)]⟩ } }) s

theorem test_witness_CollectiveMessagesReachTheirDescriptor :
    (let s := withRun (run0 1) (inbox (inMsg 1) (node0 husk0))
     let m := inMsg 1
     msgTaken s.world m 1 = true ∧ (msgSeen s.world m).turnShut 0 = false ∧ (msgSeen s.world m).collRun 0 = some (run0 1))
    ∧ ([2, 3, 4].all (fun k => msgTaken (withRun (run0 1) (inbox (inMsg (BitVec.ofNat 8 k)) (node0 husk0))).world (inMsg (BitVec.ofNat 8 k)) k)) = true
    ∧ (World.rankOf (run0 1) 0 0 = some 0 ∨ (World.rankOf (run0 1) 0x800 0).isSome = true)
    ∧ (let s := node0 husk0
       msgTaken s.world (inMsg 1) 1 = true ∧ (msgSeen s.world (inMsg 1)).turnShut 0 = false
       ∧ (msgSeen s.world (inMsg 1)).collRun 0 = none) := by decide +kernel

theorem test_witness_QueueRegistersObeyTheirChecks :
    (let s := husk0
     let r := RingRef.slice 0 14 0
     s.world.ringPathOk (.vf 0 1) r = true ∧ s.world.moduleResetting = false ∧ (s.world.ring r).enable = false ∧ s.world.active 0 = true
     ∧ bitAt 0x41 0 = true ∧ 4 ≤ fld 0x41 4 4 ∧ fld 0x41 4 4 ≤ 12
     ∧ s.world.ringsPlaced r { s.world.ring r with log2size := fld 0x41 4 4, producer := bitAt 0x41 8 } = true
     ∧ s.world.ringsPlaced r { s.world.ring r with log2size := fld 0x1C1 4 4, producer := bitAt 0x1C1 8 } = true)
    ∧ (let s := cmdAt 0 0 husk0
       let x := s.world.ring (q0 0)
       bitAt 0 0 = false ∧ x.enable = true ∧ 0 < x.size ∧ x.dist 0 x.cqhead ≤ x.dist x.cqtail x.cqhead
       ∧ s.world.tailRefusal (.pf 0) (q0 0) 15 = none ∧ s.world.tailRefusal (.pf 0) (q0 0) 16 = some 6
       ∧ s.world.tailRefusal (.pf 0) (q0 0) 0 = some 6)
    ∧ (let r := RingRef.slice 15 8 3
       husk0.world.ringPathOk (.pf 0) r = false ∧ husk0.world.moduleResetting = false ∧ husk0.world.huskState 3 ≠ hsResetting
       ∧ husk0.world.huskState 3 ≠ hsDisabling) := by decide +kernel

theorem test_witness_ForeignFunctionCannotWriteQueues : (15 : Fin 16) ≠ 0 := by decide

theorem test_witness_QueueIndicesStayInTheRing : (let s := cmdAt 14 0 husk0
    let x := s.world.ring (q0 14)
    x.enable = true ∧ x.head < x.size ∧ x.tail < x.size ∧ x.cqhead < x.size ∧ x.cqtail < x.size)
    ∧ after (.queueDisable (.pf 0) (q0 14) 0) (cmdAt 14 0 husk0) (fun _ => true) = true := by decide +kernel

theorem test_witness_CommandsEnterAndLeaveTheirQueue :
    (husk0.world.ctx (q0 3)).ring = q0 3
    ∧ (let x : Ring := { Ring.init with enable := true, log2size := 4, taken := [⟨1, 0, 0, 0, .done, 0, true, 0, 0, 0, 0, [], []⟩] }
       let s := dev (fun d => { d with rings := d.rings.put (ringKey (q0 14)) x }) husk0
       let w := s.world.releaseReaders (q0 14)
       (w.ring (q0 14)).taken = [⟨1, 0, 0, 0, .done, 0, true, 0, 0, 0, 0, [], []⟩] ∧ w.ringUnitRuns (q0 14) = true) := by decide +kernel


/-- The detour of the timeline of R365: past a lost XP it goes YP, runs X, then YN; one past a lost ZP goes XP, runs Z, then
XN, without returning to the row it left (R358). -/
theorem test_detour :
    let dims := 20 * 65536 + 20 * 256 + 20
    onwardDir dims (nodeOf 3 4 5) (nodeOf 6 4 5) 0 none = some 0 ∧ onwardDir dims (nodeOf 3 5 5) (nodeOf 6 4 5) 2 (some 3) = some 0
      ∧ onwardDir dims (nodeOf 6 5 5) (nodeOf 6 4 5) 2 (some 1) = some 3
      ∧ onwardDir dims (nodeOf 1 0 0) (nodeOf 0 0 5) 2 (some 1) = some 4 ∧ onwardDir dims (nodeOf 1 0 1) (nodeOf 0 0 5) 2 (some 5) = some 4
      ∧ onwardDir dims (nodeOf 1 0 5) (nodeOf 0 0 5) 2 (some 5) = some 1 := by decide +kernel
/-- A GEMM of one row and one column over K elements in FP32, written to C. -/
def gemmCmd (op k gf : Nat) : Nat :=
  fields [(op, 0), (1, 24), (gf, 26), (k, 64), (0x14000, 128), (0x15000, 192), (0x16000, 256), (1, 304), (1, 368), (0x17000, 320), (7, 640)]

theorem test_witness_MatrixNopAndClear :
    takes (cmdAt 0 0 husk0) (q0 0) (fun x => cmdOp x == 0) (fun _ c => gReserved c) = true
    ∧ takes (cmdAt 0 (2 ^ 1023) husk0) (q0 0) (fun x => cmdOp x == 0) (fun _ c => !gReserved c) = true
    ∧ takes (cmdAt 7 (fields [(4, 0), (1, 28)]) husk0) (q0 7) (fun x => cmdOp x == 4) (fun _ c => gReserved c) = true := by decide +kernel

/-- A manifest's matrix and an installed image that husk 0 uses. -/
def rec0 : MatrixRec := ⟨0, 1, 1, 9, 0, [⟨0, 1, 0, 0⟩]⟩
def image0 (s : State) : State :=
  obj (oHuskActiveImage 0) 0 (obj (oAcornImageSlot 0) (4 * 2 ^ 60 + 5)
    (dev (fun d => { d with acorn := { d.acorn with images := ⟨[(0, ⟨0, 0x100000, [rec0], [], []⟩)]⟩ } }) s))

theorem test_witness_MatrixProducts :
    takes (cmdAt 0 (gemmCmd 1 1 0) husk0) (q0 0) (fun x => cmdOp x == 1) (fun w c =>
      (w.gemmFieldFail (w.ctx (q0 0)) c).isNone && w.gemmAddrOk (w.ctx (q0 0)) c
        && w.productWait (w.ctx (q0 0)) c (w.piecesNow (w.ctx (q0 0)) c) == .done) = true
    ∧ takes (cmdAt 0 (gemmCmd 1 32 1) husk0) (q0 0) (fun x => cmdOp x == 1) (fun w c =>
      (w.gemmFieldFail (w.ctx (q0 0)) c).isNone && w.gemmAddrOk (w.ctx (q0 0)) c
        && w.productWait (w.ctx (q0 0)) c (w.piecesNow (w.ctx (q0 0)) c) == .feed) = true
    ∧ takes (cmdAt 7 (gemmCmd 3 0 0) husk0) (q0 7) (fun x => cmdOp x == 3) (fun w c =>
      gReserved c && gRound c != 3 && (gFmtA c).isSome && (gFmtB c).isSome && gPair c && gOut c != 2 && gOut c != 3
        && decide (gM c ≤ 128) && w.gemmOutOk (w.ctx (q0 7)) c) = true
    ∧ (let s := pokeN 0x17000 8 7 (takenOn 0 (gemmCmd 1 32 1) .feed [] husk0)
       (s.world.takenWith (q0 0) .feed).isSome = true ∧ 0 < gPieces (gemmCmd 1 32 1)
       ∧ ((s.world.takenWith (q0 0) .feed).map (fun t => (s.world.ctxOf (q0 0) t).husk)) = some (s.world.ctx (q0 0)).husk
       ∧ s.world.flagPresent (s.world.ctx (q0 0)) (gFlagAddr (gemmCmd 1 32 1)) (gFlagSeq (gemmCmd 1 32 1)) = some 0
       ∧ s.world.productWait (s.world.ctx (q0 0)) (gemmCmd 1 32 1) [(0, 0)] = .done
       ∧ 1 < gPieces (gemmCmd 1 64 1 + 2 ^ 304) ∧ s.world.productWait (s.world.ctx (q0 0)) (gemmCmd 1 64 1 + 2 ^ 304) [(0, 0)] ≠ .done)
    ∧ (let s := takenOn 0 (gemmCmd 1 32 1) .feed [] (atTick 100000 husk0)
       (s.world.takenWith (q0 0) .feed).isSome = true ∧ 0 + s.val oComputeFeedTimeout ≤ s.dev.time.tick)
    ∧ (masterType 0x1001 ≠ 0xA ∧ masterType 0x1000 ≠ 0xA ∧ husk0.world.chainCmd 0x1001 .chainOut = none
       ∧ (husk0.world.acceptSet 0x1000 ⟨0x1001, 1, 1, [0], []⟩).isSome = true) := by decide +kernel

/-- The first tile of that image in the cells, mapped for husk 0: an MXFP4 tile of zeros with its checksum (R106, R107). -/
def tile0 (s : State) : State :=
  let hd := leBytes 16 (tileHeader 5 0 0 0 9)
  pokeN 0x1F40000 8 (0x15 + 3 * 2 ^ 10 + 0x20000000000) (pokeN 0x1F00020 8 (nextPte 0 0x1F40000)
    (pokeN (0x20000000000 + 2192) 4 1019138675 (poke 0x20000000000 hd (image0 s))))

theorem test_witness_MatrixProducts_bstream : (let s := cmdAt 0 0 (tile0 husk0)
    let cmd := fields [(2, 0), (9, 8), (9, 12), (1, 24), (1, 64), (0x14000, 128), (0x20000000000, 192), (0x16000, 256)]
    let c := s.world.ctx (q0 0)
    (s.world.gemmFieldFail c cmd).isNone && s.world.bstreamAddrOk c cmd
        && (match s.world.bstreamCheck c cmd with
          | .inr (_, m, tr, _, ok) => ok && !s.world.stacksHeld m tr (((if bitAt cmd 31 then gK cmd else gN cmd) + 63) / 64)
          | .inl _ => false)
        && s.world.productWait c cmd (s.world.piecesNow c cmd) == .done) = true := by decide +kernel

/-- A vector command of one row of two FP32 elements. -/
def vCmd (op imm1 fx fy fz : Nat) : Nat :=
  fields [(op, 0), (fx, 8), (fy, 12), (fz, 16), (1, 64), (2, 88), (0x14000, 128), (0x15000, 192), (0x16000, 256), (imm1, 352)]
/-- `veReady` as a check. -/
def veOk (s : State) (r : RingRef) (want : Nat → Bool) (sh : Nat → VShape) (imm : Nat → Bool) : Bool :=
  isVectorRing r && takes s r want (fun w1 cmd => (World.veFieldFail cmd (sh cmd) (imm cmd)).isNone && w1.veAddrOk (w1.ctx r) cmd (sh cmd))
def ve8 (op imm1 : Nat) (want : Nat → Bool) (sh : Nat → VShape) (imm : Nat → Bool) : Bool :=
  veOk (cmdAt 8 (vCmd op imm1 0 0 0) husk0) (q0 8) want sh imm

theorem test_witness_VectorElementwise :
    let e1 := fun k => VShape.elem k false
    let e2 := fun k => VShape.elem k true
    let any := fun _ : Nat => true
    ve8 0x10 0 (fun c => cmdOp c == 0x10 && (vImm1 c % 4 == 0 || vImm1 c % 4 == 3)) e2 imm1Three = true
    ∧ ve8 0x10 1 (fun c => cmdOp c == 0x10 && vImm1 c % 4 == 1) e2 imm1Three = true
    ∧ ve8 0x10 2 (fun c => cmdOp c == 0x10 && vImm1 c % 4 == 2) e2 imm1Three = true
    ∧ ve8 0x12 0 (fun c => cmdOp c == 0x12) e2 any = true ∧ ve8 0x13 0 (opBit 0x13 0) e1 imm1Bit = true
    ∧ ve8 0x13 1 (opBit 0x13 1) e1 imm1Bit = true ∧ ve8 0x14 0 (opBit 0x14 0) e2 imm1Bit = true
    ∧ ve8 0x14 1 (opBit 0x14 1) e2 imm1Bit = true ∧ ve8 0x15 0 (fun c => cmdOp c == 0x15) e2 any = true
    ∧ ve8 0x20 0 (opBit 0x20 0) e1 imm1Bit = true ∧ ve8 0x20 1 (opBit 0x20 1) e1 imm1Bit = true
    ∧ ve8 0x21 0 (fun c => cmdOp c == 0x21) e1 any = true ∧ ve8 0x22 0 (fun c => cmdOp c == 0x22) e1 any = true := by decide +kernel

theorem test_witness_VectorRows :
    let e1 := fun k => VShape.elem k false
    let e2 := fun k => VShape.elem k true
    let any := fun _ : Nat => true
    let red := fun k => VShape.reduce k false
    ve8 0x30 0 (opBit 0x30 0) red imm1Bit = true ∧ ve8 0x30 1 (opBit 0x30 1) red imm1Bit = true ∧ ve8 0x31 0 (opBit 0x31 0) red imm1Bit = true
    ∧ ve8 0x31 1 (opBit 0x31 1) (fun k => VShape.reduce k true) imm1Bit = true ∧ ve8 0x32 0 (fun c => cmdOp c == 0x32) e2 any = true
    ∧ ve8 0x33 0 (opBit 0x33 0) e1 imm1Bit = true ∧ ve8 0x33 1 (opBit 0x33 1) e1 imm1Bit = true
    ∧ ve8 0x40 0 (fun c => cmdOp c == 0x40) e1 any = true
    ∧ ve8 0x42 0 (fun c => cmdOp c == 0x42) (fun k => { VShape.elem k false with zRows := vCols k, zCols := vRows k }) any = true
    ∧ ve8 0x11 0 (fun c => cmdOp c == 0x11) (fun k => { VShape.elem k true with zin := true }) any = true
    ∧ ve8 0x23 0 (fun c => cmdOp c == 0x23) e2 any = true := by decide +kernel

theorem test_witness_VectorRandomAndGather :
    let imm3 := fun k => decide (vImm1 k < 8)
    ve8 0x50 0 (opBit 0x50 0) VShape.gen imm3 = true ∧ ve8 0x50 7 (opBit 0x50 1) VShape.gen imm3 = true
    ∧ ve8 0x51 0 (opBit 0x51 0) VShape.gen imm1Bit = true ∧ ve8 0x51 1 (opBit 0x51 1) (fun k => VShape.elem k false) imm1Bit = true
    ∧ takes (cmdAt 8 (vCmd 0x43 0 0 0 0) husk0) (q0 8) (fun x => cmdOp x == 0x43) (fun w cmd =>
        let c := w.ctx (q0 8)
        let sh : VShape := ⟨false, true, false, vCols cmd, 1, vRows cmd, vRows cmd, vCols cmd, false, true⟩
        (World.veFieldFail cmd { sh with x := true } true).isNone && w.veAddrOk c cmd sh && vAddrX cmd % 32 == 0) = true
    ∧ takes (cmdAt 8 (vCmd 0x44 0 0 0 0) husk0) (q0 8) (fun x => cmdOp x == 0x44) (fun w cmd =>
        let c := w.ctx (q0 8)
        let sh : VShape := ⟨true, true, false, vCols cmd, 1, vRows cmd, 0, vCols cmd, false, true⟩
        (World.veFieldFail cmd { sh with zin := true } true).isNone && w.veAddrOk c cmd sh && vAddrZ cmd % 32 == 0) = true
    ∧ takes (cmdAt 8 (vCmd 0x41 0 1 1 12) husk0) (q0 8) (fun x => cmdOp x == 0x41) (fun w cmd =>
        let c := w.ctx (q0 8)
        vFmtX cmd == some .bf16 && vFmtY cmd == some .bf16 && vFmtZ cmd == some .g8e
          && (World.veFieldFail cmd (VShape.elem cmd true) true).isNone && w.veAddrOk c cmd (VShape.elem cmd true)
          && w.operandOk c .bf16 (vAddrY cmd) (vLdy cmd) (vRows cmd) (vCols cmd) .wr) = true := by decide +kernel

/-- What the vector engine writes: 1 + 2 = 3 in FP32. -/
theorem test_add_writes : after (.add (q0 8)) (pokeN 0x14000 4 0x3F800000 (pokeN 0x15000 4 0x40000000 (cmdAt 8 (vCmd 0x10 0 0 0 0) husk0)))
    (fun t => t.world.num 0x16000 4 == 0x40400000 && (t.world.ring (q0 8)).head == 1) = true := by decide +kernel

/-- 2 × 3 by a GEMM of one element. -/
theorem test_gemm_writes : after (.gemm (q0 0)) (pokeN 0x14000 4 0x40400000 (pokeN 0x15000 4 0x40000000 (cmdAt 0 (gemmCmd 1 1 0) husk0)))
    (fun t => t.world.num 0x16000 4 == 0x40C00000) = true := by decide +kernel

/-- Pip 0 with these registers x1, x2. -/
def pip0 (a b : Nat) (s : State) : State :=
  dev (fun d => { d with pips := d.pips.put 0 ((Pip.init.setX 1 (BitVec.ofNat 64 a)).setX 2 (BitVec.ofNat 64 b)) }) s
/-- Queue 0 of slice 0 without PRODUCER: pips push to it. -/
def pipQueue (head tail cqtail : Nat) (producer : Bool) (s : State) : State :=
  let x : Ring := { Ring.init with enable := true, log2size := 4, producer := producer, qbase := 0x10000, cqbase := 0x12000, head := head, tail := tail, cqtail := cqtail }
  dev (fun d => { d with rings := d.rings.put (ringKey (q0 0)) x }) s

theorem test_witness_PipQueueInstructions :
    (let s := pip0 0 0x14000 (pipQueue 0 3 1 false husk0)
     let q := s.world.ring (q0 0)
     let d := (s.world.storesVisible 0).pipRead 0 0 ((s.world.pip 0).getX 2).toNat 128 .rd 1
     let w1 := d.2
     s.world.pipRuns 0 = true ∧ d.1.2 = true
     ∧ World.queueOperand ((s.world.pip 0).getX 1) 0 = some (q0 0) ∧ w1.queueUsable (q0 0) = true ∧ (w1.ring (q0 0)).enable = true
     ∧ (w1.ring (q0 0)).producer = false ∧ (w1.ring (q0 0)).dist ((w1.ring (q0 0)).tail + 1) (w1.ring (q0 0)).head ≠ 0
     ∧ (w1.writeVirt 0 0x2000 2 ((w1.ring (q0 0)).qbase + 128 * (w1.ring (q0 0)).tail) d.1.1.data d.1.1.bad).1 = true
     ∧ (w1.writeVirt 0 0x2000 2 0x900000000000 d.1.1.data d.1.1.bad).1 = false
     ∧ ((s.world.storesVisible 0).pipRead 0 0 0x900000000000 128 .rd 1).1.2 = false
     ∧ q.cqhead ≠ q.cqtail ∧ s.world.queueUsable (q0 0) = true
     ∧ (s.world.readVirt 0 0x2000 1 (q.cqbase + 16 * q.cqhead) 8).1.2 = true
     ∧ (s.world.readVirt 0 0x2000 1 0x900000000000 8).1.2 = false)
    ∧ World.queueOperand (BitVec.allOnes 64) 0 = none ∧ husk0.world.waitRecord 0 0 = false
    ∧ (husk0.world.queueUsable (q0 0) = true ∧ (husk0.world.ring (q0 0)).enable = false)
    ∧ (pipQueue 0 0 0 true husk0).world.queueUsable (q0 0) = true ∧ ((pipQueue 0 0 0 true husk0).world.ring (q0 0)).producer = true
    ∧ (let q := (pipQueue 1 0 0 false husk0).world.ring (q0 0)
       q.dist (q.tail + 1) q.head = 0 ∧ q.cqhead = q.cqtail) := by decide +kernel

/-- Barrier 63 of husk 0. -/
def bar0 (b : Barrier) (s : State) : State := dev (fun d => { d with barriers := d.barriers.put 63 b }) s

theorem test_witness_PipBarriersWakesAndTraps :
    (let s := pip0 63 4096 husk0
     s.world.pipRuns 0 = true ∧ ((s.world.pip 0).getX 1).toNat < 64 ∧ ((s.world.pip 0).getX 2).toNat = 4096
     ∧ ((pip0 64 4097 husk0).world.pip 0).getX 1 = 64 ∧ ((pip0 64 4097 husk0).world.pip 0).getX 2 = 4097
     ∧ (s.world.barrier 0 63).arrivals = 0 ∧ ((bar0 ⟨2, 1, 5⟩ s).world.barrier 0 63).arrivals ≠ 0
     ∧ ((bar0 ⟨2, 0, 5⟩ s).world.barrier 0 63).arrivals + 1 ≠ 2 ∧ ((bar0 ⟨2, 1, 5⟩ s).world.barrier 0 63).arrivals + 1 = 2
     ∧ 4096 < ((bar0 ⟨2, 1, 4097⟩ s).world.barrier 0 63).gen ∧ ((bar0 ⟨2, 1, 4096⟩ s).world.barrier 0 63).gen ≤ 4096
     ∧ s.world.preemptPending 0 = false)
    ∧ (0x14000 % 8 = 0 ∧ (husk0.world.scratchWord 0 0x14000 .atomic).1 = some 0x14000 ∧ (husk0.world.scratchWord 0 0x14000 .rd).1 = some 0x14000
      ∧ 0x900000000000 % 8 = 0 ∧ (husk0.world.scratchWord 0 0x900000000000 .atomic).1 = none
      ∧ (husk0.world.scratchWord 0 0x900000000000 .rd).1 = none ∧ 63 % 8 ≠ 0)
    ∧ (dev (fun d => { d with cycle := { d.cycle with changes := ⟨[(0, ⟨0, 1, 0, 0, false, false, false, false⟩)]⟩ } }) husk0).world.preemptPending 0 = true
    ∧ (pipQueue 0 0 1 false husk0).world.waitRecord 0 0 = true
    ∧ ([1, 2, 3].all (fun n =>
        let s := dev (fun d => { d with pips := d.pips.put 0 { Pip.init with waiting := n, waitA := if n = 3 then 0x14000 else 0 } })
          (dev (fun d => { d with barriers := d.barriers.put 0 ⟨2, 0, 1⟩ }) (pipQueue 0 0 1 false (atTick 10 husk0)))
        let x := s.world.pip 0
        x.waiting == n && s.world.waitRecord 0 0 && decide (x.waitB < (s.world.barrier (s.world.pipHusk 0) 0).gen)
          && decide (x.waitB ≤ s.world.num x.waitA 8) && decide (x.waitSince + x.waitB ≤ s.dev.time.tick))) = true
    ∧ (husk0.world.pipRuns 0 = true ∧ fld 0 0 7 ≠ 0b0001011 ∧ xplaosListed 0xFFFFFFFF = false ∧ bitAt (husk0.world.pip 0).medeleg.toNat 2 = false ∧ (husk0.world.pip 0).mode < 3
       ∧ bitAt (4 : Word).toNat 2 = true ∧ bitAt (0 : Word).toNat 2 = false ∧ ({ Pip.init with mode := 1 } : Pip).mode < 3) := by decide +kernel

/-- A line's directory entry and the copies of it. -/
def line0 (l : Nat) (d : DirLine) (cs : List (Nat × LineCopy)) (s : State) : State :=
  dev (fun x => { x with coh := ⟨⟨[(l, d)]⟩, ⟨cs.map (fun c => (copyKey l c.1, c.2))⟩⟩ }) s
/-- A copy of 64 bytes of 1. -/
def copy1 (m : Mesi) : LineCopy := ⟨m, List.replicate 64 1, 0⟩

/-- `served` for cluster `c`. -/
def servedAt (s : State) (c a : Nat) (own : Bool) : Bool :=
  let d := s.world.dirLine (a / 64)
  cacheableLine a && (s.world.homeOf (s.world.clusterHusk c) a).isSome && s.world.sends (a / 64) (c, own) && d.writeback.isNone && d.queue.isEmpty
    && !s.world.hostNeeded (a / 64) own
    && decide ((s.dev.coh.copies.items.filter (fun x => x.1 % 128 == c && x.1 / 128 != a / 64)).length < World.l2Lines)

theorem test_witness_CoherenceGrants :
    let a := 0x10000000000
    let l := a / 64
    let held := line0 l { DirLine.init with owner := some 15 } [(15, copy1 .m)] husk0
    let shared := line0 l { DirLine.init with sharers := [15] } [(15, copy1 .s)] husk0
    servedAt husk0 0 a true = true ∧ servedAt husk0 15 a false = true ∧ (husk0.world.dirLine l) = DirLine.init ∧ acornLine (l * 64) = false
    ∧ World.hostLine l = false
    ∧ servedAt held 0 a true = true ∧ servedAt held 0 a false = true ∧ (held.world.dirLine l).owner = some 15
    ∧ servedAt shared 0 a true = true ∧ servedAt shared 0 a false = true ∧ (shared.world.dirLine l).sharers ≠ []
    ∧ servedAt husk0 0 0x20000000000 false = true ∧ acornLine (0x20000000000 / 64 * 64) = true
    ∧ (let k := 0x100000000000 / 64
       let s := line0 k { DirLine.init with host := 1 } [] husk0
       let t := line0 k { DirLine.init with host := 2 } [] husk0
       servedAt s 0 0x100000000000 false = true ∧ World.hostLine k = true ∧ (s.world.dirLine k).host ≠ 2
       ∧ servedAt t 0 0x100000000000 false = true ∧ servedAt t 0 0x100000000000 true = true)
    ∧ held.world.sends l (15, true) = false ∧ held.world.sends l (15, false) = false
    ∧ (World.sends husk0.world l (3, true) = true ∧ husk0.world.homeOf (husk0.world.clusterHusk 3) a = some 0
       ∧ orderReqs (husk0.val (oCoherencePointer 0)) [(3, true), (15, false)] = [(3, true), (15, false)]
       ∧ husk0.world.hostNeeded l true = false)
    ∧ (let s := line0 l { DirLine.init with writeback := some 1, queue := [(2, true)] } [] husk0
       s.world.sends l (0, true) = true ∧ (s.world.dirLine l).writeback.isSome = true ∧ (s.world.dirLine l).queue ≠ [])
    ∧ (let s := obj (oHostCxlActive 0) 1 husk0
       let k := 0x100000000000 / 64
       s.world.hostNeeded k true = true ∧ s.world.hostNeeded k false = true ∧ regionOf (k * 64) = .tier3 0 ∧ s.world.portCarries 0 = true
       ∧ s.dev.t3.vals.any (fun x => x.user == 5 && x.addr == k * 64) = false) := by decide +kernel

theorem test_witness_CoherenceWritebacksAndSnoops :
    let a := 0x10000000000
    let l := a / 64
    (let sm := line0 l { DirLine.init with owner := some 127 } [(127, copy1 .m)] husk0
     let se := line0 l { DirLine.init with owner := some 0 } [(0, copy1 .e)] husk0
     sm.world.copy? l 127 = some (copy1 .m) ∧ (sm.world.dirLine l).owner = some 127 ∧ (sm.world.dirLine l).writeback = none
     ∧ se.world.copy? l 0 = some (copy1 .e) ∧ (se.world.dirLine l).owner = some 0)
    ∧ (let s := line0 l { DirLine.init with writeback := some 127 } [] husk0
       (s.world.dirLine l).writeback = some 127 ∧ (s.world.dirLine l).queue = [])
    ∧ (let s := line0 l { DirLine.init with writeback := some 127, queue := [(0, true), (1, false)] } [] husk0
       (s.world.dirLine l).queue = [(0, true), (1, false)] ∧ World.hostLine l = false ∧ acornLine (l * 64) = false)
    ∧ (let k := 0x2FFFFFFFFFC0 / 64
       regionOf 0x2FFFFFFFFFC0 = .tier3 1 ∧ regionOf 0x100000000000 = .tier3 0
       ∧ ((line0 k { DirLine.init with sharers := [3], host := 1 } [(3, copy1 .s)] husk0).world.dirLine k).owner = none
       ∧ (let s := line0 k { DirLine.init with owner := some 5, host := 2 } [(5, copy1 .m)] husk0
          (s.world.dirLine k).owner = some 5 ∧ s.world.copy? k 5 = some (copy1 .m) ∧ (s.world.dirLine k).writeback = none))
    ∧ (let s := line0 l { DirLine.init with owner := some 0, queue := [(1, true)] } [(0, copy1 .m)] husk0
       (s.world.dirLine l).queue = [(1, true)] ∧ s.world.hostNeeded l true = false)
    ∧ (let s := line0 l { DirLine.init with owner := some 0, queue := [(1, false), (0, true)] } [(0, copy1 .m)] husk0
       (s.world.dirLine l).queue = [(1, false), (0, true)] ∧ s.world.hostNeeded l false = false) := by decide +kernel

theorem test_witness_MemoryAccesses :
    (World.translates 0x8000 = true ∧ masterType 0x8000 ≠ 0x2 ∧ husk0.world.unitHusk 0x8000 = some 0
       ∧ ([AccessKind.read, .fetch, .atomic].all (fun k =>
            (husk0.world.readVirt 0 0x8000 (accessCode k) 0x14000 8).1.2 && !(husk0.world.readVirt 0 0x8000 (accessCode k) 0x14000 8).1.1.anyBad)) = true)
    ∧ (World.translates 0xA000 = false ∧ masterType 0xA000 ≠ 0xB ∧ regionOf 0x10000000000 ≠ .ctrl
       ∧ ((husk0.world.accessResult 0xA000 [] [] true).writePhys none 0xA000 (accessCode .atomic) 0x10000000000 [1] [false] 0).1 = true)
    ∧ (World.translates 0xB020 = false ∧ masterType 0xB020 = 0xB ∧ masterIndex 0xB020 % 32 = 0 ∧ World.hostSpace 0x10000000000 ≠ 1
       ∧ World.hostSpace 0x10000000000 ≠ 2 ∧ husk0.world.hostReaches none true 0x10000000000 8 = true
       ∧ husk0.world.hostReaches none false 0x10000000000 8 = true)
    ∧ (World.hostSpace (2 ^ 48) = 1 ∧ masterIndex 0xB001 % 32 ≠ 0 ∧ masterType 0xB001 = 0xB ∧ regionOf 0x10000000000 ≠ .ctrl)
    ∧ (let va := 0x10000000000
       let h := husk0.world.pipHusk 0
       masterType 0x2000 = 0x2 ∧ husk0.world.pipRuns 0 = true ∧ World.pages (World.pageFuel 8) va 8 = [(va, 8)]
       ∧ (husk0.world.reach h 0x2000 1 .rd 0x900000000000).1 = none
       ∧ (match husk0.world.reach h 0x2000 1 .rd va with
          | (some _, w1) => (match w1.translate h va .rd with
            | (.ok pa _ _, w2) => regionOf pa == .hbm && (w2.pipRead 0 h va 8 .rd 1).1.2 && !(w2.pipRead 0 h va 8 .rd 1).1.1.anyBad
            | _ => false)
          | _ => false) = true
       ∧ (match husk0.world.reach h 0x2000 2 .wr va with
          | (some _, w1) => (match w1.translate h va .wr with
            | (.ok _ _ nc, w2) => !nc && (match (w2.accessResult 0x2000 [] [] true).peekLeaf h va .wr with
              | some (qa, _) => regionOf qa == .hbm
              | none => false)
            | _ => false)
          | _ => false) = true) := by decide +kernel

/-- An NMU command on image 0. -/
def nCmd (op : Nat) : Nat :=
  fields [(op, 0), (5, 8), (5, 12), (1, 24), (1, 112), (1, 144), (0x14000, 192), (0x15000, 256), (0x18000, 320), (0x1A000, 640)]
/-- What NmuCommands asks of a command at the head of queue 12. -/
def nmuOk (op : Nat) : Bool :=
  takes (cmdAt 12 (nCmd op) (image0 husk0)) (q0 12) (fun x => cmdOp x == op) (fun w cmd =>
    (match w.nmuCheck (w.ctx (q0 12)) cmd with
      | .inr (_, m) => !w.stacksHeld m (nTr0 cmd) (nTrCount cmd) && gCinit cmd != 3
      | .inl _ => false))

theorem test_witness_NmuCommands : husk0.world.blockRing 0 12 = q0 12 ∧ nmuOk 1 = true ∧ nmuOk 2 = true ∧ nmuOk 3 = true
    ∧ takes (cmdAt 12 0 husk0) (q0 12) (fun x => cmdOp x == 0) (fun _ c => nReserved c) = true
    ∧ takes (cmdAt 12 (2 ^ 1023) husk0) (q0 12) (fun x => cmdOp x == 0) (fun _ c => !nReserved c) = true
    ∧ takes (cmdAt 12 (nCmd 1) husk0) (q0 12) (fun x => cmdOp x == 1) (fun w c => (match w.nmuCheck (w.ctx (q0 12)) c with
        | .inl e => e == 0x040A
        | .inr _ => false)) = true := by decide +kernel

def acorn (f : AcornSt → AcornSt) (s : State) : State := dev (fun d => { d with acorn := f d.acorn }) s

theorem test_witness_AcornTablesAndImages :
    odTakes husk0.world (.pf 0) 0x3030 4 1 = true ∧ odTakes husk0.world (.pf 0) 0x8020 3 1 = true
    ∧ (let s := acorn (fun a => { a with overlayPending := ⟨[(0, .pf 0)]⟩ }) (image0 husk0)
       let n := (s.world.upAcorn (fun a => { a with overlayPending := a.overlayPending.del 0 })).nextOverlays 0
       s.dev.acorn.overlayPending.get? 0 = some (.pf 0) ∧ n.1 = some [] ∧ n.2.overlaysValid 0 [] = true
       ∧ n.2.overlaysValid 0 [⟨1, 5, 9, 0, 0, 0, true⟩] = false)
    ∧ (acorn (fun a => { a with repairPending := some (.pf 1) }) husk0).dev.acorn.repairPending = some (.pf 1)
    ∧ odTakes husk0.world (.pf 0) 0x3030 1 0 = true ∧ odTakes husk0.world (.pf 0) 0x3030 1 15 = true
    ∧ (image0 husk0).world.slotState 0 = 4 ∧ (obj (oAcornImageSlot 15) (3 * 2 ^ 60) husk0).world.slotState 15 = 3
    ∧ odTakes husk0.world (.pf 0) 0x3030 1 16 = true ∧ (16 : Nat) ≠ 0xFF
    ∧ (let s := obj (oHuskActiveImage 0) 0xFF (image0 husk0)
       s.world.slotState 0 = 4 ∧ s.world.slotUsed 0 = false)
    ∧ (let s := acorn (fun a => { a with repairPending := some (.pf 1) }) (obj oAcornRepairTableCount 1 husk0)
       s.dev.badLines = [] ∧ s.dev.lastingLines = [] ∧ s.world.lineBad 0 = false ∧ s.val oFieldNetState ≠ 2 ∧ inReserve (s.val oAcornRepairTableBase) = false)
    ∧ odTakes husk0.world (.pf 0) 0x8001 0 15 = true ∧ ((odAsked husk0.world (.pf 0) 0x8001 0 15).imagesSettle).slotState 15 = 0
    ∧ ((odAsked (image0 husk0).world (.pf 0) 0x8001 0 0).imagesSettle).slotState 0 = 4
    ∧ ((image0 husk0).world.tileAt 0x20000000000 = some (0, rec0, 0, 0) ∧ (image0 husk0).val oAcornScrubPeriod ≠ 0)
    ∧ husk0.val oFieldNetState ≠ 2 ∧ husk0.dev.acorn.pulse = .empty
    ∧ odTakes husk0.world (.pf 0) 0x8042 1 1 = true ∧ odTakes husk0.world (.pf 0) 0x8042 2 1 = true
    ∧ stIdleOrTerminal (husk0.val (oAcornRefreshStatus 0)) = true ∧ stIdleOrTerminal (husk0.val (oAcornInstallStatus 0)) = true
    ∧ husk0.dev.acorn.flagged = []
    ∧ stIdleOrTerminal ((obj (oAcornRefreshStatus 0) (2 * 2 ^ 60) husk0).val (oAcornRefreshStatus 0)) = false := by decide +kernel

/-- An installation that runs, its manifest known or not. -/
def installing (m : Option Manifest) (s : State) : State :=
  obj (oAcornInstallStatus 0) (2 * 2 ^ 60) (acorn (fun a => { a with install := { InstallSt.init with manifest := m } }) s)

theorem test_witness_InstallationSteps :
    odTakes husk0.world (.pf 0) 0x8010 6 1 = true ∧ stIdleOrTerminal (husk0.val (oAcornInstallStatus 0)) = true
    ∧ husk0.world.slotTakes (husk0.val oAcornInstallSlot) = true
    ∧ (let s := obj (oAcornImageSlot 15) (2 * 2 ^ 60) (obj oAcornInstallSlot 15 husk0)
       s.val oAcornInstallSource = 0 ∧ s.world.slotTakes 15 = true) ∧ (obj oAcornInstallSlot 16 husk0).world.slotTakes 16 = false
    ∧ stIdleOrTerminal ((installing none husk0).val (oAcornInstallStatus 0)) = false
    ∧ (installing none husk0).world.installing = true ∧ (installing none husk0).dev.acorn.install.manifest = none
    ∧ (∀ d, (installing none husk0).world.signerListed d = false)
    ∧ (let m : Manifest := ⟨5, [], 0x100000, [], [⟨0, 0, 1, 0⟩]⟩
       let s := installing (some m) husk0
       let s1 := obj oAcornInstallDownstream 0xFFFF s
       let s2 := obj oAcornInstallDownstream 0 s
       s.dev.acorn.install.manifest = some m ∧ m.chunks[0]? = some ⟨0, 0, 1, 0⟩ ∧ s.world.installing = true
       ∧ s.dev.acorn.install.cancelling = false ∧ s.dev.acorn.install.received.elem 0 = false ∧ s.world.stagingPlace = some 0
       ∧ s1.val oAcornInstallDownstream = 0xFFFF ∧ s2.val oAcornInstallDownstream ≠ 0xFFFF ∧ s2.dev.acorn.install.downLost = false
       ∧ s2.world.reachable 0 = false)
    ∧ (let s := acorn (fun a => { a with pulse := ⟨[(0, 3), (7, 2)]⟩, queues := ⟨[(0, [⟨false, 0, 0, 0, 0, 4096, 0⟩]), (7, [⟨true, 0, 0, 0, 0, 4096, 0⟩])]⟩ }) husk0
       s.dev.acorn.pulse.get? 0 = some 3 ∧ s.dev.acorn.queues.getD 0 [] = [⟨false, 0, 0, 0, 0, 4096, 0⟩] ∧ s.dev.resets.seqs.has 16 = false
       ∧ s.dev.acorn.pulse.get? 7 = some 2 ∧ s.dev.acorn.queues.getD 7 [] = [⟨true, 0, 0, 0, 0, 4096, 0⟩])
    ∧ (let s := obj oAcornInstallSource 0 (installing none (atTick (10 ^ 12) husk0))
       s.world.installing = true ∧ s.val oAcornInstallSource = 0 ∧ s.dev.acorn.install.manifest = none
       ∧ s.dev.acorn.install.lastData + s.val oAcornInstallTimeout ≤ s.dev.time.tick)
    ∧ odTakes husk0.world (.pf 0) 0x8010 7 1 = true := by
  refine ⟨by decide +kernel, by decide +kernel, by decide +kernel, by decide +kernel, by decide +kernel, by decide +kernel, by decide +kernel,
    by decide +kernel, fun d => rfl, by decide +kernel, by decide +kernel, by decide +kernel, by decide +kernel⟩

/-- A prefetch entry: kind, bytes, source, destination, flag. -/
def pCmd (kind min : Nat) : Nat := fields [(kind, 0), (64, 216), (0x10000000000, 256), (0x14000, 304), (0x18000, 400), (1, 448), (min, 480)]
/-- The run that the tests use, entries before `next` issued, these in flight. -/
def pfRun0 (next : Nat) (es : List (Nat × PfEntry)) : PfRun :=
  ⟨fields [(0x20000, 512), (1, 576), (0x20800, 624)], next, ⟨es⟩, .empty, [], []⟩
/-- Slice 0's prefetch engine. -/
def pfSet (r : Option PfRun) (single : Option PfEntry) (s : State) : State :=
  dev (fun d => { d with prefetch := { d.prefetch with engines := ⟨[(0, ⟨r, single⟩)]⟩ } }) s
/-- Entry 0 of a run of slice 0, at a stage. -/
def pfAt (e : PfEntry) (s : State) : State := pfSet (some (pfRun0 0 [(0, e)])) none s
def pfKind (kind min : Nat) (s : State) : State := pfAt (newEntry (pCmd kind min) 0 0) s
/-- A pool of four objects for husk 0, object 1 in this state. -/
def pool0 (e : PoolEnt) (s : State) : State :=
  pokeN (0x21000 + 32) 32 (leNat (poolBytes e)) (obj (oHuskPoolTableBase 0) 0x21000 (obj (oHuskPoolObjects 0) 4
    (obj (oHuskPoolBase 0) 0x10000000000 (obj (oHuskPoolBytes 0) 0x1000000 (obj (oHuskPoolTurn 0) 7 s)))))
def ent0 : PoolEnt := ⟨0x10000000000, 0, 3, 0x10000, 7, 0, 2⟩
/-- Entry (0, 1) waits in husk 0's pool queue. -/
def poolWaits (s : State) : State := dev (fun d => { d with prefetch := { d.prefetch with poolQueue := ⟨[(0, [(0, 1)])]⟩ } }) s
/-- Is entry 0 unissued-checked, its object in this case of R159 and R160? -/
def poolCase (kind min : Nat) (s0 : State) (Q : World → PfEntry → PoolEnt → Bool) : Bool :=
  let w := (pfKind kind min s0).world
  let e := newEntry (pCmd kind min) 0 0
  w.entry 0 1 == some e && (w.entryFail 0 0 e.cmd).isNone && pKind e.cmd == kind && w.pfHusk 0 == 0 && Q w e (w.poolEnt 0 1) && pObj e.cmd == 1

theorem test_witness_PrefetchEntries :
    ([(1, 0), (2, 1), (3, 0), (6, 0)].all (fun x => (pfKind x.1 x.2 husk0).world.entryFail 0 0 (pCmd x.1 x.2) == none
      && pKind (pCmd x.1 x.2) == x.1)) = true
    ∧ (pfKind 1 0 husk0).world.entry 0 1 = some (newEntry (pCmd 1 0) 0 0)
    ∧ (pfKind 1 1 husk0).world.entryFail 0 0 (pCmd 1 1) = some 3 ∧ (pfKind 3 1 husk0).world.entryFail 0 0 (pCmd 3 1) = some 3
    ∧ (pfKind 4 0 husk0).world.entryFail 0 0 (pCmd 4 0) = some 3 ∧ (pfKind 6 1 husk0).world.entryFail 0 0 (pCmd 6 1) = some 3
    ∧ ([2, 5].all (fun k => ((pfKind k 0 husk0).world.entryFail 0 0 (pCmd k 0 - 64 * 2 ^ 216)) == some 3)) = true
    ∧ ((pfKind 3 0 husk0).world.entry 16 0).isNone = true
    ∧ (pfKind 3 0 husk0).world.earlierPublish 0 1 (newEntry (pCmd 3 0) 0 0) = false
    ∧ (pfSet (some (pfRun0 0 [(0, newEntry (pCmd 3 0) 5 0)])) (some (newEntry (pCmd 3 0) 0 0)) husk0).world.earlierPublish 0 1 (newEntry (pCmd 3 0) 5 0) = true
    ∧ poolCase 4 3 (pool0 ent0 husk0) (fun w e x => !w.pinTooMuch 0 e && x.state == 2 && pMin e.cmd == x.epoch) = true
    ∧ poolCase 5 0 (pool0 { ent0 with pin := 6 } husk0) (fun w e x => !w.pinTooMuch 0 e && x.state == 2 && decide (pMin e.cmd ≤ x.epoch)) = true
    ∧ poolCase 5 0 (pool0 { ent0 with pin := 6, bytes := 0x1010000 } husk0) (fun w e _ => w.pinTooMuch 0 e) = true
    ∧ poolCase 4 3 (pool0 { ent0 with state := 1 } husk0) (fun w e x => !w.pinTooMuch 0 e && x.state == 1) = true
    ∧ poolCase 5 0 (pool0 { ent0 with state := 1 } husk0) (fun w e x => !w.pinTooMuch 0 e && x.state == 1) = true
    ∧ poolCase 4 4 (pool0 ent0 husk0) (fun w e x => !w.pinTooMuch 0 e && x.state == 2 && decide (x.epoch < pMin e.cmd)
        && decide (World.poolSize (pBytes e.cmd) ≤ w.rd (oHuskPoolBytes 0)) && w.dev.prefetch.poolQueue.getD 0 [] == []) = true
    ∧ poolCase 5 0 (pool0 { ent0 with state := 0 } husk0) (fun w e x => !w.pinTooMuch 0 e && x.state == 0 && (w.poolTry 0 1 0).1) = true
    ∧ poolCase 4 1 (poolWaits (pool0 { ent0 with state := 0 } husk0)) (fun w e x => !w.pinTooMuch 0 e && x.state == 0 && (w.dev.prefetch.poolQueue.getD 0 []).length == 1) = true
    ∧ poolCase 4 1 (obj (oHuskPoolBytes 0) 0 (pool0 { ent0 with state := 0 } husk0)) (fun w e x => !w.pinTooMuch 0 e && x.state == 0
        && decide (w.rd (oHuskPoolBytes 0) < World.poolSize (pBytes e.cmd))) = true
    ∧ (let s := pfAt { newEntry (pCmd 2 1) 0 0 with stage := 4 } (atTick 10000000 husk0)
       s.world.entry 0 1 = some { newEntry (pCmd 2 1) 0 0 with stage := 4 } ∧ 0 + s.val oShardPollInterval ≤ s.dev.time.tick)
    ∧ ([1, 2, 3, 4, 5, 6].all (fun k => takes (cmdAt 11 (pCmd k (if k = 2 ∨ k = 4 then 1 else 0)) husk0) (husk0.world.blockRing 0 11)
        (fun x => cmdOp x == k) (fun _ c => rsvd c 512 512))) = true
    ∧ takes (cmdAt 11 (pCmd 1 0 + 2 ^ 1023) husk0) (husk0.world.blockRing 0 11) (fun x => cmdOp x == 1) (fun _ c => !rsvd c 512 512) = true
    ∧ husk0.world.entry 0 0 = none ∧ (husk0.world.entry 16 0).isNone = true
    ∧ (let s := dev (fun d => { d with prefetch := { d.prefetch with engines := ⟨[(16, ⟨none, some (newEntry (pCmd 3 0) 0 0)⟩)]⟩ } }) husk0
       s.world.entry 16 0 = some (newEntry (pCmd 3 0) 0 0) ∧ s.world.earlierPublish 16 0 (newEntry (pCmd 3 0) 0 0) = false) := by
  decide +kernel

def schedCmd (count : Nat) : Nat := fields [(0x10, 0), (0x20000, 512), (count, 576), (0x20800, 624)]

theorem test_witness_SchedulesAndPool :
    husk0.dev.seqs.turnHeld.elem ((husk0.world.ownerOf 0).getD 16) = false ∧ husk0.world.blockRing 0 11 = q0 11
    ∧ ([(1, 0x20000, true, true), (0, 0x20000, false, true), (1048577, 0x20000, false, true), (1, 0x20020, true, false)].all (fun x =>
        takes (cmdAt 11 (fields [(0x10, 0), (x.2.1, 512), (x.1, 576), (0x20800, 624)]) husk0) (q0 11) (fun k => cmdOp k == 0x10)
        (fun w cmd => let c := w.ctx (q0 11)
          x.2.2.1 == (rsvd cmd 8 40 && rsvd cmd 64 448 && rsvd cmd 560 16 && rsvd cmd 608 16 && rsvd cmd 672 352
            && decide (1 ≤ runCount cmd) && decide (runCount cmd ≤ 1048576))
          && (!x.2.2.1 || x.2.2.2 == (runAddr cmd % 64 == 0 && runCursor cmd % 8 == 0 && w.inScratch c.husk c.slice (runCursor cmd) 8 .rd
            && w.inScratch c.husk c.slice (runAddr cmd) (64 * runCount cmd) .rd))))) = true
    ∧ (let s := pokeN 0x20000 64 (pCmd 1 0) (pfSet (some (pfRun0 0 [])) none husk0)
       let x := s.world.readVirt (s.world.pfHusk 0) (World.pfMaster 0) 0x20 0x20000 64
       x.1.2 = true ∧ x.1.1.anyBad = false ∧ pLayer x.1.1.nat - pLead x.1.1.nat ≤ s.world.runCursorNow 0 (pfRun0 0 []).cmd
       ∧ (s.world.pf 0).run = some (pfRun0 0 []) ∧ 0 < runCount (pfRun0 0 []).cmd)
    ∧ (let s := pokeN 0x20000 64 (pCmd 1 0 + 9 * 2 ^ 200 + 8 * 2 ^ 192) (pfSet (some (pfRun0 0 [])) none husk0)
       s.world.runCursorNow 0 (pfRun0 0 []).cmd < pLayer (s.world.num 0x20000 64) - pLead (s.world.num 0x20000 64))
    ∧ (let e : PfEntry := { newEntry (pCmd 1 0) 0 0 with stage := 11 }
       (pfSet none (some e) husk0).world.entry 0 0 = some e ∧ e.stage = 11 ∧ e.cmd ≠ 0)
    ∧ (let e : PfEntry := { newEntry (pCmd 1 0) 0 0 with stage := 11 }
       let s := pfSet (some (pfRun0 1 [(0, e)])) none husk0
       (s.world.pf 0).run = some (pfRun0 1 [(0, e)]) ∧ (pfRun0 1 [(0, e)]).flight.get? 0 = some e ∧ runCount (pfRun0 1 []).cmd = 1
       ∧ ((pfRun0 1 [(0, e)]).flight.del 0).items = [] ∧ ((pfRun0 2 [(0, e), (1, e)]).flight.del 0).items ≠ [])
    ∧ (let s := pfKind 1 0 (atTick 1000000000 husk0)
       s.world.entry 0 1 = some (newEntry (pCmd 1 0) 0 0) ∧ 0 + s.val oPrefetchTimeout ≤ s.dev.time.tick ∧ (newEntry (pCmd 1 0) 0 0).stage ≠ 11)
    ∧ (let s := pfSet none (some (newEntry (pCmd 1 0) 0 0)) husk0
       s.world.entry 0 0 = some (newEntry (pCmd 1 0) 0 0) ∧ s.world.entry 16 0 = none)
    ∧ (let s := dev (fun d => { d with prefetch := { d.prefetch with engines := ⟨[(16, ⟨none, some (newEntry (pCmd 3 0) 0 0)⟩)]⟩ } }) husk0
       s.world.entry 16 0 = some (newEntry (pCmd 3 0) 0 0) ∧ s.world.entry 0 0 = none)
    ∧ (let s := poolWaits (pfKind 4 3 (pool0 ent0 husk0))
       let w0 := s.world.upPf (fun p => { p with poolQueue := p.poolQueue.put 0 [] })
       s.dev.prefetch.poolQueue.getD 0 [] = [(0, 1)] ∧ w0.entry 0 1 = some (newEntry (pCmd 4 3) 0 0) ∧ (w0.poolEnt 0 1).state = 2
       ∧ 3 ≤ (w0.poolEnt 0 1).epoch ∧ w0.pinTooMuch 0 (newEntry (pCmd 4 3) 0 0) = false)
    ∧ (let s := poolWaits (pfKind 4 4 (pool0 { ent0 with state := 0 } husk0))
       let w0 := s.world.upPf (fun p => { p with poolQueue := p.poolQueue.put 0 [] })
       (w0.poolEnt 0 1).state = 0 ∧ (w0.poolTry 0 1 0).1 = true)
    ∧ (let s := poolWaits (pfKind 5 0 (pool0 { ent0 with pin := 6, bytes := 0x1010000 } husk0))
       (s.world.upPf (fun p => { p with poolQueue := p.poolQueue.put 0 [] })).pinTooMuch 0 (newEntry (pCmd 5 0) 0 0) = true)
    ∧ odTakes husk0.world (.pf 0) 0x3040 0xA 1 = true := by decide +kernel

theorem test_witness_Tier3AccessesEnd :
    (let a : T3Access := ⟨0, false, 0x100000000000, 8, 0x8000, 0, 0, 0, [], 0⟩
     let s := dev (fun d => { d with t3 := ⟨[(0, a), (1, { a with write := true, port := 1 })]⟩ }) husk0
     s.dev.t3.get? 0 = some a ∧ a.write = false ∧ a.user = 0 ∧ a.coh = 0 ∧ s.dev.lostLines = []
     ∧ s.dev.t3.get? 1 = some { a with write := true, port := 1 } ∧ s.dev.t3.get? 2 = none) := by
  decide

/-- What a command at the head of queue `q` of slice 0 must pass. -/
def headPasses (q : Fin 16) (cmd : Nat) (s : State) (ok : World → Nat → Bool) : Bool :=
  husk0.world.blockRing 0 q == q0 q && takes (cmdAt q cmd s) (q0 q) (fun x => cmdOp x == cmdOp cmd) ok
/-- An attention command over one length-table entry without positions. -/
def aCmd (op ring : Nat) : Nat :=
  fields [(op, 0), (1, 8), (1, 12), (1, 16), (ring, 29), (1, 32), (1, 40), (0x14000, 128), (1, 176), (0x18000, 256), (0x19000, 320), (0x1A000, 384),
    (0x1B000, 448), (0x1C000, 512), (0x1D000, 576), (0x1E000, 640), (0x1F000, 704), (0x30000, 768), (2, 816), (64, 896), (2, 928)]
def aOk (op ring cinit : Nat) (s : State) : Bool := headPasses 9 (aCmd op ring + cinit * 2 ^ 22) s (fun w1 cmd =>
  let c := w1.ctx (q0 9)
  let x := w1.readVirt c.husk c.master 1 (aLt cmd) (32 * aLtCount cmd)
  let es := x.2.lenTable c cmd
  (w1.attnFieldFail c cmd).isNone && aLt cmd % 32 == 0 && w1.inScratch c.husk c.slice (aLt cmd) (32 * aLtCount cmd) .rd
    && (!aRingSrc cmd || (aRing cmd % 32 == 0 && w1.inScratch c.husk c.slice (aRing cmd) (64 + aRingSlots cmd * aRingStride cmd) .wr
      && decide (2 ≤ aRingSlots cmd ∧ aRingSlots cmd ≤ 64)))
    && x.1.2 && !x.1.1.anyBad && es.all (fun e => e.valid && x.2.attnAddrOk c cmd e && (e.seq == 0xFFFF || !x.2.seqCancelled c.husk e.seq)
      && (x.2.firstPod c.husk e).isNone && es.all (fun e' => e.seq == e'.seq)) && aCinit cmd == cinit
    && (!aBwd cmd || !c.canonical || aDkvInit cmd != 2) && aRingSrc cmd == (ring == 1))
/-- A chain set waits at the attention unit of slice 0. -/
def attnSet (s : State) : State :=
  dev (fun d => { d with engines := d.engines.put ((s.world.ctx (q0 9)).master) ⟨.empty, [⟨0x1001, 1, 1, [0], []⟩]⟩ }) s

theorem test_witness_Attention :
    headPasses 9 0 husk0 (fun _ c => aReserved c) = true ∧ headPasses 9 (2 ^ 1023) husk0 (fun _ c => !aReserved c) = true
    ∧ aOk 1 0 0 husk0 = true ∧ aOk 1 1 0 husk0 = true ∧ aOk 2 0 0 husk0 = true ∧ aOk 2 1 0 husk0 = true ∧ aOk 1 0 3 husk0 = true ∧ aOk 2 1 3 husk0 = true
    ∧ (husk0.world.engine (husk0.world.ctx (q0 9)).master).sets.isEmpty = true
    ∧ aOk 1 0 3 (attnSet husk0) = true ∧ ((attnSet husk0).world.engine (husk0.world.ctx (q0 9)).master).sets.isEmpty = false
    ∧ headPasses 9 (aCmd 1 0 + 4 * 2 ^ 26) husk0 (fun w c => w.attnFieldFail (w.ctx (q0 9)) c == some 3) = true
    ∧ (let s := takenOn 9 (aCmd 1 1) .shard [] (atTick 100000000 husk0)
       (s.world.takenWith (q0 9) .shard).isSome = true ∧ 0 + s.val oComputeFeedTimeout ≤ s.dev.time.tick
       ∧ s.world.flagPresent (s.world.ctx (q0 9)) (World.ringSlot (aCmd 1 1) 0) 0 = some 0
       ∧ (pokeN 0x30044 1 5 s).world.flagPresent (s.world.ctx (q0 9)) (World.ringSlot (aCmd 1 1) 0) 0 = some 5
       ∧ (s.world.attnRun 0).shard + 1 < aShards (aCmd 1 1))
    ∧ (let s := takenOn 9 (aCmd 1 1 + 2 ^ 832) .shard [] (atTick 100000000 husk0)
       (s.world.takenWith (q0 9) .shard).isSome = true ∧ 0 + s.val oComputeFeedTimeout ≤ s.dev.time.tick
       ∧ s.world.flagPresent (s.world.ctx (q0 9)) (World.ringSlot (aCmd 1 1 + 2 ^ 832) 0) (aFlagSeq (aCmd 1 1 + 2 ^ 832)) = none) := by decide +kernel

/-- A SAMPLE of one row of two FP32 logits, and its parameter entry. -/
def sCmd : Nat := fields [(1, 0), (1, 64), (2, 88), (0x14000, 256), (0x15000, 320), (0x16000, 384)]
def sParam : Nat := fields [(0x3F800000, 64), (0x3F800000, 96), (2, 0)]
def sOk (s : State) (good : Bool) : Bool := headPasses 10 sCmd s (fun w1 cmd =>
  let c := w1.ctx (q0 10)
  let x := w1.readVirt c.husk c.master 1 (smParam cmd) 32
  smReserved cmd && w1.logitsOk c (smLogits cmd) 8 && w1.inScratch c.husk c.slice (smParam cmd) 32 .rd
    && w1.inScratch c.husk c.slice (smOut cmd) 16 .wr && x.1.2 && !x.1.1.anyBad && (smParamOf (leNat x.1.1.data)).ok 2 == good)

theorem test_witness_Sampler :
    headPasses 10 0 husk0 (fun _ c => smReserved c) = true ∧ sOk (pokeN 0x15000 32 sParam husk0) true = true ∧ sOk husk0 false = true := by
  decide +kernel

/-- Four pods, a sequence table of four entries for husk 0, and pod 1 in husk 0's list at 0x10000300000. -/
def geo0 : Geo := ⟨3, 1, 0, 1⟩
def pods0 (s : State) : State :=
  pokeN 0x12f00000020 32 (podWord { World.newPod 0 geo0 0 0 1 with commit := 0 }) (pokeN 0x10000300000 8 (listPod 1 1)
    (obj oPodRegionBase 0x10020000000 (obj oPodRegionPods 4 (obj oPodsFree 4 (obj (oHuskSeqTableBase 0) 0x10000100000
      (obj (oHuskSeqSlots 0) 4 s))))))
def dCmd (op list : Nat) : Nat :=
  fields [(op, 0), (1, 20), (3, 32), (1, 40), (1, 144), (1, 160), (list, 208), (0x10000300000, 272), (0x100000000000, 336), (8, 432)]
def dOk (op list : Nat) : Bool :=
  headPasses 14 (if op = 0x43 then setFld (dCmd op list) 272 48 0x14000 else dCmd op list) (pods0 husk0) (fun w1 cmd =>
  let c := w1.ctx (q0 14)
  let n := w1.podNeed c cmd
  !w1.seqCancelled 0 (dSeq cmd) && (w1.podFail c cmd).isNone && w1.podForwardOk c cmd
    && (n == 0 || (decide (w1.rd (oHuskPodsHeld 0) + n ≤ w1.rd (oHuskPodLimit 0)) && w1.podsNow 0 n)))

theorem test_witness_PodCommands :
    ([(0x40, 0x10000200000), (0x41, 0x10000200000), (0x42, 0x10000300000), (0x43, 0x10000300000), (0x44, 0x10000300000), (0x45, 0x10000300000),
      (0x46, 0x10000200000), (0x47, 0x10000200000), (0x48, 0x10000300000)].all (fun x => dOk x.1 x.2)) = true
    ∧ headPasses 14 (dCmd 0x40 0x10000200000) (pods0 husk0) (fun w c => !w.seqCancelled 0 (dSeq c)) = true
    ∧ headPasses 14 (dCmd 0x40 0x10000200000) (pokeN 0x10000100007 1 0x80 (pods0 husk0)) (fun w c => w.seqCancelled 0 (dSeq c)) = true
    ∧ headPasses 14 0x40 (pods0 husk0) (fun w c => w.podFail (w.ctx (q0 14)) c == some 3) = true
    ∧ headPasses 14 (dCmd 0x40 0x10000200000) (obj (oHuskPodLimit 0) 0 (pods0 husk0)) (fun w c =>
        (w.podFail (w.ctx (q0 14)) c).isNone && decide (w.rd (oHuskPodLimit 0) < w.rd (oHuskPodsHeld 0) + 1)) = true
    ∧ ([0, 1].all (fun b => headPasses 14 (dCmd 0x40 0x10000200000 + b * 2 ^ 8) (obj oPodsFree 0 (pods0 husk0)) (fun w c =>
        (w.podFail (w.ctx (q0 14)) c).isNone && !w.podsNow 0 1 && decide (w.rd (oHuskPodsHeld 0) + 1 ≤ w.rd (oHuskPodLimit 0))
          && dWait c == (b == 1) && !w.tiePossible 0 0 (dPrio c) 1 && !w.podsAvailable 0 1 && !(w.podTie 0 0 (dPrio c) 1).1.1
          && !(w.podTie 0 0 (dPrio c) 1).1.2))) = true
    ∧ headPasses 14 (dCmd 0x40 0x10000200000) (dev (fun d => { d with pods := { d.pods with grants := [⟨true, 0, 1, 0, 1⟩] } })
        (obj oPodsFree 0 (pods0 husk0))) (fun w c => (w.podFail (w.ctx (q0 14)) c).isNone && !w.podsNow 0 1
          && decide (w.rd (oHuskPodsHeld 0) + 1 ≤ w.rd (oHuskPodLimit 0)) && w.tiePossible 0 0 (dPrio c) 1) = true := by decide +kernel

/-- Swap 0 of husk 0 out of pod 1 to the first Tier 3 slot, or back. -/
def swap0 (out : Bool) (entry : Nat) (s : State) : State :=
  dev (fun d => { d with pods := { d.pods with swaps := ⟨[(0, ⟨out, 0, 0, 1, 0x10000300000, 0x100000000000, 0, 128, [], [], 0⟩)]⟩ } })
    (poke 0x10000300000 (leBytes 8 entry) (pods0 s))

theorem test_witness_PodsWaitRetireAndSwap :
    (let s := pokeN 0x12f00000040 32 (podWord { World.newPod 0 geo0 0 0 0 with state := podRetiring }) (pods0 husk0)
     2 < s.val oPodRegionPods ∧ (s.world.pod 2).state = podRetiring ∧ (s.world.pod 2).refs = 0 ∧ (s.world.pod 2).readers = 0)
    ∧ (let a : AllocReq := ⟨0, 0, 0, none, false, 0⟩
       let s := dev (fun d => { d with pods := { d.pods with queue := [a, { a with seq := some 1 }] } }) (pods0 husk0)
       s.dev.pods.queue = a :: [{ a with seq := some 1 }] ∧ s.world.podsAvailable 0 (s.world.requestNeed a) = true
       ∧ s.val (oHuskPodsHeld 0) + s.world.requestNeed a ≤ s.val (oHuskPodLimit 0))
    ∧ (let s := dev (fun d => { d with pods := { d.pods with queue := [⟨0, 0, 0, some 1, false, 0⟩] } }) (pods0 husk0)
       s.world.podsAvailable 0 (s.world.requestNeed ⟨0, 0, 0, some 1, false, 0⟩) = true)
    ∧ ([listPod 3 1, 0].all (fun v => let s := swap0 true v husk0
        (match s.dev.pods.swaps.get? 0 with
        | some op =>
          let x := s.world.writeVirt op.husk (seqMaster op.slice) 0x22 op.slot op.data op.bad
          op.out && x.1 && x.2.swapLive op == (v != 0)
        | none => false))) = true
    ∧ (((swap0 false 0 husk0).dev.pods.swaps.get? 0).map (fun op => op.out) = some false ∧ (swap0 true 0 husk0).dev.pods.swaps.get? 1 = none) := by
  decide +kernel

/-- Husk 0 with sequences 1 (PREFILL), 2 (PAUSED), 3 (DONE), all of priority 2, and tenant 0. -/
def seqs0 (s : State) : State :=
  pokeN 0x15f00000000 8 1 (pokeN 0x10000100180 8 (6 * 2 ^ 60) (pokeN 0x10000100100 8 (5 * 2 ^ 60 + 2 * 2 ^ 54)
    (pokeN 0x10000100080 8 (2 * 2 ^ 60 + 2 * 2 ^ 54) (obj (oHuskTenantCount 0) 1 (obj (oHuskPlj6Mode 0) 1 (pods0 s))))))
def qCmd (op seq : Nat) : Nat :=
  fields ([(op, 0), (seq, 64)] ++ (match op with
    | 1 => [(0x10000310000, 832), (0x10000300000, 720), (1, 528), (1, 552), (1, 880), (0x3F800000, 960), (0x3F800000, 992)]
    | 2 => [(1, 80), (0x14000, 336), (0x16000, 400)]
    | 3 => [(0x14000, 336), (0x16000, 400)]
    | _ => []))
def qOk (op seq : Nat) (r : Option Nat) (s : State) : Bool :=
  headPasses 14 (qCmd op seq) s (fun w cmd => w.seqFail (w.ctx (q0 14)) cmd == r)
def planned0 (s : State) : State := dev (fun d => { d with seqs := { d.seqs with plans := [⟨0, 0, 0x14000, []⟩] } }) s
/-- A plan in flight that names sequence 1. -/
def inPlan0 (s : State) : State := dev (fun d => { d with seqs := { d.seqs with plans := [⟨0, 0, 0x14000, [⟨1, 0, 0, 0, 1, 0, 0, true⟩]⟩] } }) s

theorem test_witness_SequenceCommands :
    ([(1, 0), (2, 0), (3, 0), (4, 1), (5, 1), (6, 2), (7, 3), (8, 0)].all (fun x => qOk x.1 x.2 none (planned0 (seqs0 husk0)))) = true
    ∧ qOk 1 1 (some 0x0108) (seqs0 husk0) = true ∧ qOk 3 0 (some 0x0108) (seqs0 husk0) = true
    ∧ ([4, 5, 6, 7].all (fun op => qOk op 0 (some 0x0108) (seqs0 husk0))) = true
    ∧ qOk 8 0 (some 0x0109) husk0 = true ∧ headPasses 14 0x02 (seqs0 husk0) (fun w _ => !w.planHeld 0) = true ∧ qOk 2 0 none (obj (oHuskReplaceState 0) (2 ^ 60) (seqs0 husk0)) = true
    ∧ headPasses 14 2 (seqs0 husk0) (fun w cmd => w.seqFail (w.ctx (q0 14)) cmd == some 3 && !w.planHeld 0) = true
    ∧ headPasses 14 (qCmd 2 0) (obj (oHuskReplaceState 0) (2 ^ 60) (seqs0 husk0)) (fun w _ => w.planHeld 0) = true
    ∧ headPasses 14 (qCmd 3 0) (planned0 (seqs0 husk0)) (fun w cmd => (w.seqFail (w.ctx (q0 14)) cmd).isNone
        && ((w.cancelEffect 0).planAt 0 (sqcA cmd)).isSome) = true
    ∧ headPasses 14 (qCmd 5 1) (seqs0 husk0) (fun w c => (w.seqFail (w.ctx (q0 14)) c).isNone && !w.inPlan 0 1) = true
    ∧ headPasses 14 (qCmd 5 1) (inPlan0 (seqs0 husk0)) (fun w c => (w.seqFail (w.ctx (q0 14)) c).isNone && w.inPlan 0 1) = true := by
  decide +kernel

/-- Sequence 1 QUEUED for husk 0, with or without a token of tenant 0. -/
def queued0 (tokens : Nat) (s : State) : State :=
  pokeN (0x15f00000000 + 36) 4 tokens (pokeN 0x10000100080 8 (2 ^ 60) (seqs0 (atTick 10 s)))

theorem test_witness_SequenceManagement :
    (let s := queued0 1 husk0
     s.world.seqState 0 1 = ssQueued ∧ sqArrival (s.world.seqWord 0 1) + sqHold (s.world.seqWord 0 1) ≤ s.dev.time.tick
     ∧ 1 ≤ (s.world.tenant 0).available ∧ ((queued0 0 husk0).world.tenant 0).available = 0 ∧ (queued0 0 husk0).world.seqState 0 1 = ssQueued
     ∧ sqTenant (s.world.seqWord 0 1) = 0)
    ∧ (let s := obj oTenantWindow 10 (atTick 10 husk0)
       s.val oTenantWindow ≠ 0 ∧ s.dev.seqs.lastBoundary + s.val oTenantWindow ≤ s.dev.time.tick)
    ∧ odTakes husk0.world (.pf 0) 0x2070 1 10 = true
    ∧ (let s := queued0 1 husk0
       odTakes s.world (.pf 0) 0x3060 0x10 1 = true ∧ odTakes s.world (.pf 0) 0x3060 0x10 2 = true ∧ odTakes s.world (.pf 0) 0x3060 0x10 0x80000000 = true
       ∧ rsvd 0x80000000 16 15 = true ∧ s.world.cancelNames 0 1 ≠ [] ∧ s.world.cancelNames 0 0 = [] ∧ s.world.cancelNames 0 0x80000000 ≠ []
       ∧ husk0.world.cancelNames 0 0x80000000 = [])
    ∧ (let s := dev (fun d => { d with seqs := { d.seqs with cancels := ⟨[(0, [(1, 9)])]⟩ } }) (queued0 1 husk0)
       s.dev.seqs.cancels.getD 0 [] = [(1, 9)] ∧ 9 < s.dev.time.tick)
    ∧ (odTakes husk0.world (.pf 0) 0x3060 0x10 0x10000 = true ∧ rsvd 0x10000 16 15 = false)
    ∧ odTakes husk0.world (.pf 0) 0x3060 0x20 1 = true ∧ odTakes husk0.world (.pf 0) 0x3060 0x20 (2 ^ 48) = true ∧ odTakes husk0.world (.pf 0) 0x3060 0x20 0 = true
    ∧ (let s := obj (oHuskReplaceState 0) (2 ^ 60) husk0
       fld (s.val (oHuskReplaceState 0)) 60 4 = 1 ∧ s.val (oHuskSeqStepsInFlight 0) = 0)
    ∧ (let s := obj (oHuskReplaceState 0) (2 ^ 61) (dev (fun d => { d with seqs := { d.seqs with replaceLayers := ⟨[(0, 2)]⟩ } }) husk0)
       odTakes s.world (.pf 0) 0x3060 0x22 1 = true ∧ fld (s.val (oHuskReplaceState 0)) 60 4 = 2 ∧ fld (s.val (oHuskReplaceState 0)) 32 16 < 1
       ∧ 1 ≤ s.dev.seqs.replaceLayers.getD 0 0 ∧ odTakes s.world (.pf 0) 0x3060 0x22 0 = true ∧ odTakes s.world (.pf 0) 0x3060 0x22 3 = true)
    ∧ odTakes husk0.world (.pf 0) 0x3060 0x22 1 = true ∧ fld (husk0.val (oHuskReplaceState 0)) 60 4 ≠ 2
    ∧ odTakes husk0.world (.pf 0) 0x3080 2 0 = true := by decide +kernel

/-- An UPDATE of one ADAMW parameter of one weight. -/
def uCmd (seq : Nat) : Nat := fields [(1, 0), (0x17000, 672), (seq, 640), (0x10000010000, 736), (1, 720), (0x10000020000, 784), (0x10000030000, 832), (0x10000040000, 880)]
def param0 (program : Nat) (s : State) : State :=
  pokeN 0x10000010000 128 (fields [(program, 0), (0x3F800000, 864), (0x3F800000, 832), (1, 816), (1, 552), (1, 528), (0x10000050000, 672), (0x10000060000, 720)]) s

theorem test_witness_UpdateCommands :
    headPasses 13 0 husk0 (fun _ c => uReserved c) = true ∧ headPasses 13 (2 ^ 1023) husk0 (fun _ c => !uReserved c) = true
    ∧ headPasses 13 (uCmd 0) (param0 3 husk0) (fun w c => (w.updateFail (w.ctx (q0 13)) c).isNone && !w.dev.seqs.turnHeld.elem 0) = true
    ∧ headPasses 13 (uCmd 0) (param0 4 husk0) (fun w c => w.updateFail (w.ctx (q0 13)) c == some 0x050A) = true
    ∧ headPasses 13 (uCmd 0) (dev (fun d => { d with seqs := { d.seqs with turnHeld := [0] } }) husk0) (fun w _ => w.dev.seqs.turnHeld.elem 0) = true
    ∧ ([0, 1].all (fun q => let s := takenOn 13 (uCmd q) .grad [0, 0, 0, 0, 0, 0] (atTick 100000000 (param0 3 husk0))
        (s.world.takenWith (q0 13) .grad).isSome && (decide (fld (s.world.vnum 0 0x17000 8) 0 32 = q) == (q == 0))
          && decide (0 + s.val (oHuskUpdateTimeout 0) ≤ s.dev.time.tick))) = true
    ∧ (let s := takenOn 13 (uCmd 0) .event [0, 0, 0, 0, 0, 0] (param0 3 husk0)
       (s.world.upWaits 0 0).isSome = true ∧ s.val (oSliceRunning 0) = 0 ∧ s.world.tier3Port 0 0x10000050000 .wr = none)
    ∧ (let s := takenOn 13 (uCmd 0) .event [0, 0, 0, 0, 0, 0] (param0 3 husk0)
       s.world.tier3Port 0 0x100000000000 .wr = some 0 ∧ s.world.portCarries 0 = false ∧ (obj (oHostCxlActive 0) 1 s).world.portCarries 0 = true) := by
  decide +kernel

def turn (x : TurnSt) (s : State) : State := dev (fun d => { d with turns := ⟨[(0, x)]⟩ }) s
def t0 (stage : Nat) : TurnSt := ⟨stage, 1, 0, [], 0, 0, [], 0, 0, [], [], [], false, .empty, 0, 0, [], [], []⟩
/-- Node 0 with husk 0 alone in the turn's table, and its empty layout and plan. -/
def turn0 (s : State) : State :=
  pokeN 0x10000090000 64 (2 ^ 64) (pokeN 0x100000A0000 64 (2 ^ 64) (obj (oHuskTurnParticipants 0) 0x10000080000
    (obj (oHuskTurnLayoutBase 0) 0x10000090000 (obj (oHuskTurnPlanBase 0) 0x100000A0000 (obj (oHuskTurnConfig 0) (2 ^ 32 + 2 ^ 16) (node0 s))))))

theorem test_witness_TurnCommands :
    odTakes husk0.world (.pf 0) 0x30A0 5 1 = true ∧ stIdleOrTerminal (husk0.val (oTurnStatus 0 0)) = true ∧ husk0.dev.turns.get? 0 = none
    ∧ stIdleOrTerminal ((obj (oTurnStatus 0 0) (2 * 2 ^ 60) husk0).val (oTurnStatus 0 0)) = false
    ∧ (turn (t0 0) husk0).dev.turns.get? 0 = some (t0 0) ∧ (t0 0).early = []
    ∧ (turn (t0 0) husk0).world.turnParts 0 ((turn (t0 0) husk0).val (oHuskTurnConfig 0)) = none
    ∧ (let s := turn0 husk0
       let bad := pokeN 0x100000A0000 64 (2 ^ 64 + 63499111 * 2 ^ 32 + 1) s
       s.world.turnParts 0 (s.val (oHuskTurnConfig 0)) = some ([0], 0)
       ∧ s.world.turnTable 0 (s.val (oHuskTurnLayoutBase 0)) 32 (2 ^ 32 - 1) (some 1) = some (0, [])
       ∧ s.world.turnTable 0 (s.val (oHuskTurnPlanBase 0)) 64 16777214 (some 1) = some (0, [])
       ∧ turnPlanOk 0 [] (ranksEnts 0 []) [] = true ∧ s.val (oHuskTurnIdCurrent 0) = 0
       ∧ bad.world.turnTable 0 0x100000A0000 64 16777214 (some 1) = some (63499111, [0]) ∧ planEntOk 1 1 0 = false
       ∧ (obj (oHuskTurnLayoutBase 0) 0x10000080000 s).world.turnTable 0 0x10000080000 32 (2 ^ 32 - 1) (some 1) = none)
    ∧ (let s := turn (t0 1) (atTick 1000000000 husk0)
       let held := dev (fun d => { d with seqs := { d.seqs with turnHeld := [0] } }) s
       fld (s.val (oHuskTurnConfig 0)) 0 2 ≠ 1 ∧ held.dev.seqs.turnHeld.elem 0 = true
       ∧ held.world.turnDrained 0 (t0 1) = true ∧ (obj (oHuskSeqStepsInFlight 0) 1 s).world.turnDrained 0 (t0 1) = false
       ∧ s.dev.seqs.turnHeld.elem 0 = false
       ∧ 0 + s.val (oHuskTurnDrainTimeout 0) ≤ s.dev.time.tick ∧ 0 + s.val (oHuskTurnBarrierTimeout 0) ≤ s.dev.time.tick
       ∧ 0 + s.val (oHuskTurnCommitTimeout 0) ≤ s.dev.time.tick)
    ∧ husk0.world.pointReached = true ∧ (dev (fun d => { d with power := { d.power with selectDue := true } }) husk0).world.pointReached = false
    ∧ [t0 2, t0 4, t0 5, t0 7].map (fun x => (turn x husk0).dev.turns.get? 0) = [some (t0 2), some (t0 4), some (t0 5), some (t0 7)]
    ∧ husk0.val oFieldNetState ≠ 2
    ∧ odTakes (turn (t0 3) husk0).world (.pf 0) 0x30A0 6 1 = true ∧ odTakes (turn (t0 7) husk0).world (.pf 0) 0x30A0 7 1 = true
    ∧ odTakes (turn (t0 7) husk0).world (.pf 0) 0x30A0 7 2 = true := by decide +kernel

theorem test_witness_HuskCommands :
    (let s := obj (oHuskSlices 1) 4 husk0
     (obj (oHuskState 1) hsDisabling husk0).world.huskState 1 = hsDisabling ∧ odTakes s.world (.pf 0) 0x3100 2 1 = true ∧ s.world.huskState 1 = hsDisabled ∧ s.world.huskConfigOk 1 = true
     ∧ husk0.world.huskConfigOk 1 = false ∧ husk0.world.huskState 0 = hsActive ∧ odTakes husk0.world (.pf 0) 0x3000 2 1 = true
     ∧ odTakes husk0.world (.pf 0) 0x3000 2 2 = true ∧ odTakes husk0.world (.pf 0) 0x3100 2 2 = true)
    ∧ ([hsEnabling, hsResetting].all (fun v => let s := obj (oHuskState 1) v husk0
        odTakes s.world (.pf 0) 0x3100 2 2 && s.world.huskState 1 == v && (s.dev.resets.disableHeld.get? 1).isNone)) = true
    ∧ (let q : OdReq := ⟨0x2043, 0, 0, 1⟩
       odOpen State.reset.world (.pf 0) = true ∧ (match odLookup 0x2043 0 with
         | some row => (State.reset.world.odWriteRefusal (.pf 0) 0x2043 0 row).isNone
         | none => false) = true ∧ [3#8].length = reqLength q ∧ 4096 * q.segment.toNat + 1 ≤ 196608 ∧ (3#8).toNat ≤ 0x10
       ∧ allHusks.all (fun k => State.reset.world.huskState k == hsDisabled) = true) := by decide +kernel

/-- A table of one entry for husk 0 on slice 0: 200 ticks. -/
def slot0 : Nat := fields [(1, 0), (200, 17), (1, 48)]
def cyc (f : CycleSt → CycleSt) (s : State) : State := dev (fun d => { d with cycle := f d.cycle }) s

theorem test_witness_CycleCommands :
    odTakes husk0.world (.pf 0) 0x2080 4 1 = true ∧ odTakes husk0.world (.pf 0) 0x2080 1 0 = true ∧ odTakes husk0.world (.pf 0) 0x2080 1 1 = true
    ∧ husk0.world.tableValid husk0.world.nextTable = false
    ∧ (let s := obj oCycleEntries 1 (dev (fun d => { d with blobs := d.blobs.put 0x208100 (leBytes 8 slot0) }) husk0)
       s.world.nextTable = [slot0] ∧ s.world.tableValid [slot0] = true)
    ∧ (let s := cyc (fun c => { c with table := [slot0], next := some ([slot0], 0) }) (obj oCycleEnable 1 (atTick 200 husk0))
       s.world.tableDue = some [slot0] ∧ s.world.slotEnd ≤ s.dev.time.tick ∧ s.dev.cycle.stopping = false ∧ s.val oCycleEnable ≠ 0
       ∧ s.dev.cycle.armed = false ∧ s.world.nextSlot = some (slot0, 200) ∧ 200 ≤ s.dev.time.tick + ceLead slot0
       ∧ s.dev.cycle.requested ≠ some 200)
    ∧ (let s := cyc (fun c => { c with table := [slot0] }) (obj oCycleStartTick 100000 husk0)
       s.val oCycleEnable = 0 ∧ s.dev.cycle.next = none ∧ s.dev.cycle.table ≠ [] ∧ s.dev.time.tick + 100000 ≤ s.val oCycleStartTick)
    ∧ (let ch : SlotChange := ⟨0, 0, 0, 0, false, false, false, false⟩
       let s := atTick 4000 husk0
       s.world.pipsStopped 0 = true ∧ ch.requestTick + 4000 ≤ s.dev.time.tick
       ∧ (s.world.pipsOf 0).filter (fun p => (s.world.pip p).waiting == 0) = []
       ∧ ((takenOn 8 0 .event [] s).world.ring (q0 8)).taken ≠ [] ∧ ({ ch with saved := true } : SlotChange).incoming < 16
       ∧ s.world.restoreGood 0 0 = true
       ∧ ch.slotStart ≤ s.dev.time.tick ∧ ch.requestTick + 4000 = s.dev.time.tick ∧ ch.requestTick + 4000 < (atTick 4001 husk0).dev.time.tick
       ∧ (cyc (fun c => { c with changes := ⟨[(0, ch)]⟩ }) s).dev.cycle.changes.get? 0 = some ch
       ∧ (let r : SlotChange := { ch with saved := true, restored := true, incoming := 255 }
          let x := cyc (fun c => { c with changes := ⟨[(0, r), (15, { r with incoming := 15 })]⟩ }) s
          x.dev.cycle.changes.get? 0 = some r ∧ 16 ≤ r.incoming ∧ x.dev.cycle.changes.get? 15 = some { r with incoming := 15 }))
    ∧ (let s := cyc (fun c => { c with table := [slot0], armed := true }) (obj oCycleEnable 1 husk0)
       odTakes s.world (.pf 0) 0x2080 1 0 = true ∧ s.val oCycleEnable ≠ 0 ∧ s.dev.cycle.armed = true ∧ s.dev.cycle.lent = .empty)
    ∧ (let x := (cmdAt 0 0 husk0).world.ring (q0 0)
       x.enable = true ∧ x.head ≠ x.tail)
    ∧ (let s := ringAt (.filler 0 0) 0x11000 0x13000 0 (obj (oSliceGuestEnable 0) 1 (obj (oSliceFillerHusk 0) 1 (obj (oHuskGuestSlices 1) 1
         (obj (oHuskState 1) 2 (atTick 1000000 (obj oDomainPowered 0xFFFFFFFF husk0))))))
       let y := s.world.ring (.filler 0 0)
       let x := s.world.ring (q0 0)
       s.val (oSliceFillerHusk 0) = 1 ∧ s.world.running 0 = 0 ∧ s.world.active 1 = true ∧ s.world.active 0 = true
       ∧ s.val (oSliceGuestEnable 0) = 1 ∧ bitAt (s.val (oHuskGuestSlices 1)) 0 = true ∧ s.world.powered 0 = true
       ∧ s.world.ownerOf 0 = some 0 ∧ s.dev.cycle.changes.has 0 = false ∧ s.world.noFill 0 = false ∧ x.head = x.tail ∧ x.taken = []
       ∧ s.dev.cycle.idleSince.getD 0 0 + s.val oFillerIdleTicks ≤ s.dev.time.tick ∧ s.dev.cycle.lent.has 0 = false
       ∧ y.enable = true ∧ y.head ≠ y.tail ∧ y.cqFree = true ∧ y.taken = []) := by decide +kernel

/-- A descriptor of rank 0 of 2 for husk 0, its ring on engine 0. -/
def kCmd (op : Nat) : Nat := fields [(op, 0), (1, 232), (64, 344), (0x14000, 384), (0x15000, 432)]
def kOk (s : State) (op : Nat) (c : Nat) (ok : Bool) : Bool :=
  let s' := pokeN (World.collMem 0) 128 c (ringAt (.coll 0 0) 0 0x4000 0 s)
  s'.world.collTurn 0 0 && takes s' (.coll 0 0) (fun x => cmdOp x == op) (fun w x => World.collFieldsOk x (w.ctx (.coll 0 0)).husk == ok)
    && decide (((allHusks.map (fun k => (s'.world.ring (.coll 0 (Fin.ofNat 16 k))).taken.length)).foldl (· + ·) 0) < 16)

theorem test_witness_CollectiveDescriptors :
    ((List.range 10).all (fun i => kOk (dir0 (node0 husk0)) (i + 1) (kCmd (i + 1)) true)) = true ∧ kOk (dir0 (node0 husk0)) 1 (kCmd 1 + 2 ^ 64) false = true
    ∧ (withRun (run0 (kCmd 8)) husk0).world.collOf 0 0 0 = some (run0 (kCmd 8))
    ∧ (let c := kCmd 8
       kReady c = 0 ∧ (run0 c).ready = false ∧ World.srcBytes (run0 c) ≠ 0 ∧ kReduces c = false ∧ (run0 c).deadline = 0)
    ∧ (kReady (kCmd 1) = 0 ∧ kReduces (kCmd 1) = true ∧ World.srcBytes (run0 (kCmd 1)) ≠ 0)
    ∧ (let c := kCmd 8 + 0x18000 * 2 ^ 720 + 2 ^ 800
       kReady c ≠ 0 ∧ ¬ kReadySeq c ≤ (withRun (run0 c) husk0).world.vnum 0 (kReady c) 8)
    ∧ (let r : CollRun := { run0 (kCmd 1) with deadline := 10 }
       let s := withRun r (atTick 10 husk0)
       s.world.collOf 0 0 0 = some r ∧ r.deadline = s.dev.time.tick ∧ r.own = none ∧ ({ r with ready := true } : CollRun).ready = true)
    ∧ (let c := kCmd 1 + 0x18000 * 2 ^ 720 + 2 ^ 800
       let r : CollRun := { run0 c with deadline := 5 }
       let s := withRun r (atTick 10 husk0)
       r.deadline ≠ 0 ∧ r.deadline < s.dev.time.tick ∧ r.own = none ∧ r.ready = false ∧ ¬ kReadySeq c ≤ s.world.vnum 0 (kReady c) 8
       ∧ (withRun { r with ready := true } s).world.collOf 0 0 0 = some { r with ready := true })
    ∧ (({ run0 (kCmd 1) with folding := true } : CollRun).folding = true)
    ∧ ({ run0 (kCmd 8) with slot := some ([], false) } : CollRun).slot = some ([], false)
    ∧ 0 + husk0.val (oHuskCollTimeout 0) ≤ (atTick (10 ^ 10) husk0).dev.time.tick
    ∧ (let x : Resend := ⟨inMsg 1, 0, 0, 0, true⟩
       let s := dev (fun d => { d with coll := { d.coll with resends := ⟨[(7, x)]⟩ } }) (atTick 1000 husk0)
       s.dev.coll.resends.get? 7 = some x ∧ x.refused = true ∧ x.last + 1000 ≤ s.dev.time.tick
       ∧ s.dev.time.tick < x.first + s.val (oHuskCollTimeout x.msg.srcHusk.toNat)
       ∧ x.first + s.val (oHuskCollTimeout x.msg.srcHusk.toNat) ≤ (atTick (10 ^ 10) s).dev.time.tick) := by decide +kernel

theorem test_witness_DictionaryRequests :
    odOpen State.reset.world (.pf 0) = true ∧ odOpen State.reset.world .fieldNet = true
    ∧ (World.odReadRefusal (.pf 0) 0x1000 6 = none ∧ (odLookup 0x1000 6).isSome = true ∧ ((odLookup 0x1000 6).map (fun r => odIsBlob r.ty)) = some false)
    ∧ (World.odReadRefusal .fieldNet 0x1000 6 = none ∧ (Path.pf 0 ≠ .fieldNet))
    ∧ (let o : NetOrigin := ⟨1, 2⟩
       let q : OdReq := ⟨0x2040, 1, 0, 0⟩
       let x : NetSeen := ⟨o, 1, q, 7, [], 0, ⟨0, 0, []⟩⟩
       let s := dev (fun d => { d with mgmt := { d.mgmt with net := [x] } }) (atTick 99999999 State.reset)
       s.dev.mgmt.net.find? (fun y => y.origin == o && y.kind == 1 && y.req == q && y.value == 7 && y.data == []
         && decide (s.dev.time.tick < y.tick + 100000000)) = some x)
    ∧ odLookup 0x1FFF 0 = none ∧ odTakes State.reset.world (.pf 0) 0x2040 1 7 = true
    ∧ odTakes State.reset.world (.pf 0) 0x2020 1 1 = true ∧ odTakes State.reset.world (.pf 0) 0x2030 1 1 = true
    ∧ odTakes State.reset.world (.pf 0) 0x1010 1 1 = true
    ∧ (bitAt 0 8 = false ∧ fld 0 0 8 = 0 ∧ 3 < fld 4 0 8 ∧ rsvd (1 + 2 ^ 9) 9 23 = false)
    ∧ ((1 : BitVec 8) ≠ 0 ∧ (1 : BitVec 8) ≠ 2 ∧ pldmKnown 2 0x21 = true ∧ pldmKnown 2 0xFF = false ∧ pldmKnown 0 1 = true) := by decide +kernel

theorem leNat_zeros (l : List Nat) : leNat (l.map (fun _ => 0#8)) = 0 := by
  induction l with
  | nil => rfl
  | cons _ t ih =>
    show (0#8).toNat + 256 * leNat (t.map (fun _ => 0#8)) = 0
    rw [ih]; rfl
/-- A state whose memory lists nothing has no tenant. -/
theorem no_tenant (s : State) (h : s.store = State.reset.store) (i : Nat) : s.world.tenant i = tenantOf 0 := by
  obtain ⟨p, st, d⟩ := s
  subst h
  have n (a n : Nat) : World.num (State.world ⟨p, State.reset.store, d⟩) a n = 0 := leNat_zeros (List.range n)
  have r (a n : Nat) : (World.readStored (State.world ⟨p, State.reset.store, d⟩) a n 0).nat = 0 := leNat_zeros (List.range n)
  unfold World.tenant
  simp only [n, r, ite_self]
theorem tokens_hold (s : State) (h : s.store = State.reset.store) (k : s.world.ledgerSums 0x7850
    && same64 (s.world.ledger 0x7850 1) (s.world.ledger 0x7850 3 + s.world.ledger 0x7850 4)
    && same64 (s.world.ledger 0x7850 2) (s.world.ledger 0x7850 5 + s.world.ledger 0x7850 6)) : s.world.ledgerOk 0x7850 = true := by
  show s.world.tokenLedgerOk = true
  simp only [World.tokenLedgerOk, no_tenant s h, Bool.and_eq_true, List.all_eq_true] at k ⊢
  exact ⟨k, fun _ _ => by decide⟩

theorem test_witness_LedgersAndHostLinks_whole : ∀ x ∈ ledgerIndexes, State.reset.world.ledgerOk x = true := by
  intro x hx
  have h : (ledgerIndexes.all (fun x => x == 0x7850 || State.reset.world.ledgerOk x)) = true := by decide +kernel
  rcases (Bool.or_eq_true _ _).mp (List.all_eq_true.mp h x hx) with h | h
  · rw [eq_of_beq h]; exact tokens_hold _ rfl (by decide +kernel)
  · exact h

theorem test_witness_LedgersAndHostLinks_broken : let s := obj (oLedgerLink 0 0) 1 State.reset
    ledgerIndexes.filter (fun y => !s.world.ledgerOk y) = [0x7810] ∧ s.val oLedgerFirstBroken = 0 := by
  refine ⟨?_, by decide +kernel⟩
  have h : (ledgerIndexes.all (fun x => x == 0x7850 || (!(obj (oLedgerLink 0 0) 1 State.reset).world.ledgerOk x) == (x == 0x7810))) = true := by
    decide +kernel
  rw [List.filter_congr (q := fun x => x == 0x7810)]
  · decide +kernel
  · intro x hx
    rcases (Bool.or_eq_true _ _).mp (List.all_eq_true.mp h x hx) with h | h
    · rw [eq_of_beq h, tokens_hold (obj (oLedgerLink 0 0) 1 State.reset) rfl (by decide +kernel)]; rfl
    · exact eq_of_beq h

theorem test_witness_LedgersAndHostLinks :
    odTakes State.reset.world (.pf 0) 0x7800 1 1 = true ∧ State.reset.dev.resets.seqs.get? 16 = none
    ∧ (dev (fun d => { d with snapshot := some 0 }) State.reset).dev.snapshot = some 0
    ∧ odTakes State.reset.world (.pf 0) 0x7800 5 0x7810 = true
    ∧ (let s := dir0 State.reset
       s.dev.resets.perst.getD 0 false = false ∧ s.dev.resets.seqs.has 17 = false ∧ s.world.powered 30 = true ∧ s.val oPowerState = 2
       ∧ World.linkOption 64 16 = true ∧ World.linkOption 2 1 = true ∧ World.linkOption 3 16 = false
       ∧ (obj (oHostCxlActive 0) 1 s).world.portCarries 0 = true) := by decide +kernel

def fw0 (stage : Nat) (s : State) : State := dev (fun d => { d with firmware := { d.firmware with update := some ⟨stage, 0, none, 2, 1, 64, 0⟩ } }) s

theorem test_witness_FirmwareAndTestPorts :
    odTakes State.reset.world (.pf 0) 0x1030 3 1 = true ∧ State.reset.dev.firmware.update = none ∧ State.reset.val oFirmwareSource = 0
    ∧ (let s := obj (oHostCxlActive 0) 1 (obj oFirmwareSource 0x100000000000 State.reset)
       s.val oFirmwareSource ≠ 0 ∧ regionOf (s.val oFirmwareSource) = .tier3 0 ∧ s.world.portCarries 0 = true)
    ∧ (fw0 1 State.reset).dev.firmware.update = some ⟨1, 0, none, 2, 1, 64, 0⟩
    ∧ (fw0 2 State.reset).dev.firmware.update = some ⟨2, 0, none, 2, 1, 64, 0⟩ ∧ (fw0 3 State.reset).dev.firmware.update = some ⟨3, 0, none, 2, 1, 64, 0⟩
    ∧ ((State.reset.dev.blobs.getD 0x103100 []).take imageHeader).length < imageHeader ∧ State.reset.val oFieldNetState ≠ 2
    ∧ odTakes (fw0 2 State.reset).world (.pf 0) 0x1030 4 1 = true ∧ odTakes (obj oFirmwarePendingBank 1 State.reset).world (.pf 0) 0x1030 5 1 = true
    ∧ (let s := obj oFirmwarePendingBank 1 (dev (fun d => { d with firmware := { d.firmware with booting := true } }) State.reset)
       s.val oFirmwarePendingBank ≠ 0xFF ∧ s.dev.firmware.booting = true ∧ s.dev.firmware.update = none ∧ s.val oFirmwareBootFailures < 2
       ∧ (obj oFirmwareBootFailures 2 s).val oFirmwareBootFailures = 2)
    ∧ odTakes State.reset.world .fieldNet 0x1030 0xB 3 = true ∧ State.reset.dev.mgmt.i3cDynamic = none
    ∧ (0x7F#7).toNat ≥ State.reset.world.i3cStatic ∧ (BitVec.ofNat 7 State.reset.world.i3cStatic).toNat = State.reset.world.i3cStatic
    ∧ State.reset.world.inColdReset = false
    ∧ (dev (fun d => { d with resets := { d.resets with seqs := ⟨[(16, ⟨3, 0, 0, 0, 0, 0, 0, false⟩)]⟩ } }) State.reset).world.inColdReset = true := by
  decide +kernel

/-- A valid record of a source. -/
def fault (src : Nat) (conds deadline : Nat) (s : State) : State :=
  dev (fun d => { d with faults := { d.faults with recs := d.faults.recs.put src { (s.world.faultRec src) with
    valid := true, cls := 2, count := 1, seq := 1, conds := conds, deadline := deadline } } }) s
def ladder (key : Nat) (x : LadderStep) (s : State) : State := dev (fun d => { d with faults := { d.faults with steps := ⟨[(key, x)]⟩ } }) s

theorem test_witness_FaultCommands :
    (sourceListed 0x100 = true ∧ State.reset.world.counting 0x100 = false ∧ (State.reset.world.faultRec 0x100).valid = false
      ∧ ((fault 0x100 0 0 State.reset).world.faultRec 0x100).valid = true ∧ ((fault 0x100 1 0 State.reset).world.faultRec 0x100).conds ≠ 0)
    ∧ (let r := (fault 0x100 0 0 State.reset).world.faultRec 0x100
       let f : FaultReport := ⟨0x100, 2, 1, 3, 0, 1, 0x1F, false⟩
       let t := dev (fun d => { d with faults := { d.faults with recs := d.faults.recs.put 0x100 { r with precedence := 7 } } }) State.reset
       ¬ (faultPrecedence f < r.precedence ∨ faultPrecedence f = r.precedence ∧ f.master.toNat < r.master)
       ∧ (t.world.faultRec 0x100).valid = true ∧ (t.world.faultRec 0x100).tick = t.dev.time.tick ∧ faultPrecedence f < (t.world.faultRec 0x100).precedence)
    ∧ (sourceListed 0x1A0 = true ∧ sourceListed 0x000 = true ∧ State.reset.world.counting 0x1A0 = false ∧ State.reset.world.counting 0 = false
       ∧ (State.reset.world.faultRec 0x1A0).valid = false ∧ State.reset.dev.resets.seqs.get? 16 = none ∧ State.reset.val oPowerState = 2)
    ∧ (let s := obj oFaultTestMode 1 State.reset
       s.world.counting 0x100 = true ∧ (s.dev.faults.windows.getD 0x100 []).length + 1 < s.val oFaultCountN)
    ∧ State.reset.val oFieldNetState ≠ 2
    ∧ (let v := 0x100 + 2 ^ 16
       odTakes State.reset.world (.pf 0) 0x7000 3 (BitVec.ofNat 64 v) = true ∧ fld v 0 16 = 0x100 ∧ fld v 16 16 = ((fault 0x100 0 0 State.reset).world.faultRec 0x100).seq
       ∧ ((fault 0x100 0 0 State.reset).world.faultRec 0x100).acked = false)
    ∧ (let s := fault 0x1B0 0 5 (atTick 5 State.reset)
       (s.world.faultRec (huskSource 0)).deadline ≠ 0 ∧ (s.world.faultRec (huskSource 0)).deadline ≤ s.dev.time.tick)
    ∧ recoverable 0xA001 = true ∧ unitSlice 0xA001 = none ∧ recoverable 0 = false ∧ State.reset.world.hangHusk 0xA001 = 0xFF
    ∧ (unitSlice 0x4000).isSome = true ∧ husk0.world.hangHusk 0x4000 = 0
    ∧ (let k := 2 * 65536 + reinitSource 0xA001
       (ladder k ⟨2, reinitSource 0xA001, 0, 0, none, false⟩ State.reset).dev.faults.steps.get? k = some ⟨2, reinitSource 0xA001, 0, 0, none, false⟩)
    ∧ odTakes State.reset.world (.pf 0) 0x7002 1 0xA001 = true ∧ odTakes State.reset.world (.pf 0) 0x7002 1 0 = true
    ∧ (let src := reinitSource 0xA001
       let s := ladder (2 * 65536 + src) ⟨2, src, 0, 10, none, false⟩ (atTick 11 State.reset)
       (s.dev.faults.steps.vals.find? (fun x => x.quiet.isNone && !x.failed && s.world.stepCovers x src && x.bound != 0
          && decide (x.start + x.bound < s.dev.time.tick))).isSome = true)
    ∧ (odTakes State.reset.world .fieldNet 0x7006 1 0x10100 = true ∧ State.reset.val oFaultTestMode ≠ 1
      ∧ (obj oFaultTestMode 1 State.reset).val oFaultTestMode = 1 ∧ fld 0x10100 16 4 = 1 ∧ rsvd 0x10100 20 12 = true ∧ fld 0x10100 0 16 = 0x100
      ∧ odTakes (obj oFaultTestMode 1 State.reset).world .fieldNet 0x7006 1 0x10100 = true)
    ∧ odTakes State.reset.world (.pf 0) 0x7002 3 1 = true := by decide +kernel

theorem test_witness_CommandsThatStoreNothing : after .rootStep State.reset (fun _ => true) = true
    ∧ after (.queueDisable (.pf 0) (q0 14) 0) (cmdAt 14 0 husk0) (fun _ => true) = true := by decide +kernel

/-! ### Further clauses of those statements -/

theorem test_witness_ThermalTripPowersDown_hold :
    let s := pwr (fun p => { p with trip := some 0, releaseHeld := true }) (obj (oRailState 0) 0 (obj oPowerState 0 (atTick 6000000000 State.reset)))
    odTakes State.reset.world .mctp 0x2091 1 2 = true ∧ s.val (oRailState 0) = 0 ∧ s.val oPowerOnAuto = 1 ∧ s.dev.resets.resetN = false
      ∧ s.dev.resets.power.dir = 0 ∧ s.val oPowerState = 0 ∧ 0 + s.val oThermalTripHold * 100000 ≤ s.dev.time.tick
      ∧ ¬ (0 + s.val oThermalTripHold * 100000 ≤ (atTick 0 s).dev.time.tick)
      ∧ (dev (fun d => { d with resets := { d.resets with resetN := true } }) s).dev.resets.resetN = true := by decide +kernel

theorem test_witness_ResetsBeginTheirSequence_refused :
    odTakes State.reset.world .mctp 0x2090 1 0 = true ∧ (4 : Word) &&& 0xFFFFFFFFFFFFFF0C ≠ 0 ∧ odTakes State.reset.world .mctp 0x2090 1 4 = true
    ∧ odTakes State.reset.world .mctp 0x2090 1 0xF1 = true ∧ (0xF1 : Word) &&& 0xFFFFFFFFFFFFFF0F = 1
    ∧ State.reset.world.huskState (fld (0xF1 : Word).toNat 4 4) = hsDisabled
    ∧ (let s := (List.range 15).foldl (fun s r => obj (oRailState r) (if r = 0 then 2 else 0) s) (obj oPowerState 0 State.reset)
       (∀ r : Fin 15, r.val ≠ 0 → s.val (oRailState r.val) = 0) ∧ odTakes s.world .mctp 0x2091 1 1 = true ∧ odTakes s.world .mctp 0x2091 1 2 = true
       ∧ s.dev.resets.power.trip = none ∧ s.dev.resets.power.dir = 0 ∧ s.val oPowerState = 0) := by decide +kernel

theorem test_witness_WatchdogAndDomains_refused :
    (let v : Word := 0xFFFFFFFE
     odTakes husk0.world (.pf 0) 0x209A 1 v = true ∧ bitAt (husk0.val oDomainPowerMask) 0 = true ∧ bitAt v.toNat 0 = false
       ∧ husk0.world.ownerOf 0 ≠ none)
    ∧ (let v : Word := 0xFFFEFFFF
       let s := obj (oAcornRefreshStatus 0) (2 * 2 ^ 60) State.reset
       odTakes s.world (.pf 0) 0x209A 1 v = true ∧ bitAt (s.val oDomainPowerMask) 16 = true ∧ bitAt v.toNat 16 = false
       ∧ stIdleOrTerminal (s.val (oAcornRefreshStatus 0)) = false
       ∧ ∀ d : Fin 16, ¬ (bitAt (s.val oDomainPowerMask) d.val = true ∧ bitAt v.toNat d.val = false ∧ s.world.ownerOf d.val ≠ none)) := by
  decide +kernel

theorem test_witness_QueueRegistersObeyTheirChecks_tail :
    (let x := (cmdAt 0 0 husk0).world.ring (q0 0)
     (cmdAt 0 0 husk0).world.huskState 0 ≠ hsResetting ∧ x.enable = true ∧ x.head < x.size ∧ x.tail < x.size ∧ 2 ^ x.log2size ≤ 16)
    ∧ (obj (oHuskState 0) hsResetting husk0).world.huskState 0 = hsResetting
    ∧ (obj (oHuskState 0) hsDisabling husk0).world.huskState 0 = hsDisabling ∧ (husk0.world.ring (q0 0)).enable = false
    ∧ (cmdAt 0 0 husk0).world.tailRefusal (.vf 0 0) (q0 0) 15 = none := by decide +kernel

theorem test_witness_LedgersAndHostLinks_notTaken : odTakes (seqAt 16 2 State.reset).world (.pf 0) 0x7800 1 1 = true
    ∧ ((seqAt 16 2 State.reset).dev.resets.seqs.get? 16).map (fun x => x.start) = some State.reset.dev.time.tick := by decide +kernel
end Sys2Proof.Tests
end

section
/-! PROOFS. The statements of the module's organisation (O2, O4, O6, O7, O21), after the laws that they rest on. -/

/-! ### The write log and the memory it makes: reading back -/
namespace Sys2Proof.Machine

/-- A zeroed range reads as unlisted, and every other byte reads as before. -/
theorem Memory.get_zero (m : Memory) (lo len b : Nat) :
    (m.zero lo len).get b = if lo ≤ b ∧ b < lo + len then unlistedByte else m.get b := by
  induction m with
  | nil => simp [Memory.zero, Memory.get]
  | cons c t ih =>
    obtain ⟨a, v⟩ := c
    simp only [Memory.zero] at ih
    by_cases hin : lo ≤ a ∧ a < lo + len
    · rw [Memory.zero, List.filter_cons_of_neg (by simp [hin]), ih]
      by_cases hab : a = b
      · subst hab
        rw [if_pos hin, if_pos hin]
      · simp only [Memory.get, if_neg hab]
    · rw [Memory.zero, List.filter_cons_of_pos (by simp only [← Bool.decide_and, hin, decide_false, Bool.not_false])]
      by_cases hab : a = b
      · subst hab
        simp only [Memory.get, if_true, if_neg hin]
      · simp only [Memory.get, if_neg hab, ih]

theorem mem_setInsert {x k : Nat} {l : List Nat} : x ∈ setInsert k l ↔ x = k ∨ x ∈ l := by
  induction l with
  | nil => simp [setInsert]
  | cons j t ih =>
    simp only [setInsert]
    split
    · simp
    · split
      · rename_i hk
        simp [hk]
      · rw [List.mem_cons, ih, List.mem_cons]
        exact or_left_comm

theorem mem_setErase {x k : Nat} {l : List Nat} : x ∈ setErase k l ↔ x ∈ l ∧ x ≠ k := by
  simp [setErase]

/-- Entries kept by their keys are found as before, the others no more. -/
theorem AMap.find_filter_keys {α : Type} (keep : Nat → Bool) (k : Nat) (l : List (Nat × α)) :
    AMap.find k (l.filter (fun p => keep p.1)) = if keep k then AMap.find k l else none := by
  induction l with
  | nil => simp [AMap.find]
  | cons p t ih =>
    obtain ⟨j, a⟩ := p
    by_cases hjk : j = k
    · subst hjk
      by_cases hj : keep j = true
      · rw [List.filter_cons_of_pos (by exact hj), if_pos hj]
        simp [AMap.find]
      · rw [List.filter_cons_of_neg (by exact hj), ih]
        simp [hj]
    · by_cases hj : keep j = true
      · rw [List.filter_cons_of_pos (by exact hj)]
        simp only [AMap.find, if_neg hjk, ih]
      · rw [List.filter_cons_of_neg (by exact hj), ih]
        simp only [AMap.find, if_neg hjk]

theorem AMap.getD_put {α : Type} (m : AMap α) (j k : Nat) (a d : α) :
    (m.put k a).getD j d = if k = j then a else m.getD j d := by
  by_cases h : k = j
  · subst h
    simp
  · rw [if_neg h, AMap.getD_put_other m (Ne.symm h)]

theorem AMap.getD_del {α : Type} (m : AMap α) (j k : Nat) (d : α) :
    (m.del k).getD j d = if k = j then d else m.getD j d := by
  simp only [AMap.getD, AMap.get?, AMap.del, AMap.find_filter_keys (fun i => !(i == k))]
  by_cases h : k = j
  · simp [h]
  · simp [h, Ne.symm h]

theorem AMap.getD_delIf_keys {α : Type} (m : AMap α) (gone : Nat → Bool) (j : Nat) (d : α) :
    (m.delIf (fun i _ => gone i)).getD j d = if gone j then d else m.getD j d := by
  simp only [AMap.getD, AMap.get?, AMap.delIf, AMap.find_filter_keys (fun i => !(gone i))]
  by_cases h : gone j = true <;> simp [h]

theorem Store.flush_cons (s : Store) (op : MemOp) (log : List MemOp) : s.flush (op :: log) = (s.flush log).apply op := rfl

/-- The byte that a log shows is the byte after the log is flushed. -/
theorem logByte_eq_flush {st : Store} (w : st.wf) (log : List MemOp) (a : Nat) :
    logByte st a log = (st.flush log).mem.get a := by
  induction log with
  | nil => rfl
  | cons op log ih =>
    rw [Store.flush_cons]
    cases op with
    | bytes b d =>
      have hm : (st.flush log).mem.wf = true := (Store.flush_wf log w).1
      simp only [logByte, ih, Store.apply, Memory.get_setBytes d b hm]
    | zero lo len => simp only [logByte, ih, Store.apply, Memory.get_zero]
    | mark g on => simp only [logByte, ih, Store.apply]
    | tag l k => simp only [logByte, ih, Store.apply]

/-- The poison that a log shows is the poison after the log is flushed. -/
theorem logPoison_eq_flush (st : Store) (log : List MemOp) (g : Nat) :
    logPoison st g log = (st.flush log).poison.elem g := by
  induction log with
  | nil => rfl
  | cons op log ih =>
    rw [Store.flush_cons]
    cases op with
    | bytes b d => simp only [logPoison, ih, Store.apply]
    | zero lo len =>
      simp only [logPoison, ih, Store.apply, List.elem_eq_mem, List.mem_filter]
      by_cases h : lo ≤ g * 32 ∧ g * 32 + 32 ≤ lo + len
      · simp [h]
      · simp only [← Bool.decide_and, h, decide_false, Bool.not_false, and_true, if_false]
    | mark h on =>
      simp only [logPoison, ih, Store.apply, List.elem_eq_mem]
      cases on with
      | false =>
        by_cases hg : h = g
        · simp [hg, mem_setErase]
        · simp [hg, mem_setErase, Ne.symm hg]
      | true =>
        by_cases hg : h = g
        · simp [hg, mem_setInsert]
        · simp [hg, mem_setInsert, Ne.symm hg]
    | tag l k => simp only [logPoison, ih, Store.apply]

/-- The key tag that a log shows is the tag after the log is flushed. -/
theorem logTag_eq_flush (st : Store) (log : List MemOp) (l : Nat) :
    logTag st l log = (st.flush log).tags.getD l 0 := by
  induction log with
  | nil => rfl
  | cons op log ih =>
    rw [Store.flush_cons]
    cases op with
    | bytes b d => simp only [logTag, ih, Store.apply]
    | zero lo len =>
      simp only [logTag, ih, Store.apply,
        AMap.getD_delIf_keys _ (fun l => decide (lo ≤ l * 64) && decide (l * 64 + 64 ≤ lo + len)),
        Bool.and_eq_true, decide_eq_true_eq]
    | mark g on => simp only [logTag, ih, Store.apply]
    | tag m k =>
      simp only [logTag, ih, Store.apply]
      by_cases hk : k = 0
      · rw [if_pos hk, AMap.getD_del, hk]
      · rw [if_neg hk, AMap.getD_put]

/-- Settles O6: the byte law is that of `setBytes`; the three log laws go by induction on the log, entry by entry. -/
theorem storedBytesReadBack : Obligations.StoredBytesReadBack := by
  intro st w
  refine ⟨fun a d b => Memory.get_setBytes d a w.1 b, fun log => ⟨?_, ?_, ?_⟩⟩
  · exact logByte_eq_flush w log
  · exact logPoison_eq_flush st log
  · exact logTag_eq_flush st log

end Sys2Proof.Machine

/-! ### Every step is an effect on a world -/
namespace Sys2Proof.Machine

/-- Every command of the table is one effect on the world, flushed once: no arm stops, and none sets the stores by itself. -/
theorem exec_eq_done (c : Instr) (s : State) : ∃ f, exec c s = s.done f := by
  cases c <;> exact ⟨_, rfl⟩

/-- What a step answers is the flush of one write log over the stores it found. -/
theorem step_store_eq_flush {s t : State} (h : step s = .next t) : ∃ log, t.store = s.store.flush log := by
  cases hp : s.pending with
  | nil =>
    simp only [step, hp, Host.Outcome.next.injEq] at h
    exact ⟨s.world.tick.log, h ▸ rfl⟩
  | cons c rest =>
    obtain ⟨f, hf⟩ := exec_eq_done c { s with pending := rest }
    simp only [step, hp, hf, State.done_eq, Host.Outcome.next.injEq] at h
    exact ⟨(f { s with pending := rest }.world).log, h ▸ rfl⟩

/-- Settles O4: a step changes the stores by a write log alone, and every entry of a log keeps the canonical form. -/
theorem everyStepKeepsMemoryCanonical : Obligations.EveryStepKeepsMemoryCanonical := by
  intro s t w h
  obtain ⟨log, ht⟩ := step_store_eq_flush h
  rw [ht]
  exact Store.flush_wf log w

/-- With rail 0 off a tick boundary changes nothing. -/
theorem World.tick_of_railOff {w : World} (h : w.railState 0 = 0) : w.tick = w := if_pos h

/-- While nothing is slewed, the timestamp counts by one. -/
theorem World.countTick_now_of_notSlewed {w : World} (h : w.dev.time.slew = 0) :
    w.countTick.now = (w.now + 1) % 2 ^ 64 := by
  simp [World.countTick, World.now, h]

/-- Settles O2: with an empty queue the step is `World.tick`, whose two branches are the statement's two cases. -/
theorem idleStepIsATick : Obligations.IdleStepIsATick := by
  refine ⟨fun s hp => ⟨idleTick s, ?_, hp, fun hoff => ?_, fun hon => ?_⟩, fun w h => World.countTick_now_of_notSlewed h⟩
  · simp only [step, hp]
  · have hw : s.world.tick = s.world := World.tick_of_railOff hoff
    simp only [idleTick, State.run, hw]
    rfl
  · exact congrArg s.commit (if_neg hon)

end Sys2Proof.Machine

/-! ### A dictionary write that is carried out, seen from the state after it -/
namespace Sys2Proof.Machine

@[simp] theorem World.rd_selectSoon (w : World) (k : OKey) : w.selectSoon.rd k = w.rd k := rfl

/-- Another object than the signed one written reads as before. -/
theorem World.rd_wrInt_other (w : World) {j k : OKey} (h : j.key ≠ k.key) (v : Int) : (w.wrInt k v).rd j = w.rd j := by
  simp [World.rd, AMap.get?_put_other _ h]

/-- What is stored of a 64-bit value reads as the value. -/
theorem World.rd_wr_word (w : World) (k : OKey) (v : Word) : (w.wr k v.toNat).rd k = v.toNat := by
  rw [World.rd_wr_same, Nat.mod_eq_of_lt v.isLt]

/-- A state reads an object from its device. -/
theorem val_of_dev {t : State} {w : World} (h : t.dev = w.dev) (k : OKey) : t.val k = w.rd k :=
  World.rd_congr (by rw [State.world_dev, h]) k

/-- A command whose effect makes the world `w1` without a memory write completes in a state with that device and the same memory. -/
theorem completes_of_effect {c : Instr} {s : State} {f : World → World} {w1 : World} (hc : exec c s = s.done f)
    (hf : f s.world = w1) (hlog : w1.log = []) {Q : State → Prop} (q : ∀ t, t.dev = w1.dev → SameMemory s t → Q t) :
    Completes c s Q :=
  completes_of_done hc (q _ (by rw [State.run_dev, hf]) (same_memory_of_log (by rw [hf, hlog])))

/-- The end of a request touches windows and replies alone. -/
theorem World.odFinish_dev (w : World) (p : Path) (reason : Nat) (d : Word) (b : List Byte) (r : Bool) :
    ∃ ws rs, (w.odFinish p reason d b r).dev = { w.dev with windows := ws, replies := rs } := by
  cases p with
  | fieldNet =>
    simp only [World.odFinish]
    split <;> exact ⟨_, _, rfl⟩
  | mctp => exact ⟨_, _, rfl⟩
  | pf _ => exact ⟨_, _, rfl⟩
  | vf _ _ => exact ⟨_, _, rfl⟩

/-- A path that is answered at all reads the reason with which its request ended (R414, R433, R436). -/
theorem reply_of_odFinish {t : State} {w : World} {p : Path} {reason : Nat} {d : Word} {b : List Byte} {r : Bool}
    (ht : t.dev = (w.odFinish p reason d b r).dev) (hn : p = .fieldNet → w.rd oFieldNetState ≠ 2) :
    t.reply p = BitVec.ofNat 16 reason := by
  cases p with
  | fieldNet => simp [State.reply, ht, World.odFinish, hn rfl]
  | mctp => simp [State.reply, ht, World.odFinish]
  | pf _ => simp [State.reply, World.window, ht, World.odFinish]
  | vf _ _ => simp [State.reply, World.window, ht, World.odFinish]

/-- A module that takes a write over the field network also transmits there. -/
theorem fieldNet_answers_of_odTakes {w : World} {p : Path} {index sub : Nat} {v : Word} (h : odTakes w p index sub v = true) :
    p = .fieldNet → w.rd oFieldNetState ≠ 2 := by
  rintro rfl
  simp only [odTakes, odOpen, Bool.and_eq_true, bne_iff_ne] at h
  exact h.1.2

/-- Is the written value also saved: its effect succeeded, and the object is an RWS one (R408)? -/
def writeSaves (index sub reason : Nat) : Bool := decide (reason = 0) && odSaved index sub

/-- The state `t` after a write from `s` over path `p` whose effect answered `reason` and made the world `w1`. -/
structure WriteEnded (s t : State) (p : Path) (index sub : Nat) (v : Word) (reason : Nat) (w1 : World) : Prop where
  reply : t.reply p = BitVec.ofNat 16 reason
  memory : SameMemory s t
  time : t.dev.time = w1.dev.time
  power : t.dev.power = w1.dev.power
  val : ∀ k : OKey, k.key ≠ oNvConfigWrites.key → t.val k = w1.rd k
  saved : writeSaves index sub reason = true → t.dev.saved.get? (index * 256 + sub) = some v
  od : writeSaves index sub reason = false → t.dev.od = w1.dev.od

/-- A write whose only changed object is `k0` leaves every other object but the count of saves. -/
theorem WriteEnded.objects {s t : State} {p : Path} {index sub : Nat} {v : Word} {reason : Nat} {w1 : World}
    (h : WriteEnded s t p index sub v reason w1) {k0 : OKey} (hw : ∀ k : OKey, k.key ≠ k0.key → w1.rd k = s.val k) :
    SameObjectsBut [k0, oNvConfigWrites] s t := by
  intro k hk
  simp only [List.map_cons, List.map_nil, List.mem_cons, List.not_mem_nil, or_false, not_or] at hk
  rw [h.val k hk.2, hw k hk.1]

/-- A run that ends a request on a world `w2`, which differs from `w1` at most by a save, is a write that has ended. -/
theorem writeEnded_of_odFinish {s : State} {f : World → World} {p : Path} {index sub : Nat} {v : Word} {reason : Nat} {w1 w2 : World}
    (hf : f s.world = w2.odFinish p reason 0 [] false) (hlog : w2.log = [])
    (hn : p = .fieldNet → w2.rd oFieldNetState ≠ 2)
    (htime : w2.dev.time = w1.dev.time) (hpower : w2.dev.power = w1.dev.power)
    (hval : ∀ k : OKey, k.key ≠ oNvConfigWrites.key → w2.rd k = w1.rd k)
    (hsaved : writeSaves index sub reason = true → w2.dev.saved.get? (index * 256 + sub) = some v)
    (hod : writeSaves index sub reason = false → w2.dev.od = w1.dev.od) :
    WriteEnded s (s.run f) p index sub v reason w1 := by
  obtain ⟨ws, rs, hdev⟩ := w2.odFinish_dev p reason 0 [] false
  have hrun : (s.run f).dev = { w2.dev with windows := ws, replies := rs } := by rw [State.run_dev, hf, hdev]
  exact
    { reply := reply_of_odFinish (by rw [State.run_dev, hf]) hn
      memory := same_memory_of_log (by rw [hf, World.odFinish_log, hlog])
      time := by rw [hrun, ← htime]
      power := by rw [hrun, ← hpower]
      val := fun k hk => (World.rd_congr (by rw [State.world_dev, hrun]) k).trans (hval k hk)
      saved := fun h => by rw [hrun]; exact hsaved h
      od := fun h => by rw [hrun]; exact hod h }

/-- A write that is carried out ends with its effect's reason and leaves what its effect made; only a save comes on top. The effect does
not look at the windows. -/
theorem odCommand_ends {s : State} {p : Path} {index sub : Nat} {v : Word} {effect : World → Nat → Nat × World} {reason : Nat} {w1 : World}
    (ht : odTakes s.world p index sub v = true)
    (he : ∀ ws, effect (withWindows s.world ws) v.toNat = (reason, withWindows w1 ws))
    (hr : reason ≠ World.odPending) (hlog : w1.log = []) (hn : w1.rd oFieldNetState = s.world.rd oFieldNetState) :
    WriteEnded s (s.run (fun w => w.odCommand p index sub v true effect)) p index sub v reason w1 := by
  obtain ⟨ws, hrun⟩ := odCommand_takes ht effect
  have answers : p = .fieldNet → w1.rd oFieldNetState ≠ 2 := hn ▸ fieldNet_answers_of_odTakes ht
  simp only [he, if_neg hr] at hrun
  by_cases hs : writeSaves index sub reason = true
  · obtain ⟨h0, -⟩ : reason = 0 ∧ odSaved index sub = true := by simpa [writeSaves] using hs
    rw [if_pos (by exact hs), ← h0] at hrun
    have hval : ∀ k : OKey, k.key ≠ oNvConfigWrites.key →
        ((withWindows w1 ws).odSave (index * 256 + sub) v true).2.rd k = w1.rd k :=
      fun k hk => World.rd_wr_other _ hk _
    exact writeEnded_of_odFinish hrun hlog (fun hp => by rw [hval _ (by decide)]; exact answers hp) rfl rfl hval
      (fun _ => AMap.get?_put_same _ _ _) (fun h => absurd hs (by simp [h]))
  · rw [if_neg (by exact hs)] at hrun
    exact writeEnded_of_odFinish hrun hlog answers rfl rfl (fun _ _ => rfl) (fun h => absurd h hs) (fun _ => rfl)

end Sys2Proof.Machine

/-! ### The root clock's and power management's writes, and a root step -/
namespace Sys2Proof.Machine

/-- Clearing a field never makes a number larger. -/
theorem setFld_zero_le (x lo n : Nat) : setFld x lo n 0 ≤ x := by
  have high : x / 2 ^ (lo + n) * 2 ^ (lo + n) + x % 2 ^ (lo + n) = x := Nat.div_add_mod' x _
  have low : x % 2 ^ lo ≤ x % 2 ^ (lo + n) := by
    rw [← Nat.mod_mod_of_dvd x (Nat.pow_dvd_pow 2 (Nat.le_add_right lo n))]
    exact Nat.mod_le _ _
  simp only [setFld, Nat.zero_mod, Nat.shiftRight_eq_div_pow, Nat.shiftLeft_eq]
  omega

theorem opPointKept_le (x : Nat) : opPointKept x ≤ x :=
  Nat.le_trans (setFld_zero_le _ _ _) (Nat.le_trans (setFld_zero_le _ _ _) (setFld_zero_le _ _ _))

theorem clockNominalRootWrite_completes (s : State) (p : Path) (v : Word) (ht : odTakes s.world p 0x2000 1 v = true) :
    Completes (.clockNominalRootWrite p v) s (fun t => t.reply p = 0 ∧ t.val oClockNominalRoot = v.toNat
      ∧ t.dev.time = { s.dev.time with rootPending := some s.dev.time.tick } ∧ t.dev.saved.get? oClockNominalRoot.key = some v
      ∧ SameMemory s t ∧ SameObjectsBut [oClockNominalRoot, oNvConfigWrites] s t) := by
  have ended := odCommand_ends (effect := World.nominalWrite) (reason := 0)
    (w1 := (s.world.wr oClockNominalRoot v.toNat).upTime (fun x => { x with rootPending := some s.world.now }))
    ht (fun _ => rfl) (by decide) rfl (World.rd_wr_other _ (by decide) _)
  refine completes_of_done rfl ⟨ended.reply, ?_, ended.time, ended.saved (by decide +kernel), ended.memory, ended.objects ?_⟩
  · rw [ended.val _ (by decide), World.rd_upTime, World.rd_wr_word]
  · exact fun k hk => World.rd_wr_other _ hk _

theorem huskOpPointWrite_completes (s : State) (p : Path) (h : Fin 16) (j : Fin 64) (v : Word)
    (ht : odTakes s.world p (0x30C0 + h.val * 256) (1 + j.val) v = true) :
    Completes (.huskOpPointWrite p h j v) s (fun t =>
      (opPointOk v.toNat = true → t.reply p = 0 ∧ t.val (oHuskOpPoint h.val j.val) = opPointKept v.toNat ∧ t.dev.power.selectDue = true)
      ∧ (opPointOk v.toNat = false → t.reply p = 0x000D ∧ t.dev.od = s.dev.od)
      ∧ SameMemory s t ∧ SameObjectsBut [oHuskOpPoint h.val j.val, oNvConfigWrites] s t) := by
  cases hok : opPointOk v.toNat with
  | true =>
    have hnet : oFieldNetState.key ≠ (oHuskOpPoint h.val j.val).key := by
      simp only [oFieldNetState, oHuskOpPoint]
      omega
    have hnv : (oHuskOpPoint h.val j.val).key ≠ oNvConfigWrites.key := by
      simp only [oNvConfigWrites, oHuskOpPoint]
      omega
    have ended := odCommand_ends (effect := fun w n => w.opPointWrite h.val j.val n) (reason := 0)
      (w1 := (s.world.wr (oHuskOpPoint h.val j.val) (opPointKept v.toNat)).selectSoon)
      ht (fun _ => if_pos hok) (by decide) rfl (World.rd_wr_other _ hnet _)
    refine completes_of_done rfl ⟨fun _ => ⟨ended.reply, ?_, ?_⟩, nofun, ended.memory, ended.objects ?_⟩
    · rw [ended.val _ hnv, World.rd_selectSoon, World.rd_wr_same, Nat.mod_eq_of_lt (Nat.lt_of_le_of_lt (opPointKept_le _) v.isLt)]
    · rw [ended.power]
      rfl
    · exact fun k hk => World.rd_wr_other _ hk _
  | false =>
    have ended := odCommand_ends (effect := fun w n => w.opPointWrite h.val j.val n) (reason := 0x000D) (w1 := s.world)
      ht (fun _ => if_neg (by simp [hok])) (by decide) rfl rfl
    exact completes_of_done rfl ⟨nofun, fun _ => ⟨ended.reply, ended.od rfl⟩, ended.memory, ended.objects fun _ _ => rfl⟩

theorem huskPhaseSet_completes (s : State) (p : Path) (h : Fin 16) (v : Word)
    (ht : odTakes s.world p (0x30C1 + h.val * 256) 3 v = true)
    (h2 : v.toNat ≠ 2) (h7 : v.toNat ≤ 7) (hturn : s.world.turnStands h.val = false) :
    Completes (.huskPhaseSet p h v) s (fun t => t.reply p = 0 ∧ t.val (oHuskPhase h.val) = v.toNat
      ∧ t.dev.power.selectDue = true ∧ SameMemory s t ∧ SameObjectsBut [oHuskPhase h.val, oNvConfigWrites] s t) := by
  have hnet : oFieldNetState.key ≠ (oHuskPhase h.val).key := by
    simp only [oFieldNetState, oHuskPhase]
    omega
  have hnv : (oHuskPhase h.val).key ≠ oNvConfigWrites.key := by
    simp only [oNvConfigWrites, oHuskPhase]
    omega
  have heffect : ∀ ws, (withWindows s.world ws).phaseSet h.val v.toNat = (0, withWindows (s.world.setPhase h.val v.toNat) ws) := by
    intro ws
    have hturn' : (withWindows s.world ws).turnStands h.val = false := hturn
    rw [World.phaseSet, if_neg (by omega), if_neg (by simp [hturn'])]
    rfl
  have ended := odCommand_ends (effect := fun w n => w.phaseSet h.val n) ht heffect (by decide) rfl (World.rd_wr_other _ hnet _)
  refine completes_of_done rfl ⟨ended.reply, ?_, ?_, ended.memory, ended.objects ?_⟩
  · rw [ended.val _ hnv, World.setPhase, World.rd_selectSoon, World.rd_wr_word]
  · rw [ended.power]
    rfl
  · exact fun k hk => World.rd_wr_other _ hk _

theorem powerSustainedLimitWrite_completes (s : State) (p : Path) (v : Word) (ht : odTakes s.world p 0x20A0 1 v = true) :
    Completes (.powerSustainedLimitWrite p v) s (fun t => t.reply p = 0 ∧ t.val oPowerSustainedLimit = v.toNat
      ∧ t.dev.power.selectDue = true ∧ SameMemory s t ∧ SameObjectsBut [oPowerSustainedLimit, oNvConfigWrites] s t) := by
  have ended := odCommand_ends (effect := World.limitWrite oPowerSustainedLimit) (reason := 0)
    (w1 := (s.world.wr oPowerSustainedLimit v.toNat).selectSoon) ht (fun _ => rfl) (by decide) rfl (World.rd_wr_other _ (by decide) _)
  refine completes_of_done rfl ⟨ended.reply, ?_, ?_, ended.memory, ended.objects ?_⟩
  · rw [ended.val _ (by decide), World.rd_selectSoon, World.rd_wr_word]
  · rw [ended.power]
    rfl
  · exact fun k hk => World.rd_wr_other _ hk _

/-- A new root step is begun by the clocks alone. -/
theorem World.beginRootStep_eq_upTime (w : World) : ∃ f, w.beginRootStep = w.upTime f ∧ (f w.dev.time).rootTarget = w.dev.time.rootTarget
    ∧ (f w.dev.time).tick = w.dev.time.tick := by
  simp only [World.beginRootStep]
  split
  · exact ⟨id, rfl, rfl, rfl⟩
  · exact ⟨_, rfl, rfl, rfl⟩

/-- With no step in progress one begins exactly when the root is not at its target, R20. -/
theorem World.beginRootStep_rootStepEnd {w : World} (h : w.dev.time.rootStepEnd = none) :
    w.beginRootStep.dev.time.rootStepEnd = if w.rd oClockRootNow = w.dev.time.rootTarget then none else some (w.now + 1000) := by
  by_cases hat : w.rd oClockRootNow = w.dev.time.rootTarget <;> simp [World.beginRootStep, h, hat]

/-- The world in which a root step has ended and none is in progress. -/
def World.rootMoved (w : World) : World :=
  (w.wr oClockRootNow (if w.dev.time.rootStepUp then w.rd oClockRootNow + 100 else w.rd oClockRootNow - 100)).upTime
    (fun x => { x with rootStepEnd := none })

theorem World.rootStepDone_of_due {w : World} {due : Nat} (h : w.dev.time.rootStepEnd = some due) (hd : due ≤ w.now) :
    w.rootStepDone = w.rootMoved.beginRootStep := by
  simp only [World.rootStepDone, h, if_neg (Nat.not_lt.mpr hd)]
  rfl

theorem rootStep_completes (s : State) (due : Nat) (hend : s.dev.time.rootStepEnd = some due) (hdue : due ≤ s.dev.time.tick)
    (hroom : s.val oClockRootNow + 100 < 2 ^ 64) :
    Completes .rootStep s (fun t =>
      t.val oClockRootNow = (if s.dev.time.rootStepUp then s.val oClockRootNow + 100 else s.val oClockRootNow - 100)
      ∧ (t.dev.time.rootStepEnd = if t.val oClockRootNow = s.dev.time.rootTarget then none else some (s.dev.time.tick + 1000))
      ∧ t.dev.time.rootTarget = s.dev.time.rootTarget ∧ t.dev.time.tick = s.dev.time.tick
      ∧ SameMemory s t ∧ SameObjectsBut [oClockRootNow] s t) := by
  obtain ⟨f, hbegin, htarget, htick⟩ := s.world.rootMoved.beginRootStep_eq_upTime
  refine completes_of_effect (f := World.rootStepDone) rfl (World.rootStepDone_of_due hend hdue) (by rw [hbegin]; rfl)
    fun t ht hmem => ?_
  have hval : ∀ k, t.val k = s.world.rootMoved.rd k := fun k => (val_of_dev ht k).trans (by rw [hbegin]; rfl)
  refine ⟨?_, ?_, ?_, ?_, hmem, ?_⟩
  · rw [hval, World.rootMoved, World.rd_upTime, World.rd_wr_same]
    refine Nat.mod_eq_of_lt ?_
    change (if s.dev.time.rootStepUp then s.val oClockRootNow + 100 else s.val oClockRootNow - 100) < 2 ^ 64
    split <;> omega
  · rw [hval, ht, World.beginRootStep_rootStepEnd rfl]
    rfl
  · rw [ht, hbegin]
    exact htarget
  · rw [ht, hbegin]
    exact htick
  · intro k hk
    rw [hval]
    exact World.rd_wr_other _ (by simpa using hk) _

/-- Settles O7: one law per command; the four writes go through `odCommand_ends`, the step through `rootStepDone_of_due`. -/
theorem clockAndPowerWrites : Obligations.ClockAndPowerWrites :=
  ⟨⟨clockNominalRootWrite_completes, fun s due hend hdue _ hroom => rootStep_completes s due hend hdue hroom⟩,
    huskOpPointWrite_completes, huskPhaseSet_completes, powerSustainedLimitWrite_completes⟩

end Sys2Proof.Machine

/-! ### Device time -/
namespace Sys2Proof.Machine

namespace World

/-- Is a clock source passed over: a worse one than the best known, or this module itself (R29)? -/
def passesOver (w : World) (prio node : Nat) : Bool := betterClock w.leadClock (prio, node) || node == w.self

/-- The offset that a timing message shows, in nanoseconds (R29). -/
def offsetOf (theirs ours delay : Nat) : Int := Int.ofNat (ours * 10) - Int.ofNat (theirs * 10 + delay)

/-- A followed message with no load of the time due: the offset is recorded and slewed off. -/
theorem timeMessage_slews {w : World} {prio node theirs ours delay : Nat} (hl : w.passesOver prio node = false)
    (hs : w.rd oTimeState ≠ 0) (hp : w.dev.time.permit = false) :
    w.timeMessage prio node theirs ours delay =
      (((w.upTime (fun x => { x with lastMsg := w.now, master := some (prio, node) })).wrInt oTimeOffset
        (max (-2147483648) (min 2147483647 (offsetOf theirs ours delay)))).upTime
          (fun x => { x with slew := -(offsetOf theirs ours delay / 10) })).wr oTimeState
        (if (offsetOf theirs ours delay).natAbs ≤ 50 then 2 else 1) := by
  simp only [passesOver] at hl
  have noLoad : ∀ first large : Bool, ¬ (((w.rd oTimeState == 0 && first) || (w.dev.time.permit && large)) = true) := by
    simp [hs, hp]
  simp only [timeMessage, hl, Bool.false_eq_true, if_false]
  rw [if_neg (noLoad _ _)]
  rfl

/-- A message passed over leaves a module that is the best clock its own master. -/
theorem timeMessage_ownMaster {w : World} {prio node theirs ours delay : Nat} (hl : w.passesOver prio node = true)
    (hm : w.leadClock = w.myClock) :
    w.timeMessage prio node theirs ours delay =
      (w.upTime (fun x => { x with lastMsg := w.now, master := some w.myClock, slew := 0 })).wr oTimeState 2 := by
  simp only [passesOver] at hl
  simp only [timeMessage, if_pos hl, if_pos hm]
  rfl

/-- A message passed over is otherwise only noted. -/
theorem timeMessage_noted {w : World} {prio node theirs ours delay : Nat} (hl : w.passesOver prio node = true)
    (hm : w.leadClock ≠ w.myClock) :
    w.timeMessage prio node theirs ours delay = w.upTime (fun x => { x with lastMsg := w.now }) := by
  simp only [passesOver] at hl
  simp only [timeMessage, if_pos hl, if_neg hm]
  rfl

end World

section
variable (s : State) (d : Fin 6) (prio : BitVec 8) (node : BitVec 16) (theirs ours : Word) (delay : BitVec 32)

theorem timeSync_slews (hl : s.world.passesOver prio.toNat node.toNat = false) (hs : s.val oTimeState ≠ 0)
    (hp : s.dev.time.permit = false) :
    let off := World.offsetOf theirs.toNat ours.toNat delay.toNat
    Completes (.timeSync d prio node theirs ours delay) s (fun t =>
      t.dev.time = { s.dev.time with lastMsg := Int.ofNat s.dev.time.tick, master := some (prio.toNat, node.toNat), slew := -(off / 10) }
      ∧ t.dev.od.get? oTimeOffset.key = some (BitVec.ofInt 64 (max (-2147483648) (min 2147483647 off)))
      ∧ t.val oTimeState = (if off.natAbs ≤ 50 then 2 else 1) ∧ SameMemory s t ∧ SameObjectsBut [oTimeOffset, oTimeState] s t) := by
  intro off
  refine completes_of_effect rfl (World.timeMessage_slews hl hs hp) rfl fun t ht hmem => ⟨?_, ?_, ?_, hmem, ?_⟩
  · rw [ht]
    rfl
  · rw [ht, World.wr_dev]
    exact (AMap.get?_put_other _ (by decide) _).trans (AMap.get?_put_same _ _ _)
  · rw [val_of_dev ht, World.rd_wr_same]
    exact Nat.mod_eq_of_lt (by split <;> decide)
  · intro k hk
    simp only [List.map_cons, List.map_nil, List.mem_cons, List.not_mem_nil, or_false, not_or] at hk
    rw [val_of_dev ht, World.rd_wr_other _ hk.2, World.rd_upTime, World.rd_wrInt_other _ hk.1]
    rfl

theorem timeSync_ownMaster (hl : s.world.passesOver prio.toNat node.toNat = true) (hm : s.world.leadClock = s.world.myClock) :
    Completes (.timeSync d prio node theirs ours delay) s (fun t =>
      t.dev.time = { s.dev.time with lastMsg := Int.ofNat s.dev.time.tick, master := some s.world.myClock, slew := 0 }
      ∧ t.val oTimeState = 2 ∧ SameMemory s t ∧ SameObjectsBut [oTimeState] s t) := by
  refine completes_of_effect rfl (World.timeMessage_ownMaster hl hm) rfl fun t ht hmem => ⟨?_, ?_, hmem, ?_⟩
  · rw [ht]
    rfl
  · exact (val_of_dev ht _).trans (World.rd_wr_same _ _ _)
  · intro k hk
    rw [val_of_dev ht, World.rd_wr_other _ (by simpa using hk)]
    rfl

theorem timeSync_noted (hl : s.world.passesOver prio.toNat node.toNat = true) (hm : s.world.leadClock ≠ s.world.myClock) :
    Completes (.timeSync d prio node theirs ours delay) s (fun t =>
      t.dev.time = { s.dev.time with lastMsg := Int.ofNat s.dev.time.tick } ∧ t.dev.od = s.dev.od ∧ SameMemory s t) := by
  refine completes_of_effect rfl (World.timeMessage_noted hl hm) rfl fun t ht hmem => ⟨?_, ?_, hmem⟩
  · rw [ht]
    rfl
  · rw [ht]
    rfl

end

theorem timeHoldover_completes (s : State) (hs : s.val oTimeState ≠ 0) (hlate : s.dev.time.lastMsg + 1000000 ≤ Int.ofNat s.dev.time.tick) :
    Completes .timeHoldover s (fun t => t.val oTimeState = 3 ∧ t.dev.time = s.dev.time ∧ SameMemory s t ∧ SameObjectsBut [oTimeState] s t) := by
  refine completes_of_effect (f := World.holdover) rfl (if_pos ⟨hs, hlate⟩) rfl fun t ht hmem => ⟨?_, ?_, hmem, ?_⟩
  · exact (val_of_dev ht _).trans (World.rd_wr_same _ _ _)
  · rw [ht]
    rfl
  · intro k hk
    rw [val_of_dev ht]
    exact World.rd_wr_other _ (by simpa using hk) _

theorem timeStepCommand_completes (s : State) (p : Path) (ht : odTakes s.world p 0x2010 5 1 = true) :
    Completes (.timeStepCommand p 1) s (fun t => t.reply p = 0 ∧ t.dev.time = { s.dev.time with permit := true }
      ∧ t.dev.od = s.dev.od ∧ SameMemory s t) := by
  have ended := odCommand_ends (reason := 0) (w1 := s.world.upTime (fun x => { x with permit := true }))
    (effect := World.onOne (fun w => (0, w.upTime (fun x => { x with permit := true })))) ht (fun _ => rfl) (by decide) rfl rfl
  exact completes_of_done rfl ⟨ended.reply, ended.time, ended.od (by decide +kernel), ended.memory⟩

/-- Settles O21: the three outcomes of a timing message, holdover, the exchange that is due, and the permitted step. -/
theorem timeFollowsTheMaster : Obligations.TimeFollowsTheMaster := by
  refine ⟨fun s d prio node theirs ours delay => ⟨?_, ?_, ?_⟩, timeHoldover_completes, fun s hdue => ?_, timeStepCommand_completes⟩
  · exact timeSync_slews s d prio node theirs ours delay
  · exact timeSync_ownMaster s d prio node theirs ours delay
  · exact timeSync_noted s d prio node theirs ours delay
  · have hsend : ¬ Int.ofNat s.world.now < s.world.dev.time.lastSend + 100000 := Int.not_lt.mpr hdue
    exact congrArg (fun w => Host.Outcome.next (s.commit w)) (if_neg hsend)

end Sys2Proof.Machine
end

section
/-! PROOFS. The statements of the acorn stacks (O40, O41, O42), after the laws that they rest on. -/

/-! ### Bit fields -/
namespace Sys2Proof.Machine

/-- A field of a number as a quotient and a remainder. -/
theorem fld_eq_div_mod (x lo n : Nat) : fld x lo n = x / 2 ^ lo % 2 ^ n := by
  rw [fld, Nat.shiftRight_eq_div_pow]

/-- What a placed field makes of a number: the part above, the value, the part below. -/
theorem setFld_eq (x lo n v : Nat) :
    setFld x lo n v = (x / 2 ^ (lo + n) * 2 ^ n + v % 2 ^ n) * 2 ^ lo + x % 2 ^ lo := by
  simp only [setFld, Nat.shiftRight_eq_div_pow, Nat.shiftLeft_eq]
  rw [Nat.add_mul, Nat.mul_assoc, ← Nat.pow_add, Nat.add_comm n lo]

theorem setFld_div (x lo n v : Nat) : setFld x lo n v / 2 ^ lo = x / 2 ^ (lo + n) * 2 ^ n + v % 2 ^ n := by
  rw [setFld_eq, Nat.add_comm, Nat.add_mul_div_right _ _ (Nat.two_pow_pos lo),
    Nat.div_eq_of_lt (Nat.mod_lt _ (Nat.two_pow_pos lo)), Nat.zero_add]

theorem setFld_div_above (x lo n v : Nat) : setFld x lo n v / 2 ^ (lo + n) = x / 2 ^ (lo + n) := by
  rw [Nat.pow_add, ← Nat.div_div_eq_div_mul, setFld_div, Nat.add_comm, Nat.add_mul_div_right _ _ (Nat.two_pow_pos n),
    Nat.div_eq_of_lt (Nat.mod_lt _ (Nat.two_pow_pos n)), Nat.zero_add, ← Nat.pow_add]

theorem setFld_mod_below (x lo n v : Nat) : setFld x lo n v % 2 ^ lo = x % 2 ^ lo := by
  rw [setFld_eq, Nat.mul_add_mod_self_right, Nat.mod_mod]

/-- A placed field reads as the value. -/
theorem fld_setFld_same (x lo n v : Nat) : fld (setFld x lo n v) lo n = v % 2 ^ n := by
  rw [fld_eq_div_mod, setFld_div, Nat.mul_add_mod_self_right, Nat.mod_mod]

/-- A field above a placed one reads as before. -/
theorem fld_setFld_above {lo n lo' : Nat} (h : lo + n ≤ lo') (x v n' : Nat) : fld (setFld x lo n v) lo' n' = fld x lo' n' := by
  obtain ⟨d, rfl⟩ := Nat.exists_eq_add_of_le h
  rw [fld_eq_div_mod, fld_eq_div_mod, Nat.pow_add, ← Nat.div_div_eq_div_mul, setFld_div_above, Nat.div_div_eq_div_mul]

/-- A field is one of the number's low bits. -/
theorem fld_mod_two_pow {lo n k : Nat} (h : lo + n ≤ k) (x : Nat) : fld (x % 2 ^ k) lo n = fld x lo n := by
  have split : ∀ y, fld y lo n = y % 2 ^ (lo + n) / 2 ^ lo := fun y => by
    rw [fld_eq_div_mod, Nat.pow_add, Nat.mod_mul_right_div_self]
  rw [split, split, Nat.mod_mod_of_dvd x (Nat.pow_dvd_pow 2 h)]

/-- A field below a placed one reads as before. -/
theorem fld_setFld_below {lo lo' n' : Nat} (h : lo' + n' ≤ lo) (x n v : Nat) : fld (setFld x lo n v) lo' n' = fld x lo' n' := by
  rw [← fld_mod_two_pow h (setFld x lo n v), setFld_mod_below, fld_mod_two_pow h]

end Sys2Proof.Machine

/-! ### Changes of objects alone, and the status words of long operations -/
namespace Sys2Proof.Machine

/-- The world with another set of objects. -/
abbrev withObjects (w : World) (od : AMap Word) : World := { w with dev := { w.dev with od := od } }

/-- `v` differs from `w` in objects alone, and only in those whose keys satisfy `keys`. -/
structure World.Writes (keys : Nat → Prop) (w v : World) : Prop where
  objects : ∃ od, v = withObjects w od
  rd : ∀ k : OKey, ¬ keys k.key → v.rd k = w.rd k

namespace World

/-- What every step of an iteration keeps, the iteration keeps. -/
theorem each_keeps {α : Type} {P : World → Prop} {l : List α} {f : World → α → World} {w : World}
    (hw : P w) (hf : ∀ v, ∀ a ∈ l, P v → P (f v a)) : P (w.each l f) := by
  induction l generalizing w with
  | nil => exact hw
  | cons a t ih => exact ih (hf w a List.mem_cons_self hw) (fun v b hb => hf v b (List.mem_cons_of_mem a hb))

namespace Writes
variable {keys : Nat → Prop} {w v u : World}

theorem refl (w : World) : Writes keys w w := ⟨⟨w.dev.od, rfl⟩, fun _ _ => rfl⟩

theorem trans (h1 : Writes keys w v) (h2 : Writes keys v u) : Writes keys w u := by
  obtain ⟨⟨_, rfl⟩, hv⟩ := h1
  obtain ⟨⟨_, rfl⟩, hu⟩ := h2
  exact ⟨⟨_, rfl⟩, fun k hk => (hu k hk).trans (hv k hk)⟩

theorem wr (w : World) {k : OKey} (hk : keys k.key) (x : Nat) : Writes keys w (w.wr k x) :=
  ⟨⟨_, rfl⟩, fun j hj => rd_wr_other w (j := j) (k := k) (fun e => hj (by rw [e]; exact hk)) x⟩

theorem each {α : Type} {l : List α} {f : World → α → World} (w : World) (hf : ∀ v, ∀ a ∈ l, Writes keys v (f v a)) :
    Writes keys w (w.each l f) :=
  each_keeps (refl w) (fun v a ha h => h.trans (hf v a ha))

theorem log (h : Writes keys w v) : v.log = w.log := by
  obtain ⟨⟨_, rfl⟩, -⟩ := h
  rfl

theorem acorn (h : Writes keys w v) : v.dev.acorn = w.dev.acorn := by
  obtain ⟨⟨_, rfl⟩, -⟩ := h
  rfl

end Writes

/-! The words of long operations, R419 to R423. -/

theorem setOpState_writes (w : World) (k : OKey) (st rs : Nat) : Writes (· = k.key) w (w.setOpState k st rs) :=
  .wr (keys := (· = k.key)) w rfl _

/-- An operation's word shows the STATE it was given. -/
theorem stState_setOpState (w : World) (k : OKey) {st : Nat} (h : st < 16) (rs : Nat) :
    stState ((w.setOpState k st rs).rd k) = st := by
  rw [setOpState, rd_wr_same, stState, fld_mod_two_pow (by decide), fld_setFld_above (by decide), fld_setFld_same]
  exact Nat.mod_eq_of_lt h

/-- It shows the REASON it was given. -/
theorem reason_setOpState (w : World) (k : OKey) (st : Nat) {rs : Nat} (h : rs < 65536) :
    fld ((w.setOpState k st rs).rd k) 16 16 = rs := by
  rw [setOpState, rd_wr_same, fld_mod_two_pow (by decide), fld_setFld_same]
  exact Nat.mod_eq_of_lt h

/-- A started operation changes its word and its partial records alone. -/
theorem startOp_writes (w : World) (ix : Nat → OKey) (op st : Nat) :
    Writes (fun key => ∃ j, j < 64 ∧ key = (ix j).key) w (w.startOp ix op st) := by
  have zeroed := Writes.each (keys := fun key => ∃ j, j < 64 ∧ key = (ix j).key) (l := List.range 63) w
    (f := fun w j => if w.rd (ix (j + 1)) = 0 then w else w.wr (ix (j + 1)) 0) (fun v j hj => by
      split
      · exact .refl v
      · exact .wr v ⟨j + 1, Nat.succ_lt_succ (List.mem_range.mp hj), rfl⟩ 0)
  exact zeroed.trans (.wr _ ⟨0, by decide, rfl⟩ _)

/-- A started operation's word shows its STATE. -/
theorem stState_startOp (w : World) (ix : Nat → OKey) (op : Nat) {st : Nat} (hop : op < 4096) (h : st < 16) :
    stState ((w.startOp ix op st).rd (ix 0)) = st := by
  have seqs : (fld (w.rd (ix 0)) 0 16 + 1) % 65536 < 65536 := Nat.mod_lt _ (by decide)
  rw [startOp, rd_wr_same, stState, fld_mod_two_pow (by decide), fld_eq_div_mod, statusWord]
  generalize (fld (w.rd (ix 0)) 0 16 + 1) % 65536 = n at seqs
  omega

/-! The slots of images, R125. -/

theorem setSlotState_writes (w : World) (i st : Nat) : Writes (· = (oAcornImageSlot i).key) w (w.setSlotState i st) :=
  .wr (keys := (· = (oAcornImageSlot i).key)) w rfl _

@[simp] theorem slotState_setSlotState_same (w : World) (i : Nat) {st : Nat} (h : st < 16) : (w.setSlotState i st).slotState i = st := by
  rw [slotState, setSlotState, rd_wr_same, fld_mod_two_pow (by decide), fld_setFld_same]
  exact Nat.mod_eq_of_lt h

@[simp] theorem slotImage_setSlotState (w : World) (i st : Nat) : (w.setSlotState i st).slotImage i = w.slotImage i := by
  rw [slotImage, setSlotState, rd_wr_same, fld_mod_two_pow (by decide), fld_setFld_below (by decide)]
  rfl

end World

end Sys2Proof.Machine

/-! ### A write of an object that is not saved, seen from the state after it -/
namespace Sys2Proof.Machine

/-- A command performs `f` when its own effect makes of the state's world what `f` makes of it. -/
theorem performs_of_eq {c : Instr} {s : State} {f g : World → World} (hc : exec c s = s.done g) (h : g s.world = f s.world) :
    Performs c s f := by
  rw [Performs, hc, State.done_eq, State.run, State.run, h]

/-- A request's world differs in its windows alone. -/
theorem odAsked_of_odTakes {w : World} {p : Path} {index sub : Nat} {v : Word} (h : odTakes w p index sub v = true) :
    ∃ ws, odAsked w p index sub v = withWindows w ws := by
  simp only [odTakes, odOpen, Bool.and_eq_true, Bool.not_eq_true'] at h
  obtain ⟨⟨⟨hbusy, hrestart⟩, -⟩, -⟩ := h
  exact odAsked_eq w p index sub v hbusy hrestart

/-- What is read of the world that a request finds: everything but its windows stands as before. -/
structure AskedFrame (w v : World) : Prop where
  log : v.log = w.log
  od : v.dev.od = w.dev.od
  acorn : v.dev.acorn = w.dev.acorn
  tick : v.now = w.now

theorem askedFrame_of_odTakes {w : World} {p : Path} {index sub : Nat} {v : Word} (h : odTakes w p index sub v = true) :
    AskedFrame w (odAsked w p index sub v) := by
  obtain ⟨ws, e⟩ := odAsked_of_odTakes h
  rw [e]
  exact ⟨rfl, rfl, rfl, rfl⟩

/-- A write of an object that is not saved (R408 to R412): its effect on the world of the request, then the end of the request. -/
theorem odCommand_unsaved {w : World} {p : Path} {index sub : Nat} {v : Word} (ht : odTakes w p index sub v = true)
    (hs : odSaved index sub = false) {effect : World → Nat → Nat × World} {reason : Nat} {w1 : World}
    (he : effect (odAsked w p index sub v) v.toNat = (reason, w1)) :
    w.odCommand p index sub v true effect =
      if reason = World.odPending then w1.odBusy p else w1.odFinish p reason 0 [] false := by
  simp only [odTakes, odOpen, Bool.and_eq_true, Bool.not_eq_true'] at ht
  obtain ⟨⟨⟨hbusy, hrestart⟩, -⟩, hl⟩ := ht
  have asked : odAsked w p index sub v = withWindows w _ := odGate_executes w _ id hbusy hrestart
  rw [asked] at he
  refine (odGate_executes w _ _ hbusy hrestart).trans ?_
  revert he
  generalize askedWindows w _ = ws
  intro he
  split at hl
  · cases hl
  · rename_i r hr
    simp only [Bool.and_eq_true, Option.isNone_iff_eq_none, Bool.not_eq_true'] at hl
    obtain ⟨⟨⟨hwrite, hscalar⟩, hfits⟩, hrange⟩ := hl
    have unsaved : (r.acc == OdAcc.rws) = false := by simpa [odSaved, hr] using hs
    simp [World.odScalar, hr, odWriteRefusal_windows, hwrite, hscalar, hfits, hrange, he, unsaved]

/-- The state `t` after a request over path `p`, from `s`, whose effect answered `reason` and made the world `w1`; a module that
does not transmit over the field network answers nothing there (R433). -/
structure RequestEnded (s t : State) (p : Path) (reason : Nat) (w1 : World) : Prop where
  reply : (p = .fieldNet → w1.rd oFieldNetState ≠ 2) → t.reply p = BitVec.ofNat 16 reason
  memory : SameMemory s t
  od : t.dev.od = w1.dev.od
  acorn : t.dev.acorn = w1.dev.acorn

theorem RequestEnded.val {s t : State} {p : Path} {reason : Nat} {w1 : World} (h : RequestEnded s t p reason w1) (k : OKey) :
    t.val k = w1.rd k :=
  World.rd_congr h.od k

/-- A request that was taken is answered, unless its effect ended the transmitting. -/
theorem RequestEnded.reply_of_odTakes {s t : State} {p : Path} {reason : Nat} {w1 : World} (h : RequestEnded s t p reason w1)
    {index sub : Nat} {v : Word} (ht : odTakes s.world p index sub v = true)
    (hn : w1.rd oFieldNetState = s.world.rd oFieldNetState) : t.reply p = BitVec.ofNat 16 reason :=
  h.reply (hn ▸ fieldNet_answers_of_odTakes ht)

/-- A run that ends a request on a world has ended it. -/
theorem requestEnded_of_odFinish {s : State} {f : World → World} {p : Path} {reason : Nat} {w1 : World}
    (hf : f s.world = w1.odFinish p reason 0 [] false) (hlog : w1.log = []) : RequestEnded s (s.run f) p reason w1 := by
  obtain ⟨ws, rs, hdev⟩ := w1.odFinish_dev p reason 0 [] false
  have hrun : (s.run f).dev = { w1.dev with windows := ws, replies := rs } := by rw [State.run_dev, hf, hdev]
  exact
    { reply := reply_of_odFinish (by rw [State.run_dev, hf])
      memory := same_memory_of_log (by rw [hf, World.odFinish_log, hlog])
      od := by rw [hrun]
      acorn := by rw [hrun] }

/-- A write of an object that is not saved ends with its effect's reason and leaves what its effect made. -/
theorem odCommand_requestEnded {s : State} {p : Path} {index sub : Nat} {v : Word} (ht : odTakes s.world p index sub v = true)
    (hs : odSaved index sub = false) {effect : World → Nat → Nat × World} {reason : Nat} {w1 : World}
    (he : effect (odAsked s.world p index sub v) v.toNat = (reason, w1)) (hr : reason ≠ World.odPending) (hlog : w1.log = []) :
    RequestEnded s (s.run (fun w => w.odCommand p index sub v true effect)) p reason w1 :=
  requestEnded_of_odFinish ((odCommand_unsaved ht hs he).trans (if_neg hr)) hlog

/-- A write that is refused for `reason` by its effect leaves the objects, the acorn stacks and the memory. -/
theorem odCommand_refuses {c : Instr} {s : State} {p : Path} {index sub : Nat} {v : Word} {effect : World → Nat → Nat × World}
    {reason : Nat} (hc : exec c s = s.done (fun w => w.odCommand p index sub v true effect))
    (ht : odTakes s.world p index sub v = true) (hs : odSaved index sub = false)
    (he : effect (odAsked s.world p index sub v) v.toNat = (reason, odAsked s.world p index sub v)) (hr : reason ≠ World.odPending) :
    Completes c s (fun t => t.reply p = BitVec.ofNat 16 reason ∧ t.dev.od = s.dev.od ∧ t.dev.acorn = s.dev.acorn ∧ SameMemory s t) := by
  have asked := askedFrame_of_odTakes ht
  have ended := odCommand_requestEnded ht hs he hr asked.log
  exact completes_of_done hc
    ⟨ended.reply_of_odTakes ht (World.rd_congr asked.od _), ended.od.trans asked.od, ended.acorn.trans asked.acorn, ended.memory⟩

/-- A request that goes on executing changes its window alone. -/
theorem World.odBusy_dev (w : World) (p : Path) : ∃ ws, w.odBusy p = withWindows w ws := by
  cases p <;> exact ⟨_, rfl⟩

/-- A window whose request goes on executing is BUSY (R414). -/
theorem World.window_odBusy (w : World) {p : Path} (h : pathFn p < 128) : ((w.odBusy p).window (pathFn p)).busy = true := by
  cases p with
  | fieldNet => exact absurd h (by decide)
  | mctp => exact absurd h (by decide)
  | pf _ => simp [World.odBusy, World.window]
  | vf _ _ => simp [World.odBusy, World.window]

/-- A cancel is due in the next tick, and until then changes nothing (R425). -/
theorem cancelDue_deferred {c : Instr} {s : State} {p : Path} {index sub : Nat} {a : DueAct}
    (hc : exec c s = s.done (fun w => w.odCommand p index sub 1 true (World.onOne (fun w => w.cancelDue a))))
    (ht : odTakes s.world p index sub 1 = true) (hs : odSaved index sub = false) :
    Deferred c s p a ∧ Completes c s (fun t => t.dev.acorn = s.dev.acorn) := by
  obtain ⟨ws, hasked⟩ := odAsked_of_odTakes ht
  let w1 := withWindows (s.world.cancelDue a).2 ws
  have he : World.onOne (fun w => w.cancelDue a) (odAsked s.world p index sub 1) (1 : Word).toNat = (World.odPending, w1) := by
    rw [hasked]
    rfl
  have hrun := (odCommand_unsaved ht hs he).trans (if_pos rfl)
  obtain ⟨bs, hbusy⟩ := w1.odBusy_dev p
  have hdev : (s.run (fun w => w.odCommand p index sub 1 true (World.onOne (fun w => w.cancelDue a)))).dev = (w1.odBusy p).dev := by
    rw [State.run_dev, hrun]
  have hmem := same_memory_of_log (s := s) (f := fun w => w.odCommand p index sub 1 true (World.onOne (fun w => w.cancelDue a)))
    (by rw [hrun, hbusy]; rfl)
  refine ⟨completes_of_done hc ⟨?_, fun hp => ?_, ?_, hmem.1, hmem.2.1⟩, completes_of_done hc ?_⟩
  · rw [hdev, hbusy]
    rfl
  · rw [World.window, State.world_dev, hdev]
    exact w1.window_odBusy hp
  · rw [hdev, hbusy]
    rfl
  · rw [hdev, hbusy]
    rfl

end Sys2Proof.Machine

/-! ### Overlay and repair tables, and images -/
namespace Sys2Proof.Machine

namespace World

/-- A slot's state and image are read from the objects alone. -/
theorem slotState_congr {w v : World} (h : v.dev.od = w.dev.od) (i : Nat) : v.slotState i = w.slotState i := by
  rw [slotState, slotState, rd_congr h]

theorem slotImage_congr {w v : World} (h : v.dev.od = w.dev.od) (i : Nat) : v.slotImage i = w.slotImage i := by
  rw [slotImage, slotImage, rd_congr h]

/-- Healing a range of which no line fails does nothing, R142. -/
theorem mirrorHeal_of_sound {w : World} {a n : Nat} (other : Nat → Nat)
    (h : ∀ k, a / 64 ≤ k → k * 64 < a + n → w.lineBad k = false) : w.mirrorHeal a n other = w := by
  unfold mirrorHeal
  refine each_keeps (P := fun v => v = w) rfl (fun v l hl hv => ?_)
  subst hv
  obtain ⟨i, hi, rfl⟩ := List.mem_map.mp hl
  have sound : v.lineBad (a / 64 + i) = false := by
    have hi' := List.mem_range.mp hi
    exact h _ (Nat.le_add_right _ _) (by omega)
  simp [sound]

/-- The world in which the repair table's validation ends: the commit waits no longer, and the table has been read (R119, R142). -/
def repairRead (w : World) : World :=
  (w.upAcorn (fun a => { a with repairPending := none })).mirrorHeal (w.rd oAcornRepairTableBase)
    (32 * w.rd oAcornRepairTableCount) otherReserve

/-- Is the next repair table valid, R119 and R123? -/
def repairValid (w : World) : Bool :=
  !w.repairRead.nextRepair.1.anyBad && decide (w.rd oAcornRepairTableCount ≤ 65536) && inReserve (w.rd oAcornRepairTableBase)
    && keysRise w.repairRead.nextRepair.2
    && w.repairRead.nextRepair.2.all (fun e => e.addr % 64 == 0 && e.kind == 1 && regionOf e.addr == .hbm)

/-- The world in which the next repair table is in force, and its generation has counted. -/
def repairInForce (w : World) : World :=
  ((w.repairRead.pinTables none).upAcorn (fun a => { a with repair := w.repairRead.nextRepair.2 })).wr oAcornRepairGeneration
    (fit 32 (w.repairRead.rd oAcornRepairGeneration + 1))

@[simp] theorem rd_pinTables (w : World) (h : Option Nat) (k : OKey) : (w.pinTables h).rd k = w.rd k := rfl

theorem repairEffect_of_pending {w : World} {p : Path} (h : w.dev.acorn.repairPending = some p) :
    w.repairEffect = if w.repairValid then w.repairInForce.odFinish p 0 0 [] false else w.repairRead.odFinish p 0x040B 0 [] false := by
  rw [repairEffect, h]
  rfl

/-- A RESIDENT or ACTIVE slot can be named, and is then ACTIVE (R126). -/
theorem bindImage_of_installed {w : World} {h v : Nat} (hv : v < 16) (hs : w.slotState v = 3 ∨ w.slotState v = 4) :
    w.bindImage h v = (0, ((w.wr (oHuskActiveImage h) v).setSlotState v 4).imagesSettle) := by
  rw [bindImage, if_neg (by omega), if_pos ⟨hv, hs⟩]

/-- Another slot cannot be named, R126. -/
theorem bindImage_refused {w : World} {h v : Nat} (hff : v ≠ 0xFF) (hs : 16 ≤ v ∨ w.slotState v < 3 ∨ 4 < w.slotState v) :
    w.bindImage h v = (0x040A, w) := by
  rw [bindImage, if_neg hff, if_neg (by omega)]

/-- A slot that is neither used nor being written is released, R127. -/
theorem releaseImage_released {w : World} {i : Nat} (h4 : w.imagesSettle.slotState i ≠ 4) (h1 : w.imagesSettle.slotState i ≠ 1) :
    w.releaseImage i = (0, (w.imagesSettle.wr (oAcornImageSlot i) 0).upAcorn (fun a => { a with images := a.images.del i })) := by
  simp [releaseImage, h4, h1]

theorem releaseImage_refused {w : World} {i : Nat} (h : w.imagesSettle.slotState i = 4 ∨ w.imagesSettle.slotState i = 1) :
    w.releaseImage i = (0x0405, w.imagesSettle) := by
  simp [releaseImage, h]

end World

/-- A number as a field holds it is in the field. -/
theorem fit_lt (b n : Nat) : fit b n < 2 ^ b := by
  rw [fit]
  split
  · assumption
  · exact Nat.mod_lt _ (Nat.two_pow_pos b)

/-- The two ends of a repair table's validation, seen from the state after them. -/
theorem repairTableEffect_completes (s : State) (p : Path) (hp : s.dev.acorn.repairPending = some p)
    (hsound : ∀ k, s.val oAcornRepairTableBase / 64 ≤ k →
      k * 64 < s.val oAcornRepairTableBase + 32 * s.val oAcornRepairTableCount → s.world.lineBad k = false) :
    Completes .repairTableEffect s (fun t => t.dev.acorn.repairPending = none ∧ SameMemory s t
      ∧ (s.val oFieldNetState ≠ 2 → t.reply p = (if s.world.repairValid then 0 else 0x040B))
      ∧ (t.dev.acorn.repair = if s.world.repairValid then s.world.repairRead.nextRepair.2 else s.dev.acorn.repair)
      ∧ t.val oAcornRepairGeneration =
        (if s.world.repairValid then fit 32 (s.val oAcornRepairGeneration + 1) else s.val oAcornRepairGeneration)
      ∧ SameObjectsBut [oAcornRepairGeneration] s t) := by
  have hrun := World.repairEffect_of_pending (w := s.world) hp
  have hread : s.world.repairRead = s.world.upAcorn (fun a => { a with repairPending := none }) :=
    World.mirrorHeal_of_sound _ hsound
  have hrd : ∀ k, s.world.repairRead.rd k = s.val k := fun k => by rw [hread]; rfl
  cases hv : s.world.repairValid with
  | true =>
    rw [hv, if_pos rfl] at hrun
    simp only [↓reduceIte]
    have ended := requestEnded_of_odFinish hrun (by rw [World.repairInForce, hread]; rfl)
    have hrd' : ∀ k : OKey, k.key ≠ oAcornRepairGeneration.key → s.world.repairInForce.rd k = s.val k := fun k hk => by
      rw [World.repairInForce, World.rd_wr_other _ hk, World.rd_upAcorn, World.rd_pinTables, hrd]
    refine completes_of_done rfl ⟨?_, ended.memory, fun hn => ended.reply fun _ => ?_, ?_, ?_, fun k hk => ?_⟩
    · rw [ended.acorn, World.repairInForce, hread]
      rfl
    · rwa [hrd' _ (by decide)]
    · rw [ended.acorn]
      rfl
    · rw [ended.val, World.repairInForce, World.rd_wr_same, hrd, Nat.mod_eq_of_lt (Nat.lt_trans (fit_lt 32 _) (by decide))]
    · rw [ended.val, hrd' k (by simpa using hk)]
  | false =>
    rw [hv, if_neg (by decide)] at hrun
    simp only [Bool.false_eq_true, ↓reduceIte]
    have ended := requestEnded_of_odFinish hrun (by rw [hread]; rfl)
    refine completes_of_done rfl ⟨?_, ended.memory, fun hn => ended.reply fun _ => ?_, ?_, ?_, fun k _ => ?_⟩
    · rw [ended.acorn, hread]
      rfl
    · rwa [hrd]
    · rw [ended.acorn, hread]
      rfl
    · rw [ended.val, hrd]
    · rw [ended.val, hrd]

/-- A table that is not valid is refused with OVERLAY_TABLE_INVALID, R119. -/
theorem repairTableEffect_invalid (s : State) (p : Path) (hp : s.dev.acorn.repairPending = some p)
    (hv : s.world.repairValid = false) :
    Performs .repairTableEffect s (fun _ => s.world.repairRead.odFinish p 0x040B 0 [] false) :=
  performs_of_eq rfl ((World.repairEffect_of_pending (w := s.world) hp).trans (if_neg (by simp [hv])))

/-- A husk's image and its overlay commit are no saved settings (R408). -/
theorem huskAcornObjects_unsaved (h : Fin 16) :
    odSaved (0x3030 + h.val * 256) 1 = false ∧ odSaved (0x3030 + h.val * 256) 4 = false := by
  revert h
  decide +kernel

/-- A committed table's request goes on executing until the table takes effect, R118. -/
theorem huskOverlayCommit_performs (s : State) (p : Path) (h : Fin 16) (ht : odTakes s.world p (0x3030 + h.val * 256) 4 1 = true) :
    Performs (.huskOverlayCommit p h 1) s (fun w => ((odAsked w p (0x3030 + h.val * 256) 4 1).upAcorn (fun a =>
      { a with overlayPending := a.overlayPending.put h.val p })).odBusy p) :=
  performs_of_eq rfl ((odCommand_unsaved ht (huskAcornObjects_unsaved h).2 rfl).trans (if_pos rfl))

theorem acornRepairCommit_performs (s : State) (p : Path) (ht : odTakes s.world p 0x8020 3 1 = true) :
    Performs (.acornRepairCommit p 1) s (fun w =>
      ((odAsked w p 0x8020 3 1).upAcorn (fun a => { a with repairPending := some p })).odBusy p) :=
  performs_of_eq rfl ((odCommand_unsaved ht (by decide +kernel) rfl).trans (if_pos rfl))

/-- The end of a husk table's validation, R119. -/
theorem overlayTableEffect_performs (s : State) (p : Path) (h : Fin 16) (l : List OverlayEnt) (w1 : World)
    (hp : s.dev.acorn.overlayPending.get? h.val = some p)
    (hl : (s.world.upAcorn (fun a => { a with overlayPending := a.overlayPending.del h.val })).nextOverlays h.val = (some l, w1)) :
    (w1.overlaysValid h.val l = true → Performs (.overlayTableEffect h) s (fun _ =>
      (((w1.pinTables (some h.val)).upAcorn (fun a => { a with overlays := a.overlays.put h.val l })).wr (oHuskOverlayGeneration h.val)
        (fit 32 (w1.rd (oHuskOverlayGeneration h.val) + 1))).odFinish p 0 0 [] false))
    ∧ (w1.overlaysValid h.val l = false → Performs (.overlayTableEffect h) s (fun _ => w1.odFinish p 0x040B 0 [] false)) := by
  have hp' : s.world.dev.acorn.overlayPending.get? h.val = some p := hp
  constructor
  all_goals
    intro hv
    refine performs_of_eq rfl ?_
    simp only [World.overlayEffect, hp', hl, hv, if_true, Bool.false_eq_true, if_false]

theorem huskActiveImageWrite_performs (s : State) (p : Path) (h : Fin 16) (v : Word)
    (ht : odTakes s.world p (0x3030 + h.val * 256) 1 v = true) (hv : v.toNat < 16)
    (hs : s.world.slotState v.toNat = 3 ∨ s.world.slotState v.toNat = 4) :
    Performs (.huskActiveImageWrite p h v) s (fun w =>
      (((odAsked w p (0x3030 + h.val * 256) 1 v).wr (oHuskActiveImage h.val) v.toNat).setSlotState v.toNat 4).imagesSettle.odFinish
        p 0 0 [] false) := by
  have asked := World.slotState_congr (askedFrame_of_odTakes ht).od
  have he := World.bindImage_of_installed (h := h.val) hv ((asked v.toNat).symm ▸ hs)
  exact performs_of_eq rfl ((odCommand_unsaved ht (huskAcornObjects_unsaved h).1 he).trans (if_neg (by decide)))

theorem huskActiveImageWrite_refused (s : State) (p : Path) (h : Fin 16) (v : Word)
    (ht : odTakes s.world p (0x3030 + h.val * 256) 1 v = true) (hff : v.toNat ≠ 0xFF)
    (hs : 16 ≤ v.toNat ∨ s.world.slotState v.toNat < 3 ∨ 4 < s.world.slotState v.toNat) :
    Completes (.huskActiveImageWrite p h v) s (fun t =>
      t.reply p = 0x040A ∧ t.dev.od = s.dev.od ∧ t.dev.acorn = s.dev.acorn ∧ SameMemory s t) := by
  have asked := World.slotState_congr (askedFrame_of_odTakes ht).od
  have he := World.bindImage_refused (h := h.val) hff ((asked v.toNat).symm ▸ hs)
  exact odCommand_refuses rfl ht (huskAcornObjects_unsaved h).1 he (by decide)

/-- A slot that nothing uses returns to RESIDENT, R126. -/
theorem slotReturnResident_completes (s : State) (i : Fin 16) (h4 : s.world.slotState i.val = 4) (hu : s.world.slotUsed i.val = false) :
    Completes (.slotReturnResident i) s (fun t => t.world.slotState i.val = 3 ∧ t.world.slotImage i.val = s.world.slotImage i.val
      ∧ t.dev.acorn = s.dev.acorn ∧ SameMemory s t ∧ SameObjectsBut [oAcornImageSlot i.val] s t) := by
  have writes := World.setSlotState_writes s.world i.val 3
  refine completes_of_effect rfl (if_pos ⟨h4, by simp [hu]⟩) writes.log fun t ht hmem => ⟨?_, ?_, ?_, hmem, fun k hk => ?_⟩
  · rw [World.slotState_congr (v := t.world) (congrArg Dev.od ht), World.slotState_setSlotState_same _ _ (by decide)]
  · rw [World.slotImage_congr (v := t.world) (congrArg Dev.od ht), World.slotImage_setSlotState]
  · rw [ht, writes.acorn]
    rfl
  · rw [val_of_dev ht, writes.rd k (by simpa using hk)]
    rfl

/-- A slot is released, or it is ACTIVE or being written and the request is refused (R127). -/
theorem acornImageRelease_performs (s : State) (p : Path) (v : Word) (ht : odTakes s.world p 0x8001 0 v = true) :
    let w1 := (odAsked s.world p 0x8001 0 v).imagesSettle
    (w1.slotState v.toNat ≠ 4 → w1.slotState v.toNat ≠ 1 → Performs (.acornImageRelease p v) s (fun _ =>
      ((w1.wr (oAcornImageSlot v.toNat) 0).upAcorn (fun a => { a with images := a.images.del v.toNat })).odFinish p 0 0 [] false))
    ∧ (w1.slotState v.toNat = 4 ∨ w1.slotState v.toNat = 1 →
        Performs (.acornImageRelease p v) s (fun _ => w1.odFinish p 0x0405 0 [] false)) := by
  have unsaved : odSaved 0x8001 0 = false := by decide +kernel
  refine ⟨fun h4 h1 => ?_, fun h => ?_⟩
  · exact performs_of_eq rfl ((odCommand_unsaved ht unsaved (World.releaseImage_released h4 h1)).trans (if_neg (by decide)))
  · exact performs_of_eq rfl ((odCommand_unsaved ht unsaved (World.releaseImage_refused h)).trans (if_neg (by decide)))

end Sys2Proof.Machine

/-! ### Scrubbing and refresh -/
namespace Sys2Proof.Machine

namespace World

/-- `v` differs from `w` in flagged blocks and their counts alone, and every block that was flagged is. -/
structure Flags (w v : World) : Prop where
  acorn : v.dev.acorn = { w.dev.acorn with flagged := v.dev.acorn.flagged }
  flagged : ∀ b ∈ w.dev.acorn.flagged, b ∈ v.dev.acorn.flagged
  /-- the counts of flagged blocks are the objects from AcornRefreshPending on -/
  rd : ∀ k : OKey, k.key < (oAcornRefreshPending 0).key → v.rd k = w.rd k

theorem Flags.refl (w : World) : Flags w w := ⟨rfl, fun _ h => h, fun _ _ => rfl⟩

theorem Flags.trans {w v u : World} (h1 : Flags w v) (h2 : Flags v u) : Flags w u :=
  ⟨by rw [h2.acorn, h1.acorn], fun b hb => h2.flagged b (h1.flagged b hb), fun k hk => (h2.rd k hk).trans (h1.rd k hk)⟩

/-- A block is flagged and counted once, R124. -/
theorem flagBlock_flags (w : World) (b : Nat) : Flags w (w.flagBlock b) := by
  rw [flagBlock]
  split
  · exact .refl w
  · refine ⟨rfl, fun c hc => mem_setInsert.mpr (.inr hc), fun k hk => rd_wr_other _ (fun e => ?_) _⟩
    simp only [e, oAcornRefreshPending] at hk
    omega

theorem mem_flagged_flagBlock (w : World) (b : Nat) : b ∈ (w.flagBlock b).dev.acorn.flagged := by
  rw [flagBlock]
  split
  · rename_i h
    simpa using h
  · exact mem_setInsert.mpr (.inl rfl)

/-- The scrubber flags the block of every line that it lists. -/
theorem each_flagBlock (w : World) (l : List (Nat × Nat)) :
    Flags w (w.each l (fun w p => w.flagBlock (blockOf (p.1 * 64))))
      ∧ ∀ p ∈ l, blockOf (p.1 * 64) ∈ (w.each l (fun w p => w.flagBlock (blockOf (p.1 * 64)))).dev.acorn.flagged := by
  induction l generalizing w with
  | nil => exact ⟨.refl w, fun p hp => absurd hp List.not_mem_nil⟩
  | cons q t ih =>
    obtain ⟨flags, mem⟩ := ih (w.flagBlock (blockOf (q.1 * 64)))
    refine ⟨(flagBlock_flags w _).trans flags, fun p hp => ?_⟩
    rcases List.mem_cons.mp hp with rfl | hp
    · exact flags.flagged _ (mem_flagged_flagBlock w _)
    · exact mem p hp

/-- The tiles that a pass reads are those of the slots' states and images. -/
theorem storedTiles_of_flags {w v : World} (h : Flags w v) : v.storedTiles = w.storedTiles := by
  have info : ∀ i, v.imageInfo i = w.imageInfo i := fun i => by rw [imageInfo, h.acorn]; rfl
  refine congrArg List.flatten (List.map_congr_left fun i hi => ?_)
  have state : v.slotState i = w.slotState i := by
    have hi' := List.mem_range.mp hi
    rw [slotState, slotState, h.rd _ (by simp only [oAcornImageSlot, oAcornRefreshPending]; omega)]
  simp only [state, info]

/-- The world in which the scrubber has read a stored tile and flagged its weak blocks. -/
def scrubRead (w : World) (pa slot : Nat) (r : MatrixRec) (tr tc : Nat) : World :=
  (w.readStoredTile slot r tr tc pa none (masterId 0xD ((pa - 0x20000000000) / 0x1800000000)) 0x14).2.each
    ((w.lineErrs pa (tileStride ((Fmt.ofCode r.fmt).getD .f32))).filter (fun p => p.2 == 3 || p.2 == 4))
    (fun w p => w.flagBlock (blockOf (p.1 * 64)))

/-- Has the scrubber, this tile read, seen every stored tile (R124)? -/
def passEnds (w : World) (pa : Nat) : Bool := w.storedTiles.all (fun t => (setInsert pa w.dev.acorn.scrubbed).elem t)

/-- The end of a scrub read: a pass that has seen every stored tile counts, and another begins. -/
def scrubSeen (w : World) (pa : Nat) : World :=
  if w.passEnds pa then (w.upAcorn (fun x => { x with scrubbed := [] })).wr oAcornScrubPass (fit 32 (w.rd oAcornScrubPass + 1))
  else w.upAcorn (fun x => { x with scrubbed := setInsert pa w.dev.acorn.scrubbed })

theorem scrubSeen_acorn (w : World) (pa : Nat) : (w.scrubSeen pa).dev.acorn =
    { w.dev.acorn with scrubbed := if w.passEnds pa then [] else setInsert pa w.dev.acorn.scrubbed } := by
  rw [scrubSeen]
  split <;> rfl

theorem rd_scrubSeen_pass (w : World) (pa : Nat) : (w.scrubSeen pa).rd oAcornScrubPass =
    if w.passEnds pa then fit 32 (w.rd oAcornScrubPass + 1) else w.rd oAcornScrubPass := by
  rw [scrubSeen]
  split
  · rw [rd_wr_same]
    exact Nat.mod_eq_of_lt (Nat.lt_trans (fit_lt 32 _) (by decide))
  · rfl

theorem Flags.passEnds {w v : World} (h : Flags w v) (pa : Nat) : v.passEnds pa = w.passEnds pa := by
  rw [World.passEnds, World.passEnds, storedTiles_of_flags h, h.acorn]

theorem scrub_of_tileAt {w : World} {pa slot tr tc : Nat} {r : MatrixRec} (ht : w.tileAt pa = some (slot, r, tr, tc))
    (hp : w.rd oAcornScrubPeriod ≠ 0) (hs : w.slotState slot = 3 ∨ w.slotState slot = 4) :
    w.scrub pa = (w.scrubRead pa slot r tr tc).scrubSeen pa := by
  have run : ¬ (w.rd oAcornScrubPeriod = 0 ∨ (!(decide (w.slotState slot = 3) || decide (w.slotState slot = 4))) = true) := by
    rcases hs with hs | hs <;> simp [hp, hs]
  simp only [scrub, ht]
  rw [if_neg (by simpa using run)]
  rfl

end World

theorem scrubRead_completes (s : State) (pa : BitVec 48) (slot tr tc : Nat) (r : MatrixRec)
    (ht : s.world.tileAt pa.toNat = some (slot, r, tr, tc)) (hp : s.val oAcornScrubPeriod ≠ 0)
    (hs : s.world.slotState slot = 3 ∨ s.world.slotState slot = 4) :
    let w1 := (s.world.readStoredTile slot r tr tc pa.toNat none (masterId 0xD ((pa.toNat - 0x20000000000) / 0x1800000000)) 0x14).2
    let seen := setInsert pa.toNat w1.dev.acorn.scrubbed
    let all := w1.storedTiles.all (fun t => seen.elem t)
    Completes (.scrubRead pa) s (fun t =>
      (∀ x ∈ s.world.lineErrs pa.toNat (tileStride ((Fmt.ofCode r.fmt).getD .f32)), (x.2 = 3 ∨ x.2 = 4) →
        World.blockOf (x.1 * 64) ∈ t.dev.acorn.flagged)
      ∧ (∀ b ∈ w1.dev.acorn.flagged, b ∈ t.dev.acorn.flagged)
      ∧ t.dev.acorn.scrubbed = (if all then [] else seen)
      ∧ t.val oAcornScrubPass = (if all then fit 32 (w1.rd oAcornScrubPass + 1) else w1.rd oAcornScrubPass)
      ∧ t.dev.acorn.images = w1.dev.acorn.images ∧ t.dev.acorn.queues = w1.dev.acorn.queues) := by
  intro w1 seen all
  let weak := (s.world.lineErrs pa.toNat (tileStride ((Fmt.ofCode r.fmt).getD .f32))).filter (fun p => p.2 == 3 || p.2 == 4)
  let w2 := w1.each weak (fun w p => w.flagBlock (World.blockOf (p.1 * 64)))
  obtain ⟨flags, mem⟩ : World.Flags w1 w2 ∧ ∀ p ∈ weak, World.blockOf (p.1 * 64) ∈ w2.dev.acorn.flagged := w1.each_flagBlock weak
  have hrun : s.world.scrub pa.toNat = w2.scrubSeen pa.toNat := World.scrub_of_tileAt ht hp hs
  have ended : w2.passEnds pa.toNat = all := flags.passEnds pa.toNat
  have hdev : (s.run (fun w => w.scrub pa.toNat)).dev = (w2.scrubSeen pa.toNat).dev := by rw [State.run_dev, hrun]
  have acorn : (s.run (fun w => w.scrub pa.toNat)).dev.acorn =
      { w2.dev.acorn with scrubbed := if all then [] else setInsert pa.toNat w2.dev.acorn.scrubbed } := by
    rw [hdev, World.scrubSeen_acorn, ended]
  refine completes_of_done rfl ⟨fun x hx h => ?_, fun b hb => ?_, ?_, ?_, ?_, ?_⟩
  · rw [acorn]
    exact mem x (List.mem_filter.mpr ⟨hx, by simpa using h⟩)
  · rw [acorn]
    exact flags.flagged b hb
  · rw [acorn, flags.acorn]
  · rw [val_of_dev hdev, World.rd_scrubSeen_pass, ended, flags.rd _ (by decide)]
  · rw [acorn, flags.acorn]
  · rw [acorn, flags.acorn]

end Sys2Proof.Machine

/-! ### Refresh -/
namespace Sys2Proof.Machine

namespace World

/-- The keys of AcornRefreshStatus. -/
def refreshStatusKey (key : Nat) : Prop := ∃ j, j < 64 ∧ key = (oAcornRefreshStatus j).key

/-- No object of the field network is one of a refresh's status. -/
theorem fieldNetState_not_refreshStatus : ¬ refreshStatusKey oFieldNetState.key := by
  rintro ⟨j, -, h⟩
  simp only [oFieldNetState, oAcornRefreshStatus] at h
  omega

/-- A refresh that may start is accepted, R420. -/
theorem refreshStart_accepted {w : World} (hr : stIdleOrTerminal (w.rd (oAcornRefreshStatus 0)) = true)
    (hi : stIdleOrTerminal (w.rd (oAcornInstallStatus 0)) = true) : w.refreshStart = (0, w.refreshStart.2) := by
  refine Prod.ext ?_ rfl
  rw [refreshStart, if_neg (by simp [hr, hi])]
  simp only [apply_ite Prod.fst, ite_self]

theorem refreshStart_refused {w : World}
    (h : stIdleOrTerminal (w.rd (oAcornRefreshStatus 0)) = false ∨ stIdleOrTerminal (w.rd (oAcornInstallStatus 0)) = false) :
    w.refreshStart = (0x0405, w) := by
  rw [refreshStart, if_pos]
  rcases h with h | h <;> simp [h]

/-- A refresh with no block to rewrite completes at once. -/
theorem refreshStart_of_noneFlagged {w : World} (hr : stIdleOrTerminal (w.rd (oAcornRefreshStatus 0)) = true)
    (hi : stIdleOrTerminal (w.rd (oAcornInstallStatus 0)) = true) (hf : w.dev.acorn.flagged = []) :
    ∃ v : World, w.refreshStart.2 = v.setOpState (oAcornRefreshStatus 0) 4 0 ∧ v.log = w.log ∧ v.dev.acorn.queues = w.dev.acorn.queues
      ∧ v.rd oFieldNetState = w.rd oFieldNetState := by
  have started := startOp_writes w oAcornRefreshStatus 0x082 2
  generalize hstart : w.startOp oAcornRefreshStatus 0x082 2 = w1 at started
  let w2 := w1.upAcorn (fun x => { x with
    refreshCancel := false, remapped := [], refreshStart := ⟨(List.range 8).map (fun a => (a, 0))⟩ })
  let w3 := w2.each (List.range 8) (fun w a => w.wr (oAcornRefreshStatus (a + 1)) 0)
  have counted : Writes refreshStatusKey w2 w3 := .each w2 (fun v a ha =>
    .wr v ⟨a + 1, by have := List.mem_range.mp ha; omega, rfl⟩ 0)
  have shown : Writes refreshStatusKey w3 ((w3.setOpProgress (oAcornRefreshStatus 0) 0 8).setOpProgress (oAcornRefreshStatus 0) 1000 8) :=
    .trans (.wr _ ⟨0, by decide, rfl⟩ _) (.wr _ ⟨0, by decide, rfl⟩ _)
  have written := counted.trans shown
  refine ⟨(w3.setOpProgress (oAcornRefreshStatus 0) 0 8).setOpProgress (oAcornRefreshStatus 0) 1000 8, ?_, ?_, ?_, ?_⟩
  · rw [refreshStart, if_neg (by simp [hr, hi])]
    simp only [hf, List.filter_nil, List.isEmpty_nil, if_true, List.length_nil, hstart]
    rfl
  · exact written.log.trans started.log
  · rw [written.acorn]
    exact (congrArg AcornSt.queues started.acorn : w1.dev.acorn.queues = w.dev.acorn.queues)
  · rw [written.rd _ fieldNetState_not_refreshStatus]
    exact started.rd _ fieldNetState_not_refreshStatus

theorem refreshCancel_idle {w : World} (h : stIdleOrTerminal (w.rd (oAcornRefreshStatus 0)) = true) :
    w.refreshCancel = (0x000E, w) := if_pos h

/-- A refresh that runs takes its cancel, R420; with no pulse in progress it has ended. -/
theorem refreshCancel_running {w : World} (h : stIdleOrTerminal (w.rd (oAcornRefreshStatus 0)) = false) :
    ∃ v, w.refreshCancel = (0, v) ∧ v.log = w.log ∧ v.rd oFieldNetState = w.rd oFieldNetState
      ∧ (w.dev.acorn.pulse = .empty →
        stState (v.rd (oAcornRefreshStatus 0)) = 6 ∧ v.dev.acorn.queues.vals.all (fun l => l.isEmpty) = true) := by
  let w1 := w.upAcorn (fun x => { x with
    queues := x.queues.mapVals (fun a l => if w.dev.acorn.pulse.has a then l.take 1 else []), refreshCancel := true })
  have hcancel : w.refreshCancel = if w1.dev.acorn.queues.vals.all (fun l => l.isEmpty) then
      (0, (w1.setOpState (oAcornRefreshStatus 0) 6 0).upAcorn (fun x => { x with refreshCancel := false })) else (0, w1) := by
    rw [refreshCancel, if_neg (by simp [h])]
  by_cases hall : w1.dev.acorn.queues.vals.all (fun l => l.isEmpty) = true
  · rw [if_pos hall] at hcancel
    refine ⟨_, hcancel, rfl, ?_, fun _ => ⟨?_, hall⟩⟩
    · rw [rd_upAcorn, (setOpState_writes w1 _ 6 0).rd _ (by decide), rd_upAcorn]
    · rw [rd_upAcorn]
      exact stState_setOpState w1 _ (by decide) 0
  · rw [if_neg hall] at hcancel
    refine ⟨w1, hcancel, rfl, rfl, fun hp => absurd ?_ hall⟩
    simp [w1, AMap.mapVals, AMap.vals, hp, AMap.has]

end World

theorem acornRefreshStart_accepted (s : State) (p : Path) (ht : odTakes s.world p 0x8042 1 1 = true)
    (hr : stIdleOrTerminal (s.val (oAcornRefreshStatus 0)) = true) (hi : stIdleOrTerminal (s.val (oAcornInstallStatus 0)) = true) :
    Performs (.acornRefreshStart p 1) s (fun w => (odAsked w p 0x8042 1 1).refreshStart.2.odFinish p 0 0 [] false)
    ∧ (s.dev.acorn.flagged = [] → Completes (.acornRefreshStart p 1) s (fun t => t.reply p = 0
        ∧ stState (t.val (oAcornRefreshStatus 0)) = 4 ∧ t.dev.acorn.queues = s.dev.acorn.queues ∧ SameMemory s t)) := by
  have asked := askedFrame_of_odTakes ht
  have hr' := (congrArg stIdleOrTerminal (World.rd_congr asked.od (oAcornRefreshStatus 0))).trans hr
  have hi' := (congrArg stIdleOrTerminal (World.rd_congr asked.od (oAcornInstallStatus 0))).trans hi
  have unsaved : odSaved 0x8042 1 = false := by decide +kernel
  have he : World.onOne World.refreshStart (odAsked s.world p 0x8042 1 1) (1 : Word).toNat
      = (0, (odAsked s.world p 0x8042 1 1).refreshStart.2) :=
    World.refreshStart_accepted hr' hi'
  refine ⟨performs_of_eq rfl ((odCommand_unsaved ht unsaved he).trans (if_neg (by decide))), fun hf => ?_⟩
  obtain ⟨v, hv, hlog, hqueues, hnet⟩ := World.refreshStart_of_noneFlagged hr' hi' (by rw [asked.acorn]; exact hf)
  rw [hv] at he
  have ended := odCommand_requestEnded ht unsaved he (by decide) (hlog.trans asked.log)
  refine completes_of_done rfl ⟨ended.reply_of_odTakes ht ?_, ?_, ?_, ended.memory⟩
  · rw [(World.setOpState_writes v _ 4 0).rd _ (by decide), hnet, World.rd_congr asked.od]
  · rw [ended.val]
    exact World.stState_setOpState v _ (by decide) 0
  · rw [ended.acorn, (World.setOpState_writes v _ 4 0).acorn, hqueues, asked.acorn]
    rfl

theorem acornRefreshStart_refused (s : State) (p : Path) (ht : odTakes s.world p 0x8042 1 1 = true)
    (h : stIdleOrTerminal (s.val (oAcornRefreshStatus 0)) = false ∨ stIdleOrTerminal (s.val (oAcornInstallStatus 0)) = false) :
    Completes (.acornRefreshStart p 1) s (fun t =>
      t.reply p = 0x0405 ∧ t.dev.od = s.dev.od ∧ t.dev.acorn = s.dev.acorn ∧ SameMemory s t) := by
  have asked := askedFrame_of_odTakes ht
  refine odCommand_refuses (effect := World.onOne World.refreshStart) rfl ht (by decide +kernel) (World.refreshStart_refused ?_) (by decide)
  rw [World.rd_congr asked.od, World.rd_congr asked.od]
  exact h

/-- A cancel of a refresh takes effect in the next tick, R420 and R425. -/
theorem cancelRefresh_takesEffect (s : State) (p : Path) (hn : s.val oFieldNetState ≠ 2) :
    let t := s.run (fun w => w.dueAct (.cancelRefresh p))
    (stIdleOrTerminal (s.val (oAcornRefreshStatus 0)) = true →
      t.reply p = 0x000E ∧ t.dev.od = s.dev.od ∧ t.dev.acorn = s.dev.acorn ∧ SameMemory s t)
    ∧ (stIdleOrTerminal (s.val (oAcornRefreshStatus 0)) = false → t.reply p = 0 ∧ SameMemory s t
      ∧ (s.dev.acorn.pulse = .empty → stState (t.val (oAcornRefreshStatus 0)) = 6
        ∧ t.dev.acorn.queues.vals.all (fun l => l.isEmpty) = true)) := by
  intro t
  refine ⟨fun h => ?_, fun h => ?_⟩
  · have ended : RequestEnded s t p 0x000E s.world :=
      requestEnded_of_odFinish (by rw [World.dueAct, World.refreshCancel_idle h]) rfl
    exact ⟨ended.reply fun _ => hn, ended.od, ended.acorn, ended.memory⟩
  · obtain ⟨v, hv, hlog, hnet, hend⟩ := World.refreshCancel_running (w := s.world) h
    have ended : RequestEnded s t p 0 v := requestEnded_of_odFinish (by rw [World.dueAct, hv]) hlog
    refine ⟨ended.reply fun _ => hnet ▸ hn, ended.memory, fun hp => ?_⟩
    rw [ended.val, ended.acorn]
    exact hend hp

/-- Settles O41: one law per command; a request goes through `odCommand_unsaved` and `odCommand_requestEnded`, a repair table through
`repairEffect_of_pending`, a scrub read through `scrub_of_tileAt`. -/
theorem acornTablesAndImages : Obligations.AcornTablesAndImages :=
  ⟨huskOverlayCommit_performs, acornRepairCommit_performs, overlayTableEffect_performs,
    fun s p hp => ⟨repairTableEffect_completes s p hp, repairTableEffect_invalid s p hp⟩,
    huskActiveImageWrite_performs, huskActiveImageWrite_refused, slotReturnResident_completes, acornImageRelease_performs,
    scrubRead_completes,
    fun s p ht => ⟨acornRefreshStart_accepted s p ht, acornRefreshStart_refused s p ht⟩,
    fun _ _ ht => cancelDue_deferred rfl ht (by decide +kernel), cancelRefresh_takesEffect⟩

end Sys2Proof.Machine

/-! ### Installation -/
namespace Sys2Proof.Machine

namespace World

@[simp] theorem slotState_upAcorn (w : World) (f : AcornSt → AcornSt) (i : Nat) : (w.upAcorn f).slotState i = w.slotState i := rfl

/-- The keys of AcornInstallStatus. -/
def installStatusKey (key : Nat) : Prop := ∃ j, j < 64 ∧ key = (oAcornInstallStatus j).key

/-- No object of the field network is one of an installation's status. -/
theorem fieldNetState_not_installStatus : ¬ installStatusKey oFieldNetState.key := by
  rintro ⟨j, -, h⟩
  simp only [oFieldNetState, oAcornInstallStatus] at h
  omega

/-- No image slot is one of an installation's status. -/
theorem imageSlot_not_installStatus (i : Nat) : ¬ installStatusKey (oAcornImageSlot i).key := by
  rintro ⟨j, hj, h⟩
  simp only [oAcornImageSlot, oAcornInstallStatus] at h
  omega

/-- Writing a partial record of an installation. -/
theorem writes_installStatus (w : World) {j : Nat} (hj : j < 64) (x : Nat) :
    Writes installStatusKey w (w.wr (oAcornInstallStatus j) x) := .wr w ⟨j, hj, rfl⟩ x

theorem Writes.ite {keys : Nat → Prop} {w v u : World} {c : Prop} [Decidable c] (hv : Writes keys w v) (hu : Writes keys w u) :
    Writes keys w (if c then v else u) := by
  split
  · exact hv
  · exact hu

/-- The partial records and PROGRESS of an installation are its status alone, R130 and R131. -/
theorem installProgress_writes (w : World) : Writes installStatusKey w w.installProgress := by
  rw [installProgress]
  split
  · exact .refl w
  · refine .trans (.trans (.trans (.each w fun v a ha => ?_) (writes_installStatus _ (by decide) _)) (.ite ?_ (.refl _)))
      (writes_installStatus _ (by decide) _)
    · exact writes_installStatus v (by have := List.mem_range.mp ha; omega) _
    · exact writes_installStatus _ (by decide) _

/-- What the end of an installation leaves, R130 and R133. -/
structure InstallEnded (w v : World) (state reason : Nat) : Prop where
  log : v.log = w.log
  state : stState (v.rd (oAcornInstallStatus 0)) = state
  reason : fld (v.rd (oAcornInstallStatus 0)) 16 16 = reason
  install : v.dev.acorn.install = InstallSt.init
  images : v.dev.acorn.images = w.dev.acorn.images
  slot : w.slotState w.dev.acorn.install.slot = 1 → v.slotState w.dev.acorn.install.slot = 2
  rd : ∀ k : OKey, k.key ≠ (oAcornInstallStatus 0).key → (∀ i, k.key ≠ (oAcornImageSlot i).key) → v.rd k = w.rd k

theorem installEnd_ended (w : World) {state reason : Nat} (hs : state < 16) (hr : reason < 65536) :
    InstallEnded w (w.installEnd state reason) state reason := by
  have worded := setOpState_writes w (oAcornInstallStatus 0) state reason
  have hst := stState_setOpState w (oAcornInstallStatus 0) hs reason
  have hrs := reason_setOpState w (oAcornInstallStatus 0) state hr
  have key : ∀ i, (oAcornImageSlot i).key ≠ (oAcornInstallStatus 0).key := fun i => by
    simp only [oAcornImageSlot, oAcornInstallStatus]
    omega
  rw [installEnd]
  generalize w.setOpState (oAcornInstallStatus 0) state reason = w1 at worded hst hrs
  have slot : w1.slotState w.dev.acorn.install.slot = w.slotState w.dev.acorn.install.slot := by
    rw [slotState, slotState, worded.rd _ (key _)]
  have slotted : Writes (· = (oAcornImageSlot w.dev.acorn.install.slot).key) w1
      (if w1.slotState w.dev.acorn.install.slot = 1 then w1.setSlotState w.dev.acorn.install.slot 2 else w1) :=
    .ite (setSlotState_writes w1 _ 2) (.refl w1)
  have word := slotted.rd (oAcornInstallStatus 0) (fun e => key _ e.symm)
  exact
    { log := slotted.log.trans worded.log
      state := by rw [rd_upAcorn, word, hst]
      reason := by rw [rd_upAcorn, word, hrs]
      install := rfl
      images := by rw [upAcorn_dev, slotted.acorn, worded.acorn]
      slot := fun h1 => by
        rw [slotState_upAcorn, if_pos (slot.trans h1), slotState_setSlotState_same w1 _ (by decide)]
      rd := fun k hk hi => by rw [rd_upAcorn, slotted.rd k (hi _), worded.rd k hk] }

theorem installStart_accepted {w : World} (h : stIdleOrTerminal (w.rd (oAcornInstallStatus 0)) = true)
    (ht : w.slotTakes (w.rd oAcornInstallSlot) = true) :
    w.installStart = (0, (w.startOp oAcornInstallStatus 0x081 2).upInstall (fun _ =>
      { InstallSt.init with slot := w.rd oAcornInstallSlot, lastData := w.now })) := by
  rw [installStart, if_neg (by simp [h, ht])]

theorem installStart_refused {w : World}
    (h : stIdleOrTerminal (w.rd (oAcornInstallStatus 0)) = false ∨ w.slotTakes (w.rd oAcornInstallSlot) = false) :
    w.installStart = (0x0405, w) := by
  rw [installStart, if_pos]
  rcases h with h | h <;> simp [h]

/-- Does the signature of a manifest verify under a key that AcornSigningKey lists, R129? -/
def manifestSigned (w : World) (mb sb : List Byte) : Bool :=
  w.signerListed (Config.sha384 (Config.manifestOf mb).key) && Config.p384Verify (Config.manifestOf mb).key (Config.sha384 mb) sb

/-- Is another image being installed into the slot than the one that it lacks in part, R130? -/
def otherImage (w : World) (m : Manifest) : Bool :=
  w.slotState w.dev.acorn.install.slot == 2 && w.slotImage w.dev.acorn.install.slot != m.image

/-- Where an image goes, R125 and R130: where its slot has it in part, else in a free extent. -/
def installPlace (w : World) (m : Manifest) : Option Nat :=
  if w.slotState w.dev.acorn.install.slot == 2 then some (w.imageInfo w.dev.acorn.install.slot).base
  else w.freeExtent w.dev.acorn.install.slot m.extent

/-- An installation ends for what its manifest shows, R131. -/
def manifestFails (w : World) (reason : Nat) : World := (w.wr (oAcornInstallStatus 9) (reason * 2 ^ 48)).installEnd 5 reason

/-- The slot takes its image, R130. -/
def manifestTaken (w : World) (m : Manifest) (base : Nat) : World :=
  let slot := w.dev.acorn.install.slot
  let info : ImageInfo := ⟨base, m.extent, manifestRecords m, m.chunks,
    if w.slotState slot == 2 then (w.imageInfo slot).written else []⟩
  let w1 := (w.wr (oAcornImageSlot slot) (2 ^ 60 + m.image)).upAcorn (fun a => { a with images := a.images.put slot info })
  let w2 := (w1.upInstall (fun i => { i with
    manifest := some m, before := ⟨(List.range 8).map (fun a => (a, blocksDone info a))⟩,
    old := info.written, lastData := w.now })).installProgress
  if imageDone info then w2.installDone else w2

/-- The checks of a manifest in their order, R130. -/
theorem manifestVerified_of_awaited {w : World} {mb sb : List Byte} (hi : w.installing = true)
    (hm : w.dev.acorn.install.manifest = none) :
    w.manifestVerified mb sb =
      if w.manifestSigned mb sb = false then w.manifestFails 0x0403
      else if manifestValid (Config.manifestOf mb) = false then w.manifestFails 0x040F
      else if w.otherImage (Config.manifestOf mb) = true then w.manifestFails 0x0405
      else match w.installPlace (Config.manifestOf mb) with
        | none => w.manifestFails 0x0406
        | some base => w.manifestTaken (Config.manifestOf mb) base := by
  rw [manifestVerified, if_neg (by simp [hi, hm])]
  simp only [← Bool.not_and, Bool.not_eq_true', manifestSigned, otherImage, installPlace]
  rfl

end World

/-- An installation that a manifest's check ends, seen from the state after it. -/
theorem installManifestVerified_fails {s : State} {mb sb : List Byte} {reason : Nat} (hr : reason < 65536)
    (h : s.world.manifestVerified mb sb = s.world.manifestFails reason) :
    Completes (.installManifestVerified mb sb) s (fun t => SameMemory s t
      ∧ stState (t.val (oAcornInstallStatus 0)) = 5 ∧ fld (t.val (oAcornInstallStatus 0)) 16 16 = reason
      ∧ t.val (oAcornInstallStatus 9) = reason * 2 ^ 48 ∧ t.dev.acorn.install = InstallSt.init
      ∧ t.dev.acorn.images = s.dev.acorn.images) := by
  have ended := (s.world.wr (oAcornInstallStatus 9) (reason * 2 ^ 48)).installEnd_ended (state := 5) (by decide) hr
  refine completes_of_effect rfl h (ended.log.trans rfl) fun t ht hmem => ⟨hmem, ?_, ?_, ?_, ?_, ?_⟩
  · rw [val_of_dev ht]
    exact ended.state
  · rw [val_of_dev ht]
    exact ended.reason
  · have other : ∀ i, (oAcornInstallStatus 9).key ≠ (oAcornImageSlot i).key := fun i => by
      simp only [oAcornInstallStatus, oAcornImageSlot]
      omega
    rw [val_of_dev ht]
    refine (ended.rd _ (by decide) other).trans ((World.rd_wr_same _ _ _).trans (Nat.mod_eq_of_lt ?_))
    omega
  · rw [ht]
    exact ended.install
  · rw [ht]
    exact ended.images

/-- Each check that fails ends the installation with its reason; a manifest that passes gives the slot its image (R130). -/
theorem installManifestVerified_outcome (s : State) (mb sb : List Byte) (hi : s.world.installing = true)
    (hm : s.dev.acorn.install.manifest = none) :
    let m := Config.manifestOf mb
    let fails (reason : Nat) : Prop := s.world.manifestVerified mb sb = s.world.manifestFails reason
    (s.world.manifestSigned mb sb = false → fails 0x0403)
    ∧ (s.world.manifestSigned mb sb = true → World.manifestValid m = false → fails 0x040F)
    ∧ (s.world.manifestSigned mb sb = true → World.manifestValid m = true → s.world.otherImage m = true → fails 0x0405)
    ∧ (s.world.manifestSigned mb sb = true → World.manifestValid m = true → s.world.otherImage m = false →
        s.world.installPlace m = none → fails 0x0406)
    ∧ ∀ base, s.world.manifestSigned mb sb = true → World.manifestValid m = true → s.world.otherImage m = false →
        s.world.installPlace m = some base → s.world.manifestVerified mb sb = s.world.manifestTaken m base := by
  intro m fails
  have checks := World.manifestVerified_of_awaited (w := s.world) (mb := mb) (sb := sb) hi hm
  have signed (h1 : s.world.manifestSigned mb sb = true) := checks.trans (if_neg (by simp [h1]))
  have valid h1 (h2 : World.manifestValid m = true) := (signed h1).trans (if_neg (by simp [m, h2]))
  have sameImage h1 h2 (h3 : s.world.otherImage m = false) := (valid h1 h2).trans (if_neg (by simp [m, h3]))
  refine ⟨fun h1 => checks.trans (if_pos h1), fun h1 h2 => (signed h1).trans (if_pos h2), fun h1 h2 h3 => (valid h1 h2).trans (if_pos h3),
    fun h1 h2 h3 h4 => (sameImage h1 h2 h3).trans ?_, fun base h1 h2 h3 h4 => (sameImage h1 h2 h3).trans ?_⟩
  all_goals rw [h4]

/-- A start into a slot that takes the file begins an installation, R130. -/
theorem acornInstallStart_accepted (s : State) (p : Path) (ht : odTakes s.world p 0x8010 6 1 = true)
    (hi : stIdleOrTerminal (s.val (oAcornInstallStatus 0)) = true) (hs : s.world.slotTakes (s.val oAcornInstallSlot) = true) :
    Completes (.acornInstallStart p 1) s (fun t => t.reply p = 0 ∧ stState (t.val (oAcornInstallStatus 0)) = 2
      ∧ t.dev.acorn.install = { InstallSt.init with slot := s.val oAcornInstallSlot, lastData := s.dev.time.tick }
      ∧ t.dev.acorn.images = s.dev.acorn.images ∧ t.dev.acorn.queues = s.dev.acorn.queues ∧ SameMemory s t) := by
  obtain ⟨ws, hasked⟩ := odAsked_of_odTakes ht
  have asked := askedFrame_of_odTakes ht
  have rd := World.rd_congr asked.od
  have takes : (odAsked s.world p 0x8010 6 1).slotTakes ((odAsked s.world p 0x8010 6 1).rd oAcornInstallSlot) = true := by
    rw [hasked]
    exact hs
  have he : World.onOne World.installStart (odAsked s.world p 0x8010 6 1) (1 : Word).toNat = _ :=
    World.installStart_accepted ((congrArg stIdleOrTerminal (rd _)).trans hi) takes
  have started := World.startOp_writes (odAsked s.world p 0x8010 6 1) oAcornInstallStatus 0x081 2
  have word := World.stState_startOp (odAsked s.world p 0x8010 6 1) oAcornInstallStatus (op := 0x081) (st := 2) (by decide) (by decide)
  generalize (odAsked s.world p 0x8010 6 1).startOp oAcornInstallStatus 0x081 2 = w1 at he started word
  have ended := odCommand_requestEnded ht (by decide +kernel) he (by decide) (started.log.trans asked.log)
  refine completes_of_done rfl ⟨ended.reply_of_odTakes ht ?_, ?_, ?_, ?_, ?_, ended.memory⟩
  · exact (started.rd _ World.fieldNetState_not_installStatus).trans (rd _)
  · rw [ended.val]
    exact word
  · rw [ended.acorn, rd, asked.tick]
    rfl
  · rw [ended.acorn]
    exact (congrArg AcornSt.images (started.acorn.trans asked.acorn) : w1.dev.acorn.images = s.dev.acorn.images)
  · rw [ended.acorn]
    exact (congrArg AcornSt.queues (started.acorn.trans asked.acorn) : w1.dev.acorn.queues = s.dev.acorn.queues)

theorem acornInstallStart_refused (s : State) (p : Path) (ht : odTakes s.world p 0x8010 6 1 = true)
    (h : stIdleOrTerminal (s.val (oAcornInstallStatus 0)) = false ∨ s.world.slotTakes (s.val oAcornInstallSlot) = false) :
    Completes (.acornInstallStart p 1) s (fun t =>
      t.reply p = 0x0405 ∧ t.dev.od = s.dev.od ∧ t.dev.acorn = s.dev.acorn ∧ SameMemory s t) := by
  obtain ⟨ws, hasked⟩ := odAsked_of_odTakes ht
  refine odCommand_refuses (effect := World.onOne World.installStart) rfl ht (by decide +kernel) (World.installStart_refused ?_) (by decide)
  rw [hasked]
  exact h

/-- A chunk staged at `place`, R130. -/
def World.chunkStaged (w : World) (n place : Nat) (data : List Byte) : World :=
  (w.store (World.stagingBase + place * 0x4000000) data).upInstall (fun i => { i with
    received := setInsert n i.received, lastData := w.now, staged := w.chunksStaged.put n place })

/-- A staged chunk forwarded to the successor `down`, R132: once the way to it is lost, no more is sent. -/
def World.chunkForwarded (w : World) (lost : Bool) (down n : Nat) (data : List Byte) : World :=
  if down = 0xFFFF ∨ lost = true then w
  else if w.reachable down then (w.sendTo down 7 0 0 0x44 n data).upInstall (fun i => { i with forwarded := i.forwarded + 1 })
  else w.upInstall (fun i => { i with downLost := true })

/-- A chunk that is awaited and has room is staged, forwarded, and checked as it stands there. -/
theorem World.chunkReceived_of_awaited {w : World} {n place : Nat} {data : List Byte} {m : Manifest} {c : ChunkEnt}
    (hm : w.dev.acorn.install.manifest = some m) (hc : m.chunks[n]? = some c) (hi : w.installing = true)
    (hx : w.dev.acorn.install.cancelling = false) (hr : w.dev.acorn.install.received.elem n = false)
    (hp : w.stagingPlace = some place) (hd : data.length = 256 * c.length) {w1 : World}
    (h1 : w1 = (w.chunkStaged n place data).chunkForwarded w.dev.acorn.install.downLost (w.rd oAcornInstallDownstream) n data) :
    w.chunkReceived n data =
      let src := stagingBase + place * 0x4000000
      let r := w1.readStored src data.length 0
      if r.anyBad || Config.sha384 r.data != c.digest then w1.installEnd 5 0x0404
      else (w1.addJobs c.stack (chunkJobs (w1.imageInfo w.dev.acorn.install.slot) n c src)).installProgress := by
  subst h1
  simp only [chunkReceived, hm, hp, hc, hi, hx, hr, hd, Bool.not_true, Bool.or_self, bne_self_eq_false, Bool.false_eq_true, if_false]
  rfl

theorem installChunk_performs (s : State) (n place : Nat) (data : List Byte) (m : Manifest) (c : ChunkEnt)
    (hm : s.dev.acorn.install.manifest = some m) (hc : m.chunks[n]? = some c) (hi : s.world.installing = true)
    (hx : s.dev.acorn.install.cancelling = false) (hr : s.dev.acorn.install.received.elem n = false)
    (hp : s.world.stagingPlace = some place) (hd : data.length = 256 * c.length) :
    let src := World.stagingBase + place * 0x4000000
    let w0 := s.world.chunkStaged n place data
    let down := s.val oAcornInstallDownstream
    ∀ w1, (down = 0xFFFF → w1 = w0) →
      (down ≠ 0xFFFF → s.dev.acorn.install.downLost = false → w0.reachable down = true →
        w1 = (w0.sendTo down 7 0 0 0x44 n data).upInstall (fun i => { i with forwarded := i.forwarded + 1 })) →
      (down ≠ 0xFFFF → s.dev.acorn.install.downLost = false → w0.reachable down = false →
        w1 = w0.upInstall (fun i => { i with downLost := true })) →
      (down ≠ 0xFFFF → s.dev.acorn.install.downLost = true → w1 = w0) →
      let r := w1.readStored src data.length 0
      ((r.anyBad = true ∨ Config.sha384 r.data ≠ c.digest) → Performs (.installChunk n data) s (fun _ => w1.installEnd 5 0x0404))
      ∧ (r.anyBad = false → Config.sha384 r.data = c.digest → Performs (.installChunk n data) s (fun _ =>
          (w1.addJobs c.stack (World.chunkJobs (w1.imageInfo s.dev.acorn.install.slot) n c src)).installProgress)) := by
  intro src w0 down w1 hnone hsent hunreached hlost r
  have forwarded : w1 = w0.chunkForwarded s.dev.acorn.install.downLost down n data := by
    rw [World.chunkForwarded]
    by_cases hdown : down = 0xFFFF
    · rw [if_pos (.inl hdown), hnone hdown]
    cases hl : s.dev.acorn.install.downLost with
    | true => rw [if_pos (.inr rfl), hlost hdown hl]
    | false =>
      rw [if_neg (by simp [hdown])]
      cases hreach : w0.reachable down with
      | true => rw [if_pos rfl, hsent hdown hl hreach]
      | false => rw [if_neg (by decide), hunreached hdown hl hreach]
  have received := World.chunkReceived_of_awaited (w := s.world) hm hc hi hx hr hp hd forwarded
  refine ⟨fun hbad => ?_, fun hgood hsum => ?_⟩
  · exact performs_of_eq rfl (received.trans (if_pos (by simpa using hbad)))
  · exact performs_of_eq rfl (received.trans (if_neg (by simpa using ⟨hgood, hsum⟩)))

/-- The end of a write pulse with no reset running, R134: a page verified, a longer pulse, or a failure. -/
theorem writePulseEnd_performs (s : State) (a : Fin 8) (k : Nat) (j : WriteJob) (q : List WriteJob)
    (hk : s.dev.acorn.pulse.get? a.val = some k) (hq : s.dev.acorn.queues.getD a.val [] = j :: q)
    (hreset : s.dev.resets.seqs.has 16 = false) :
    Performs (.writePulseEnd a true) s (fun w => ((w.pageDone a.val j).startPulse a.val).downReady)
    ∧ (k < 3 → Performs (.writePulseEnd a false) s (fun w =>
        (w.upAcorn (fun x => { x with pulse := if w.mayPulse then x.pulse.put a.val (k + 1) else x.pulse.del a.val })).downReady))
    ∧ (3 ≤ k → Performs (.writePulseEnd a false) s (fun w => (w.jobFails a.val j).downReady)) := by
  have ends : ∀ verified, s.world.pulseEnd a.val verified =
      if verified then (s.world.pageDone a.val j).startPulse a.val
      else if k < 3 then
        s.world.upAcorn (fun x => { x with pulse := if s.world.mayPulse then x.pulse.put a.val (k + 1) else x.pulse.del a.val })
      else s.world.jobFails a.val j := fun verified => by
    simp only [World.pulseEnd, State.world_dev, hk, hq, hreset, Bool.false_eq_true, if_false]
  refine ⟨?_, fun hlt => ?_, fun hge => ?_⟩
  · exact performs_of_eq rfl (congrArg World.downReady (ends true))
  · exact performs_of_eq rfl (congrArg World.downReady ((ends false).trans (if_pos hlt)))
  · exact performs_of_eq rfl (congrArg World.downReady ((ends false).trans (if_neg (Nat.not_lt.mpr hge))))

/-- Upstream silence ends an installation, R133. -/
theorem installUpstreamTimeout_completes (s : State) (hi : s.world.installing = true) (hsrc : s.val oAcornInstallSource = 0)
    (hall : ∀ m, s.dev.acorn.install.manifest = some m → s.dev.acorn.install.received.length ≠ m.chunks.length)
    (hlate : s.dev.acorn.install.lastData + s.val oAcornInstallTimeout ≤ s.dev.time.tick) :
    Completes .installUpstreamTimeout s (fun t => stState (t.val (oAcornInstallStatus 0)) = 5
      ∧ fld (t.val (oAcornInstallStatus 0)) 16 16 = 0x040D ∧ t.dev.acorn.install = InstallSt.init
      ∧ (s.world.slotState s.dev.acorn.install.slot = 1 → t.world.slotState s.dev.acorn.install.slot = 2)
      ∧ t.dev.acorn.images = s.dev.acorn.images ∧ SameMemory s t) := by
  have progress := s.world.installProgress_writes
  have ended := s.world.installProgress.installEnd_ended (state := 5) (reason := 0x040D) (by decide) (by decide)
  have slot : s.world.installProgress.dev.acorn.install.slot = s.dev.acorn.install.slot := by rw [progress.acorn]; rfl
  have hrun : s.world.installTimeout = s.world.installProgress.installEnd 5 0x040D := by
    rw [World.installTimeout, if_pos]
    cases hm : s.world.dev.acorn.install.manifest with
    | none => simpa [hi] using ⟨hsrc, decide_eq_true hlate⟩
    | some m => simpa [hi] using ⟨⟨hsrc, hall m hm⟩, decide_eq_true hlate⟩
  refine completes_of_effect rfl hrun (ended.log.trans progress.log) fun t ht hmem => ⟨?_, ?_, ?_, fun h1 => ?_, ?_, hmem⟩
  · rw [val_of_dev ht, ended.state]
  · rw [val_of_dev ht, ended.reason]
  · rw [ht, ended.install]
  · rw [World.slotState_congr (v := t.world) (congrArg Dev.od ht), ← slot]
    refine ended.slot ?_
    rw [slot, World.slotState, progress.rd _ (World.imageSlot_not_installStatus _)]
    exact h1
  · rw [ht, ended.images, progress.acorn]
    rfl

theorem World.installCancel_idle {w : World} (h : stIdleOrTerminal (w.rd (oAcornInstallStatus 0)) = true) :
    w.installCancel = (0x000E, w) := if_pos h

/-- What an installation that runs does with its cancel, R133: the writes that wait are dropped, and the installation ends with
the last that is in progress; with no pulse in progress none is. -/
theorem World.installCancel_running {w : World} (h : stIdleOrTerminal (w.rd (oAcornInstallStatus 0)) = false) :
    ∃ v, w.installCancel = (0, v) ∧ v.log = w.log ∧ v.rd oFieldNetState = w.rd oFieldNetState
      ∧ (w.dev.acorn.pulse = .empty → stState (v.rd (oAcornInstallStatus 0)) = 6) := by
  obtain ⟨w1, hcancel, hlog, hod, hdropped⟩ : ∃ w1 : World,
      w.installCancel = (if (w1.dev.acorn.queues.vals.flatten).all (fun q => q.refresh) then (0, w1.installEnd 6 0) else (0, w1))
      ∧ w1.log = w.log ∧ w1.dev.od = w.dev.od
      ∧ (w.dev.acorn.pulse = .empty → (w1.dev.acorn.queues.vals.flatten).all (fun q => q.refresh) = true) := by
    refine ⟨_, if_neg (by simp [h]), rfl, rfl, fun hp => ?_⟩
    refine List.all_eq_true.mpr fun x hx => ?_
    obtain ⟨l, hl, hxl⟩ := List.mem_flatten.mp hx
    simp only [upInstall, upAcorn_dev, AMap.vals, AMap.mapVals, List.map_map, List.mem_map, Function.comp_apply, hp] at hl
    obtain ⟨p, -, rfl⟩ := hl
    split at hxl
    · rw [if_neg (by simp [AMap.has])] at hxl
      exact (List.mem_filter.mp hxl).2
    · exact absurd hxl List.not_mem_nil
  by_cases hall : (w1.dev.acorn.queues.vals.flatten).all (fun q => q.refresh) = true
  · have ended := w1.installEnd_ended (state := 6) (reason := 0) (by decide) (by decide)
    refine ⟨_, hcancel.trans (if_pos hall), ended.log.trans hlog, ?_, fun _ => ended.state⟩
    have other : ∀ i, oFieldNetState.key ≠ (oAcornImageSlot i).key := fun i => by
      simp only [oFieldNetState, oAcornImageSlot]
      omega
    rw [ended.rd _ (by decide) other, rd_congr hod]
  · exact ⟨_, hcancel.trans (if_neg hall), hlog, rd_congr hod _, fun hp => absurd (hdropped hp) hall⟩

/-- A cancel of an installation takes effect in the next tick, R133 and R425. -/
theorem cancelInstall_takesEffect (s : State) (p : Path) (hn : s.val oFieldNetState ≠ 2) :
    let t := s.run (fun w => w.dueAct (.cancelInstall p))
    (stIdleOrTerminal (s.val (oAcornInstallStatus 0)) = true →
      t.reply p = 0x000E ∧ t.dev.od = s.dev.od ∧ t.dev.acorn = s.dev.acorn ∧ SameMemory s t)
    ∧ (stIdleOrTerminal (s.val (oAcornInstallStatus 0)) = false → t.reply p = 0 ∧ SameMemory s t
      ∧ (s.dev.acorn.pulse = .empty → stState (t.val (oAcornInstallStatus 0)) = 6)) := by
  intro t
  refine ⟨fun h => ?_, fun h => ?_⟩
  · have ended : RequestEnded s t p 0x000E s.world :=
      requestEnded_of_odFinish (by rw [World.dueAct, World.installCancel_idle h]) rfl
    exact ⟨ended.reply fun _ => hn, ended.od, ended.acorn, ended.memory⟩
  · obtain ⟨v, hv, hlog, hnet, hend⟩ := World.installCancel_running (w := s.world) h
    have ended : RequestEnded s t p 0 v := requestEnded_of_odFinish (by rw [World.dueAct, hv]) hlog
    refine ⟨ended.reply fun _ => hnet ▸ hn, ended.memory, fun hp => ?_⟩
    rw [ended.val]
    exact hend hp

/-- Settles O42: one law per command; the manifest's checks go through `manifestVerified_of_awaited`, every end of an installation
through `installEnd_ended`. -/
theorem installationSteps : Obligations.InstallationSteps := by
  refine ⟨fun s p ht => ⟨acornInstallStart_accepted s p ht, acornInstallStart_refused s p ht⟩, fun s mb sb hi hm => ?_,
    installChunk_performs, fun s a k j q hk hq hreset => writePulseEnd_performs s a k j q hk hq hreset,
    installUpstreamTimeout_completes, fun _ _ ht => cancelDue_deferred rfl ht (by decide +kernel), cancelInstall_takesEffect⟩
  obtain ⟨signature, consistent, image, room, taken⟩ := installManifestVerified_outcome s mb sb hi hm
  exact ⟨fun h1 => installManifestVerified_fails (by decide) (signature h1),
    fun h1 h2 => installManifestVerified_fails (by decide) (consistent h1 h2),
    fun h1 h2 h3 => installManifestVerified_fails (by decide) (image h1 h2 h3),
    fun h1 h2 h3 h4 => installManifestVerified_fails (by decide) (room h1 h2 h3 h4),
    fun base h1 h2 h3 h4 => performs_of_eq rfl (taken base h1 h2 h3 h4)⟩

end Sys2Proof.Machine

/-! ### What no access and no fault changes: the present tick -/
namespace Sys2Proof.Machine

namespace World

theorem now_ite {c : Prop} [Decidable c] (w v : World) : (if c then w else v).now = if c then w.now else v.now :=
  apply_ite World.now c w v

/-! The parts of the device. -/

@[simp] theorem now_wr (w : World) (k : OKey) (v : Nat) : (w.wr k v).now = w.now := rfl
@[simp] theorem now_inc (w : World) (k : OKey) (n : Nat) : (w.inc k n).now = w.now := rfl
@[simp] theorem now_push (w : World) (op : MemOp) : (w.push op).now = w.now := rfl
@[simp] theorem now_upFaults (w : World) (f : FaultSt → FaultSt) : (w.upFaults f).now = w.now := rfl
@[simp] theorem now_upResets (w : World) (f : ResetSt → ResetSt) : (w.upResets f).now = w.now := rfl
@[simp] theorem now_upFabric (w : World) (f : FabricSt → FabricSt) : (w.upFabric f).now = w.now := rfl
@[simp] theorem now_upAcorn (w : World) (f : AcornSt → AcornSt) : (w.upAcorn f).now = w.now := rfl
@[simp] theorem now_setRec (w : World) (src : Nat) (r : FaultRec) : (w.setRec src r).now = w.now := rfl
@[simp] theorem now_setEngine (w : World) (m : Nat) (e : Engine) : (w.setEngine m e).now = w.now := rfl
@[simp] theorem now_setOpState (w : World) (k : OKey) (st rs : Nat) : (w.setOpState k st rs).now = w.now := rfl

/-- An iteration whose steps keep the tick keeps it. -/
theorem now_each {α : Type} {l : List α} {f : World → α → World} (h : ∀ w a, (f w a).now = w.now) (w : World) :
    (w.each l f).now = w.now :=
  each_keeps (P := fun v => v.now = w.now) rfl (fun v a _ hv => (h v a).trans hv)

/-- So does one that also gathers what its steps answer. -/
theorem now_foldl {α β : Type} {l : List α} {f : β × World → α → β × World} (h : ∀ st a, (f st a).2.now = st.2.now)
    (st : β × World) : (l.foldl f st).2.now = st.2.now := by
  induction l generalizing st with
  | nil => rfl
  | cons a t ih => exact (ih (f st a)).trans (h st a)

/-! The fabric. -/

@[simp] theorem now_setLink (w : World) (k : Nat) (l : LinkSt) : (w.setLink k l).now = w.now := rfl
@[simp] theorem now_dirRaise (w : World) (d t : Nat) : (w.dirRaise d t).now = w.now := rfl
@[simp] theorem now_newSeq (w : World) (dest sh dh vc : Nat) : (w.newSeq dest sh dh vc).2.now = w.now := rfl
@[simp] theorem now_message (w : World) (dest vc sh dh kind addr reason : Nat) (payload : List Byte) :
    (w.message dest vc sh dh kind addr reason payload).2.now = w.now := rfl

@[simp] theorem now_post (w : World) (m : Msg) : (w.post m).now = w.now := by
  rw [post]
  split <;> rfl

@[simp] theorem now_postNack (w : World) (m : Msg) (reason : Nat) : (w.postNack m reason).now = w.now := now_post _ _

theorem now_of_sendOn {w v : World} {k : Nat} {f : Flit} (h : w.sendOn k f = some v) : v.now = w.now := by
  rw [sendOn] at h
  split at h
  · cases h
    rfl
  · cases h

theorem now_of_forward {w v : World} {f : Flit} {port : Option Nat} (h : w.forward f port = some v) : v.now = w.now := by
  simp only [forward] at h
  split at h
  · split at h
    · cases h
      simp [now_ite]
    · split at h
      · cases h
      · split at h
        · cases h
        · rename_i sent
          cases h
          simp [now_ite, now_of_sendOn sent]
  · split at h
    · split at h
      · cases h
      · cases h
        rfl
    · split at h
      · split at h <;> (cases h; rfl)
      · split at h
        · cases h
        · rename_i sent
          cases h
          simp [now_ite, now_of_sendOn sent]

@[simp] theorem now_leaveBuffer (w : World) (k : Nat) (f : Flit) : (w.leaveBuffer k f).now = w.now := by
  simp [leaveBuffer, now_ite]

theorem now_forwardAll {left : World → Flit → World} (hleft : ∀ w f, (left w f).now = w.now) (w : World) (fs : List Flit)
    (port : Option Nat) : (w.forwardAll fs port left).2.now = w.now := by
  refine now_foldl (fun st f => ?_) _
  split
  · rfl
  · split
    · rfl
    · rename_i went
      exact (hleft _ f).trans (now_of_forward went)

@[simp] theorem now_wakeDirs (w : World) : w.wakeDirs.now = w.now := by
  simp only [wakeDirs]
  split
  · rfl
  · exact now_each (fun w d => by simp [now_ite]) w

@[simp] theorem now_pump (w : World) : w.pump.now = w.now := by
  rw [pump, now_wakeDirs]
  refine (now_each (fun w k => ?_) _).trans ?_
  · dsimp only
    split
    · rfl
    · exact (now_setLink _ _ _).trans (now_forwardAll (fun w f => now_leaveBuffer w k f) _ _ _)
  · exact now_forwardAll (fun _ _ => rfl) _ _ _

@[simp] theorem now_linkDropped (w : World) (k : Nat) : (w.linkDropped k).now = w.now := by
  simp [linkDropped]

@[simp] theorem now_sendTo (w : World) (dest vc sh dh kind addr : Nat) (payload : List Byte) :
    (w.sendTo dest vc sh dh kind addr payload).now = w.now := by
  simp [sendTo, sendMsg]

@[simp] theorem now_sendLinkStatus (w : World) : w.sendLinkStatus.now = w.now := by
  refine now_each (fun w d => ?_) { w with dev := { w.dev with fabric := { w.dev.fabric with lastStatus := w.now } } }
  split
  · simp [now_ite]
  · rfl

@[simp] theorem now_linksDrain (w : World) : w.linksDrain.now = w.now := by
  rw [linksDrain, now_sendLinkStatus, now_upFabric]
  exact now_each (fun w k => by simp [now_ite]) w

/-! Notifications, resets and the ladder. -/

@[simp] theorem now_msix (w : World) (fn vec : Nat) : (w.msix fn vec).now = w.now := by
  simp only [msix]
  split
  · rfl
  · split
    · rfl
    · split
      · split <;> rfl
      · rfl

@[simp] theorem now_msixPf (w : World) (vec : Nat) : (w.msixPf vec).now = w.now := by simp [msixPf]
@[simp] theorem now_msixHusk (w : World) (h vec : Nat) : (w.msixHusk h vec).now = w.now := by simp [msixHusk]
@[simp] theorem now_pldmEvent (w : World) (e : PldmEvent) : (w.pldmEvent e).now = w.now := rfl
@[simp] theorem now_beginStep (w : World) (action target bound : Nat) : (w.beginStep action target bound).now = w.now := rfl
@[simp] theorem now_stepFails (w : World) (st : LadderStep) : (w.stepFails st).now = w.now := rfl
@[simp] theorem now_bumpEpoch (w : World) (k : OKey) : (w.bumpEpoch k).now = w.now := rfl
@[simp] theorem now_epochNotice (w : World) (h node : Nat) : (w.epochNotice h node).now = w.now := now_sendTo _ _ _ _ _ _ _ _
@[simp] theorem now_fwDrop (w : World) : w.fwDrop.now = w.now := rfl
@[simp] theorem now_resetRecord (w : World) (key : Nat) (r : ResetSeq) : (w.resetRecord key r).now = w.now := rfl

@[simp] theorem now_stepsOvertaken (w : World) (scope : Nat) : (w.stepsOvertaken scope).now = w.now := by
  simp [stepsOvertaken, now_ite]

@[simp] theorem now_stopTimer (w : World) (h : Nat) : (w.stopTimer h).now = w.now := by
  simp [stopTimer, now_ite]

@[simp] theorem now_abandonOp (w : World) (k : OKey) (reason : Nat) : (w.abandonOp k reason).now = w.now := by
  simp [abandonOp, now_ite]

@[simp] theorem now_fence (w : World) (src : Nat) : (w.fence src).now = w.now := by
  rw [fence]
  split <;> rfl

@[simp] theorem now_turnAbandon (w : World) (h reason : Nat) : (w.turnAbandon h reason).now = w.now := by
  rw [turnAbandon]
  split
  · rfl
  · split
    · rfl
    · simp only [now_ite, now_wr, ite_self]
      rfl

@[simp] theorem now_huskFirstStep (w : World) (h reason : Nat) : (w.huskFirstStep h reason).now = w.now := by
  have told (v : World) (l : List Nat) : (v.each l (fun w n => w.epochNotice h n)).now = v.now :=
    now_each (fun w n => now_epochNotice w h n) v
  simp [huskFirstStep, now_ite, told]

@[simp] theorem now_moduleFirstStep (w : World) (scope : Nat) : (w.moduleFirstStep scope).now = w.now := by
  have husks (v : World) : (v.each allHusks (fun w h => w.huskFirstStep h (scopeReason scope))).now = v.now :=
    now_each (fun w h => now_huskFirstStep w h _) v
  have noted (v : World) (x : Option Nat) : ({ v with dev := { v.dev with snapshot := x } } : World).now = v.now := rfl
  simp [moduleFirstStep, now_ite, husks, noted]

@[simp] theorem now_firstStep (w : World) (scope target : Nat) : (w.firstStep scope target).now = w.now := by
  rw [firstStep.eq_def]
  split
  · simp
  · rfl
  · rfl
  · simp only [now_ite, now_upResets, now_wr, now_moduleFirstStep, ite_self]

@[simp] theorem now_startSeq (w : World) (scope target source master cause faultSource restarts : Nat) (deferred : Bool) :
    (w.startSeq scope target source master cause faultSource restarts deferred).now = w.now := by
  simp only [startSeq]
  split
  · split <;> simp
  · simp

@[simp] theorem now_beginReset (w : World) (scope target source master cause faultSource : Nat) :
    (w.beginReset scope target source master cause faultSource).now = w.now := by
  simp [beginReset, now_ite]

@[simp] theorem now_climb (w : World) (action src : Nat) : (w.climb action src).now = w.now := by
  simp only [climb]
  split
  · simp [now_ite]
  · split
    · simp
    · split
      · simp
      · split <;> simp
      all_goals simp

@[simp] theorem now_severeAction (w : World) (src : Nat) : (w.severeAction src).now = w.now := by
  rw [severeAction]
  split
  · simp [now_ite]
  · split <;> simp [now_ite]

@[simp] theorem now_fatalAction (w : World) (src : Nat) : (w.fatalAction src).now = w.now := by
  simp [fatalAction]

/-- An error event changes no tick, whatever reset it begins (R450 to R458). -/
@[simp] theorem now_reportFault (w : World) (f : FaultReport) : (w.reportFault f).now = w.now := by
  simp only [reportFault]
  split
  · split
    · simp [now_ite]
    · simp [now_ite]
  · simp [now_ite]

@[simp] theorem now_contained (w : World) (h master access reason address : Nat) :
    (w.contained h master access reason address).now = w.now := now_reportFault _ _

@[simp] theorem now_containedOf (w : World) (husk : Option Nat) (master access reason address : Nat) :
    (w.containedOf husk master access reason address).now = w.now := by
  cases husk <;> exact now_reportFault _ _

@[simp] theorem now_correctedOpen (w : World) (src master access address : Nat) :
    (w.correctedOpen src master access address).now = w.now := now_reportFault _ _

/-! Reads and writes of memory. -/

@[simp] theorem now_mirrorHeal (w : World) (a n : Nat) (other : Nat → Nat) : (w.mirrorHeal a n other).now = w.now := by
  refine now_each (fun v l => ?_) w
  simp only [now_ite, now_reportFault, now_correctedOpen]
  simp only [now, ite_self]

@[simp] theorem now_rekey (w : World) (a n key : Nat) : (w.rekey a n key).now = w.now :=
  now_each (fun v l => by simp [now_ite]) w

@[simp] theorem now_markWritten (w : World) (a : Nat) (bad : List Bool) : (w.markWritten a bad).now = w.now :=
  now_each (fun v g => by simp [now_ite]) w

@[simp] theorem now_writeStored (w : World) (a : Nat) (data : List Byte) (bad : List Bool) (key : Nat) :
    (w.writeStored a data bad key).now = w.now := by
  have sound (v : World) (l : List Nat) : ({ v with dev := { v.dev with badLines := l } } : World).now = v.now := rfl
  simp [writeStored, now_ite, sound]

@[simp] theorem now_translate (w : World) (h va : Nat) (need : Need) : (w.translate h va need).2.now = w.now := by
  simp only [translate]
  repeat' split
  all_goals rfl

@[simp] theorem now_reach (w : World) (h master acc : Nat) (need : Need) (va : Nat) :
    (w.reach h master acc need va).2.now = w.now := by
  have translated := now_translate w h va need
  rw [reach]
  split
  · rename_i e
    rwa [e] at translated
  · rename_i e
    rw [e] at translated
    exact (now_contained _ _ _ _ _ _).trans translated

@[simp] theorem now_reportBadLines (w : World) (husk : Option Nat) (master acc a n : Nat) :
    (w.reportBadLines husk master acc a n).now = w.now := by
  rw [reportBadLines]
  split <;> simp

@[simp] theorem now_tilePoisoned (w : World) (e : PoisonEnt) (husk : Option Nat) (master acc pa : Nat) :
    (w.tilePoisoned e husk master acc pa).now = w.now := by
  simp [tilePoisoned]

@[simp] theorem now_readStoredTile (w : World) (slot : Nat) (r : MatrixRec) (tr tc pa : Nat) (husk : Option Nat) (master acc : Nat) :
    (w.readStoredTile slot r tr tc pa husk master acc).2.now = w.now := by
  rw [readStoredTile]
  split
  · rfl
  · dsimp only
    split
    · rfl
    · split <;> simp [now_ite]

@[simp] theorem now_readWindow (w : World) (husk : Option Nat) (acc a n : Nat) : (w.readWindow husk acc a n).2.now = w.now := by
  refine now_foldl (fun st t => ?_) _
  exact now_readStoredTile _ _ _ _ _ _ _ _ _

@[simp] theorem now_readPiece (w : World) (husk : Option Nat) (master acc a n key : Nat) :
    (w.readPiece husk master acc a n key).2.now = w.now := by
  rw [readPiece]
  split
  · rfl
  · simp
  · simp
  · split <;> simp
  · split
    · simp
    · split <;> simp
  · simp

@[simp] theorem now_writePiece (w : World) (husk : Option Nat) (master acc a : Nat) (data : List Byte) (bad : List Bool) (key : Nat) :
    (w.writePiece husk master acc a data bad key).2.now = w.now := by
  rw [writePiece]
  split
  · simp
  · simp
  · simp [now_ite]
  · split
    · simp
    · split <;> simp
  · simp

@[simp] theorem now_readPhys (w : World) (husk : Option Nat) (master acc a n key : Nat) :
    (w.readPhys husk master acc a n key).2.now = w.now := by
  refine now_foldl (fun st p => ?_) _
  exact now_readPiece _ _ _ _ _ _ _

@[simp] theorem now_readVirt (w : World) (h master acc va n : Nat) : (w.readVirt h master acc va n).2.now = w.now := by
  refine now_foldl (fun st p => ?_) _
  have reached := now_reach st.2 h master acc .rd p.1
  split
  · rename_i e
    rwa [e] at reached
  · rename_i e
    rw [e] at reached
    exact (now_readPiece _ _ _ _ _ _ _).trans reached

@[simp] theorem now_writeVirt (w : World) (h master acc va : Nat) (data : List Byte) (bad : List Bool) :
    (w.writeVirt h master acc va data bad).2.now = w.now := by
  refine now_foldl (fun st p => ?_) _
  have reached := now_reach st.2 h master acc .wr p.1
  split
  · rename_i e
    rwa [e] at reached
  · rename_i e
    rw [e] at reached
    exact (now_writePiece _ _ _ _ _ _ _ _).trans reached

/-! Operands and tiles. -/

@[simp] theorem now_consumed (w : World) (c : Ctx) (va : Nat) (r : Rd) : (w.consumed c va r).now = w.now := by
  simp [consumed, now_ite]

@[simp] theorem now_readRow (w : World) (c : Ctx) (f : Fmt) (va n : Nat) : (w.readRow c f va n).2.now = w.now := by
  simp [readRow, now_ite]

@[simp] theorem now_readRows (w : World) (c : Ctx) (f : Fmt) (va ld rows n : Nat) : (w.readRows c f va ld rows n).2.now = w.now := by
  refine now_foldl (fun st i => ?_) _
  exact now_readRow _ _ _ _ _

@[simp] theorem now_writeRow (w : World) (c : Ctx) (f : Fmt) (va : Nat) (vals : List Val) (bad : List Bool) (rs : List Rounding) :
    (w.writeRow c f va vals bad rs).now = w.now := by
  simp [writeRow, now_ite]

@[simp] theorem now_nmuWrite (w : World) (c : Ctx) (cmd addr ld : Nat) (fmt : Fmt) (o : NmuOut) :
    (w.nmuWrite c cmd addr ld fmt o).now = w.now :=
  now_each (fun _ _ => now_writeRow _ _ _ _ _ _ _) w

@[simp] theorem now_readOverlayTile (w : World) (h : Nat) (e : OverlayEnt) (r : MatrixRec) (master acc : Nat) :
    (w.readOverlayTile h e r master acc).2.now = w.now := by
  rw [readOverlayTile]
  split
  · rfl
  · simp only [apply_ite Prod.snd, now_ite, ite_self, now_readVirt, now_readPhys, now_mirrorHeal]

@[simp] theorem now_useTile (w : World) (h slot : Nat) (r : MatrixRec) (acc : Nat) (t : Nat × Nat) :
    (w.useTile h slot r acc t).2.now = w.now := by
  simp only [useTile]
  split
  · rfl
  · split
    · simp
    · split <;> simp

@[simp] theorem now_useTiles (w : World) (h slot : Nat) (r : MatrixRec) (acc : Nat) (ts : List (Nat × Nat)) :
    (w.useTiles h slot r acc ts).2.now = w.now := by
  refine now_foldl (fun st t => ?_) _
  exact now_useTile _ _ _ _ _ _

@[simp] theorem now_nmuCompute (w : World) (c : Ctx) (cmd slot : Nat) (r : MatrixRec) (set : Option ChainSet) :
    (w.nmuCompute c cmd slot r set).1.now = w.now := by
  simp [nmuCompute, now_ite, apply_ite Prod.snd]

/-- An NMU command runs within its tick. -/
@[simp] theorem now_nmuRun (w : World) (c : Ctx) (cmd slot : Nat) (r : MatrixRec) : (w.nmuRun c cmd slot r).1.now = w.now := by
  simp [nmuRun, now_ite, apply_ite Prod.fst]

end World

end Sys2Proof.Machine

/-! ### NMU commands -/
namespace Sys2Proof.Machine

namespace World

theorem blockTake_of_taken {w w1 : World} {s q : Fin 16} {op cmd : Nat} (h : w.takeEntry (w.blockRing s q) (fun x => cmdOp x == op) = some (cmd, w1))
    (f : World → Ctx → Nat → World) : w.blockTake s q op f = f w1 (w1.ctx (w.blockRing s q)) cmd := by
  simp only [blockTake, h]

theorem nmuTake_rejected {w : World} {c : Ctx} {cmd reason : Nat} (h : w.nmuCheck c cmd = .inl reason) :
    w.nmuTake c cmd = w.rejected c cmd reason (nmuSpans cmd) := by
  simp only [nmuTake, h]

/-- The entry of an NMU command that has run, with its outcome (R112, R113). -/
def nmuEntered (w : World) (c : Ctx) (cmd slot : Nat) (m : MatrixRec) : World :=
  let (w1, wait, st, rs, aux) := w.nmuRun c cmd slot m
  w1.enterTaken c ⟨cmd, cmdTag cmd, st, rs, wait, c.husk, c.canonical, c.key, w1.now, w1.now, 0, [], aux⟩

/-- An NMU command that passes its checks and waits for nothing runs, within its tick. -/
theorem nmuTake_runs {w : World} {c : Ctx} {cmd slot : Nat} {m : MatrixRec} (h : w.nmuCheck c cmd = .inr (slot, m))
    (hheld : w.stacksHeld m (nTr0 cmd) (nTrCount cmd) = false)
    (hset : gCinit cmd ≠ 3 ∨ (w.engine c.master).sets.isEmpty = false) : w.nmuTake c cmd = w.nmuEntered c cmd slot m := by
  have waits : ¬ (gCinit cmd = 3 ∧ (w.engine c.master).sets.isEmpty = true) := by
    rintro ⟨h3, hempty⟩
    rcases hset with h | h
    · exact h h3
    · simp [hempty] at h
  simp only [nmuTake, h, hheld, Bool.false_eq_true, if_false, if_neg waits, nmuEntered, now_nmuRun]

end World

/-- What the commands of one opcode do: `i` takes them with `nmuTake`. -/
theorem nmuCommand_performs {s : State} {sl : Fin 16} {op cmd : Nat} {i : Instr} {w1 : World}
    (hi : exec i s = s.done (fun w => w.blockTake sl 12 op World.nmuTake))
    (ready : s.world.takeEntry (s.world.blockRing sl 12) (fun x => cmdOp x == op) = some (cmd, w1)) :
    let c := w1.ctx (s.world.blockRing sl 12)
    (∀ slot m, w1.nmuCheck c cmd = .inr (slot, m) → w1.stacksHeld m (nTr0 cmd) (nTrCount cmd) = false →
      (gCinit cmd ≠ 3 ∨ (w1.engine c.master).sets.isEmpty = false) → Performs i s (fun _ => w1.nmuEntered c cmd slot m))
    ∧ ∀ reason, w1.nmuCheck c cmd = .inl reason → Performs i s (fun _ => w1.rejected c cmd reason (World.nmuSpans cmd)) := by
  intro c
  have taken := World.blockTake_of_taken ready World.nmuTake
  refine ⟨fun slot m hok hheld hset => ?_, fun reason hbad => ?_⟩
  · exact performs_of_eq hi (taken.trans (World.nmuTake_runs hok hheld hset))
  · exact performs_of_eq hi (taken.trans (World.nmuTake_rejected hbad))

/-- A NOP finishes; one with a reserved bit set is rejected (R111). -/
theorem nmuNop_performs {s : State} {sl : Fin 16} {cmd : Nat} {w1 : World}
    (ready : s.world.takeEntry (s.world.blockRing sl 12) (fun x => cmdOp x == 0) = some (cmd, w1)) :
    let c := w1.ctx (s.world.blockRing sl 12)
    (nReserved cmd = true → Performs (.nmuNop sl) s (fun _ => w1.finished c cmd 0 0))
    ∧ (nReserved cmd = false → Performs (.nmuNop sl) s (fun _ => w1.finished c cmd 1 0x0003)) := by
  intro c
  have taken := World.blockTake_of_taken ready (World.nopTake nReserved)
  refine ⟨fun h => ?_, fun h => ?_⟩
  · exact performs_of_eq rfl (taken.trans (if_pos h))
  · exact performs_of_eq rfl (taken.trans (if_neg (by simp [h])))

/-- Settles O40: the three opcodes are taken alike, and none of what runs changes the tick of its entry (`now_nmuRun`). -/
theorem nmuCommands : Obligations.NmuCommands := by
  intro s sl cmd w1 r ready c runs
  exact ⟨fun h => (nmuNop_performs h).1, fun h => (nmuNop_performs h).2, nmuCommand_performs rfl, nmuCommand_performs rfl,
    nmuCommand_performs rfl⟩

end Sys2Proof.Machine
end

section
/-! PROOFS. The statements of the memory tiers (O43, O44, O45), after the laws that they rest on. -/

/-! ### Tier 3 accesses in flight -/
namespace Sys2Proof.Machine

/-- A command whose effect leaves the world leaves the state. -/
theorem exec_eq_next_of_eq {c : Instr} {s : State} {g : World → World} (hc : exec c s = s.done g) (h : g s.world = s.world) :
    exec c s = .next s := by
  rw [hc, State.done_eq, State.run, h]
  rfl

/-- Two effects that agree on the state's world are the same effect of a command. -/
theorem Performs.congr {c : Instr} {s : State} {f g : World → World} (hc : Performs c s f) (h : f s.world = g s.world) :
    Performs c s g :=
  performs_of_eq (Eq.trans hc (State.done_eq s f).symm) h

namespace World

/-- The world in which an access is no longer in flight. -/
def t3Gone (w : World) (id : Nat) : World := { w with dev := { w.dev with t3 := w.dev.t3.del id } }

/-- An outcome stands that is not clean, or that meets no lost line (R473). -/
theorem lostOutcome_stands {w : World} (a : T3Access) {o : HostOutcome} (h : o ≠ .clean ∨ w.dev.lostLines = []) :
    w.lostOutcome a o = (o, w) := by
  by_cases ho : o = .clean
  · have hl := h.resolve_left (not_not_intro ho)
    have same : ({ w with dev := { w.dev with lostLines := [] } } : World) = w := by rw [← hl]
    cases a.write <;> simp [lostOutcome, hl, same]
  · exact if_pos ho

/-- A unit's own access, or a pip's to an NC page, ends as its outcome says. -/
theorem tier3End_of_pip {w : World} {id : Nat} {a : T3Access} {o : HostOutcome} (ha : w.dev.t3.get? id = some a) (hu : a.user = 0)
    (h : o ≠ .clean ∨ w.dev.lostLines = []) : w.tier3End id o = (w.t3Gone id).pipTier3End a o := by
  have stands : (w.t3Gone id).lostOutcome a o = (o, w.t3Gone id) := lostOutcome_stands a h
  simp only [t3Gone] at stands
  simp only [tier3End, ha, stands, hu, t3Gone]

/-- A read that completes with poison answers all-poisoned data, counted and recorded (R146). -/
theorem pipTier3End_poisonedRead (w : World) {a : T3Access} (hr : a.write = false) :
    w.pipTier3End a .poison =
      (let w1 := (w.contained a.husk a.master 1 0x0204 a.addr).inc (oTier3Poisoned a.port) 1
       let r : AccessResult := ⟨(List.range a.len).map (fun i => Config.poisonByte (a.addr + i)), List.replicate a.len true, true⟩
       { w1 with dev := { w1.dev with access := w1.dev.access.put a.master r } }) := by
  simp only [pipTier3End, hr, Bool.false_eq_true, if_false, Rd.poison]

/-- A read of an NC page that completes answers what stands in host memory (R90, R146). -/
theorem pipTier3End_cleanRead (w : World) {a : T3Access} (hr : a.write = false) (hcoh : a.coh = 0) :
    w.pipTier3End a .clean =
      (let r := w.readStored a.addr a.len 0
       { w with dev := { w.dev with access := w.dev.access.put a.master ⟨r.data, r.bad, true⟩ } }) := by
  simp only [pipTier3End, hr, hcoh, Bool.false_eq_true, if_true, if_false]

/-- A write of an NC page that is acknowledged stands in host memory (R90, R146). -/
theorem pipTier3End_cleanWrite (w : World) {a : T3Access} (hw : a.write = true) (hcoh : a.coh = 0) :
    w.pipTier3End a .clean = w.writeStored a.addr a.data (List.replicate a.data.length false) 0 := by
  simp only [pipTier3End, hw, hcoh, if_true]

end World

section
variable {s : State} {port : Fin 2} {id : Nat} {a : T3Access}

theorem tier3CompletionTimeout_performs (ha : s.dev.t3.get? id = some a) (hp : a.port = port.val) :
    Performs (.tier3CompletionTimeout port id) s (fun w => w.tier3End id .unreachable) :=
  performs_of_eq rfl (by simp only [State.world_dev, ha, if_pos hp])

theorem tier3ReadCompletion_performs (ha : s.dev.t3.get? id = some a) (hp : a.port = port.val) (hr : a.write = false) (o : HostOutcome) :
    Performs (.tier3ReadCompletion port id o) s (fun w => w.tier3End id o) :=
  performs_of_eq rfl (by simp [ha, hp, hr])

theorem tier3WriteAck_performs (ha : s.dev.t3.get? id = some a) (hp : a.port = port.val) (hw : a.write = true) (acked : Bool) :
    Performs (.tier3WriteAck port id acked) s (fun w => w.tier3End id (if acked then .clean else .unreachable)) :=
  performs_of_eq rfl (by simp [ha, hp, hw])

end

theorem tier3Answers_ignored {s : State} {id : Nat} (h : s.dev.t3.get? id = none) (port : Fin 2) (o : HostOutcome) (acked : Bool) :
    exec (.tier3ReadCompletion port id o) s = .next s ∧ exec (.tier3CompletionTimeout port id) s = .next s
      ∧ exec (.tier3WriteAck port id acked) s = .next s := by
  refine ⟨exec_eq_next_of_eq rfl ?_, exec_eq_next_of_eq rfl ?_, exec_eq_next_of_eq rfl ?_⟩
  all_goals simp only [State.world_dev, h]

/-- Settles O45: each answer ends the access of its number, and `tier3End_of_pip` says what a unit's own access then gets. -/
theorem tier3AccessesEnd : Obligations.Tier3AccessesEnd := by
  intro s port id
  refine ⟨fun a ha hp => ⟨tier3CompletionTimeout_performs ha hp, tier3ReadCompletion_performs ha hp, fun hr hu => ?_,
    fun hr hu hcoh hlost => ?_, fun hw hu hcoh hlost => ?_, fun hw => ⟨?_, ?_⟩⟩, fun h o acked => tier3Answers_ignored h port o acked⟩
  · have ends := World.tier3End_of_pip (w := s.world) (o := .poison) ha hu (.inl (by decide))
    exact (tier3ReadCompletion_performs ha hp hr .poison).congr (ends.trans (World.pipTier3End_poisonedRead _ hr))
  · have ends := World.tier3End_of_pip (w := s.world) (o := .clean) ha hu (.inr hlost)
    exact (tier3ReadCompletion_performs ha hp hr .clean).congr (ends.trans (World.pipTier3End_cleanRead _ hr hcoh))
  · have ends := World.tier3End_of_pip (w := s.world) (o := .clean) ha hu (.inr hlost)
    exact (tier3WriteAck_performs ha hp hw true).congr (ends.trans (World.pipTier3End_cleanWrite _ hw hcoh))
  · exact tier3WriteAck_performs ha hp hw true
  · exact tier3WriteAck_performs ha hp hw false

end Sys2Proof.Machine

/-! ### Prefetch entries -/
namespace Sys2Proof.Machine

namespace World

/-- An entry that has been issued and waits runs when a step of its kind comes. -/
theorem entryStep_of_issued {w : World} {sl : Fin 16} {er : EntryRef} {x : PfEntry} {kind : Nat}
    (hx : w.entry sl.val (entryNo er) = some x) (hk : pKind x.cmd = kind) (h0 : x.stage = 0) :
    w.entryStep sl er kind = w.entryRun sl.val (entryNo er) := by
  cases er with
  | queue =>
    have hx : w.entry sl.val 0 = some x := hx
    simp only [entryStep, hx]
    exact if_pos ⟨hk, h0⟩
  | run k =>
    have hx : w.entry sl.val (k + 1) = some x := hx
    simp only [entryStep, hx]
    exact if_pos ⟨hk, h0⟩

/-- A command at the head of queue 11 is taken when no command of it is in progress: its entry runs, or its reserved bits end it. -/
theorem entryStep_of_taken {w w1 : World} {sl : Fin 16} {kind cmd : Nat} (hnone : w.entry sl.val 0 = none)
    (h : w.takeEntry (w.blockRing sl 11) (fun x => cmdOp x == kind) = some (cmd, w1)) :
    w.entryStep sl .queue kind =
      (let c := w1.ctx (w.blockRing sl 11)
       if !rsvd cmd 512 512 then w1.finished c cmd 1 0x0003
       else ((w1.waiting c cmd .prefetch []).setPf sl.val
          { w1.pf sl.val with single := some (newEntry (cmd % 2 ^ 512) w1.now 0) }).entryRun sl.val 0) := by
  simp only [entryStep, hnone, blockTake_of_taken h]

/-- With no publication of the slice's update sequencer in progress, a publication's step is an entry's step. -/
theorem publishStep_of_noneOwn {w : World} {sl : Fin 16} {er : EntryRef}
    (h : er = .queue → (w.entry (16 + sl.val) 0).isNone) : w.publishStep sl er = w.entryStep sl er 3 := by
  cases er with
  | queue => simp only [publishStep, Option.isNone_iff_eq_none.mp (h rfl)]
  | run k => rfl

/-- The publication of a slice's update sequencer goes first (R296). -/
theorem publishStep_of_own {w : World} {sl : Fin 16} {x : PfEntry} (hx : w.entry (16 + sl.val) 0 = some x) (h0 : x.stage = 0) :
    w.publishStep sl .queue = (w.publishStart (16 + sl.val) 0).entryStep sl .queue 3 := by
  simp only [publishStep, hx, if_pos h0]

theorem publishStart_first {w : World} {i n : Nat} {x : PfEntry} (hx : w.entry i n = some x) (h : w.earlierPublish i n x = false) :
    w.publishStart i n = carryOn carryFuel (w.setEntry i n { x with stage := 12 }) i n := by
  simp only [publishStart, hx, h, Bool.false_eq_true, if_false]

theorem publishStart_delayed {w : World} {i n : Nat} {x : PfEntry} (hx : w.entry i n = some x) (h : w.earlierPublish i n x = true) :
    w.publishStart i n = w := by
  simp only [publishStart, hx, h, if_true]

/-- What an entry that passes its checks does, by its kind (R149 to R160). -/
def kindRun (w : World) (i n : Nat) (x : PfEntry) : World :=
  match pKind x.cmd with
  | 1 => carryOn carryFuel (w.setEntry i n { x with stage := 2 }) i n
  | 2 => carryOn carryFuel (w.setEntry i n { x with stage := 1 }) i n
  | 3 => w.publishStart i n
  | 6 => (w.releaseHolds i).entryEnds i n 0
  | _ => w.poolRun i n

/-- What an ensure or a pin does about its object, R159 and R160; `load` is what it does where the object must be loaded. -/
def ensureStep (w : World) (i n h : Nat) (e : PfEntry) (load : World) : World :=
  let x := w.poolEnt h (pObj e.cmd)
  if w.pinTooMuch h e then w.entryEnds i n 0x0207
  else if x.state = 2 ∧ pMin e.cmd ≤ x.epoch then w.poolFound i n h e
  else if x.state = 1 then
    (w.setPoolEnt h (pfMaster i) (pObj e.cmd) { x with pin := if pKind e.cmd = 5 then w.rd (oHuskPoolTurn h) else x.pin }).modEntry i n
      (fun y => { y with stage := 10 })
  else load

/-- Space is sought; where none is found, the ensure waits as `wait` says (R159, R162). -/
def poolTried (w : World) (i n h : Nat) (wait : World → World) : World :=
  if (w.poolTry i n h).1 then (w.poolTry i n h).2 else wait (w.poolTry i n h).2

/-- How an ensure whose object must be loaded gets its `size` bytes: never, in its turn behind those that wait already, or now (R159,
R162). -/
def poolSpace (w : World) (i n h size : Nat) : World :=
  if w.rd (oHuskPoolBytes h) < size then w.entryEnds i n 0x0207
  else if w.dev.prefetch.poolQueue.getD h [] ≠ [] then w.poolWait i n h
  else w.poolTried i n h (fun u => u.poolWait i n h)

section
variable {w : World} {i n r : Nat} {e : PfEntry} (he : w.entry i n = some e)
include he

theorem entryRun_rejected (h : w.entryFail (w.pfHusk i) i e.cmd = some r) : w.entryRun i n = w.entryRejected i n r e.cmd := by
  simp only [entryRun, he, h]

theorem entryRun_passed (h : w.entryFail (w.pfHusk i) i e.cmd = none) : w.entryRun i n = w.kindRun i n e := by
  simp only [entryRun, he, h]
  rfl

theorem poolRun_eq_ensureStep :
    w.poolRun i n = w.ensureStep i n (w.pfHusk i) e (w.poolSpace i n (w.pfHusk i) (poolSize (pBytes e.cmd))) := by
  simp only [poolRun, he, ensureStep, poolSpace, poolTried]
  cases htry : w.poolTry i n (w.pfHusk i) with
  | mk placed u => cases placed <;> simp

end

section
variable {w w1 : World} {i n h size : Nat} {placed : Bool}

theorem poolTried_of_poolTry (htry : w.poolTry i n h = (placed, w1)) (wait : World → World) :
    w.poolTried i n h wait = if placed then w1 else wait w1 := by
  simp only [poolTried, htry]

theorem poolSpace_tooLarge (hs : w.rd (oHuskPoolBytes h) < size) : w.poolSpace i n h size = w.entryEnds i n 0x0207 := if_pos hs

theorem poolSpace_queued (hs : size ≤ w.rd (oHuskPoolBytes h)) (hq : w.dev.prefetch.poolQueue.getD h [] ≠ []) :
    w.poolSpace i n h size = w.poolWait i n h :=
  (if_neg (Nat.not_lt.mpr hs)).trans (if_pos hq)

theorem poolSpace_tried (hs : size ≤ w.rd (oHuskPoolBytes h)) (hq : w.dev.prefetch.poolQueue.getD h [] = [])
    (htry : w.poolTry i n h = (placed, w1)) : w.poolSpace i n h size = if placed then w1 else w1.poolWait i n h :=
  (if_neg (Nat.not_lt.mpr hs)).trans ((if_neg (not_not_intro hq)).trans (poolTried_of_poolTry htry _))

end

section
variable {w : World} {i n h : Nat} {e : PfEntry} {load : World}

theorem ensureStep_tooMuch (hm : w.pinTooMuch h e = true) : w.ensureStep i n h e load = w.entryEnds i n 0x0207 := if_pos hm

theorem ensureStep_found (hm : w.pinTooMuch h e = false) (h2 : (w.poolEnt h (pObj e.cmd)).state = 2)
    (hep : pMin e.cmd ≤ (w.poolEnt h (pObj e.cmd)).epoch) : w.ensureStep i n h e load = w.poolFound i n h e :=
  (if_neg (by simp [hm])).trans (if_pos ⟨h2, hep⟩)

theorem ensureStep_loading (hm : w.pinTooMuch h e = false) (h1 : (w.poolEnt h (pObj e.cmd)).state = 1) :
    w.ensureStep i n h e load =
      (let x := w.poolEnt h (pObj e.cmd)
       (w.setPoolEnt h (pfMaster i) (pObj e.cmd) { x with pin := if pKind e.cmd = 5 then w.rd (oHuskPoolTurn h) else x.pin }).modEntry i n
        (fun y => { y with stage := 10 })) :=
  (if_neg (by simp [hm])).trans ((if_neg (by simp [h1])).trans (if_pos h1))

theorem ensureStep_absent (hm : w.pinTooMuch h e = false) (h1 : (w.poolEnt h (pObj e.cmd)).state ≠ 1)
    (h2 : (w.poolEnt h (pObj e.cmd)).state ≠ 2 ∨ (w.poolEnt h (pObj e.cmd)).epoch < pMin e.cmd) : w.ensureStep i n h e load = load :=
  (if_neg (by simp [hm])).trans ((if_neg (by omega)).trans (if_neg h1))

/-- The head of a husk's pool queue is served as an ensure is run; where it finds no space it stays the head (R162). -/
theorem poolServe_of_head {rest : List (Nat × Nat)} (hq : w.dev.prefetch.poolQueue.getD h [] = (i, n) :: rest)
    (he : (w.upPf (fun p => { p with poolQueue := p.poolQueue.put h rest })).entry i n = some e) :
    w.poolServe h =
      (let w0 := w.upPf (fun p => { p with poolQueue := p.poolQueue.put h rest })
       w0.ensureStep i n h e
        (w0.poolTried i n h (fun u => u.upPf (fun p => { p with poolQueue := p.poolQueue.put h ((i, n) :: rest) })))) := by
  simp only [poolServe, hq, he, ensureStep, poolTried]
  cases htry : (w.upPf (fun p => { p with poolQueue := p.poolQueue.put h rest })).poolTry i n h with
  | mk placed u => cases placed <;> simp

/-- `ShardPollInterval` after its last read a waiting fetch reads the header again (R150). -/
theorem shardPoll_due (he : w.entry i n = some e) (h4 : e.stage = 4) (hdue : e.since + w.rd oShardPollInterval ≤ w.now) :
    w.shardPoll i n = carryOn carryFuel (w.setEntry i n { e with stage := 1 }) i n := by
  simp only [shardPoll, he]
  exact if_pos ⟨h4, hdue⟩

end
end World

/-- The commands of queue 11 that run an entry, by kind (R149 to R160). -/
def entryCommands (sl : Fin 16) (er : EntryRef) : List (Nat × Instr) :=
  [(1, .copy sl er), (2, .shardFetch sl er), (3, .shardPublish sl er), (4, .poolEnsure sl er), (5, .poolPin sl er), (6, .stepEnd sl er)]

/-- A command of kind `kind` makes the entry's step, a publication when none of the slice's update sequencer stands. -/
theorem performs_of_entryStep {s : State} {sl : Fin 16} {er : EntryRef} {kind : Nat} {i : Instr} {f : World → World}
    (hi : (kind, i) ∈ entryCommands sl er) (own : kind = 3 → er = .queue → (s.world.entry (16 + sl.val) 0).isNone)
    (h : s.world.entryStep sl er kind = f s.world) : Performs i s f := by
  simp only [entryCommands, List.mem_cons, Prod.mk.injEq, List.not_mem_nil, or_false] at hi
  rcases hi with ⟨rfl, rfl⟩ | ⟨rfl, rfl⟩ | ⟨rfl, rfl⟩ | ⟨rfl, rfl⟩ | ⟨rfl, rfl⟩ | ⟨rfl, rfl⟩
  case inr.inr.inl => exact performs_of_eq rfl ((World.publishStep_of_noneOwn (own rfl)).trans h)
  all_goals exact performs_of_eq rfl h

section
variable {s : State} {sl : Fin 16} {er : EntryRef} {x : PfEntry} {kind : Nat} {i : Instr}
  (hx : s.world.entry sl.val (entryNo er) = some x) (h0 : x.stage = 0)
include hx h0

/-- An entry that fails a check ends with the check's reason (R151). -/
theorem entryCommand_rejected (hi : (kind, i) ∈ entryCommands sl er)
    (own : kind = 3 → er = .queue → (s.world.entry (16 + sl.val) 0).isNone) (hk : pKind x.cmd = kind) {r : Nat}
    (hr : s.world.entryFail (s.world.pfHusk sl.val) sl.val x.cmd = some r) :
    Performs i s (fun w => w.entryRejected sl.val (entryNo er) r x.cmd) :=
  performs_of_entryStep hi own ((World.entryStep_of_issued hx hk h0).trans (World.entryRun_rejected hx hr))

variable (hpass : s.world.entryFail (s.world.pfHusk sl.val) sl.val x.cmd = none)
include hpass

theorem entryStep_eq_kindRun (hk : pKind x.cmd = kind) :
    s.world.entryStep sl er kind = s.world.kindRun sl.val (entryNo er) x :=
  (World.entryStep_of_issued hx hk h0).trans (World.entryRun_passed hx hpass)

/-- A COPY, a SHARD_FETCH and a STEP_END begin at once (R149 to R151, R159). -/
theorem copy_performs (hk : pKind x.cmd = 1) : Performs (.copy sl er) s (fun w =>
    World.carryOn World.carryFuel (w.setEntry sl.val (entryNo er) { x with stage := 2 }) sl.val (entryNo er)) :=
  performs_of_eq rfl ((entryStep_eq_kindRun hx h0 hpass hk).trans (by simp only [World.kindRun, hk]))

theorem shardFetch_performs (hk : pKind x.cmd = 2) : Performs (.shardFetch sl er) s (fun w =>
    World.carryOn World.carryFuel (w.setEntry sl.val (entryNo er) { x with stage := 1 }) sl.val (entryNo er)) :=
  performs_of_eq rfl ((entryStep_eq_kindRun hx h0 hpass hk).trans (by simp only [World.kindRun, hk]))

theorem stepEnd_performs (hk : pKind x.cmd = 6) : Performs (.stepEnd sl er) s (fun w =>
    (w.releaseHolds sl.val).entryEnds sl.val (entryNo er) 0) :=
  performs_of_eq rfl ((entryStep_eq_kindRun hx h0 hpass hk).trans (by simp only [World.kindRun, hk]))

/-- A publication begins when no earlier one of its shard is unfinished, and waits otherwise (R149). -/
theorem shardPublish_performs (hk : pKind x.cmd = 3) (own : er = .queue → (s.world.entry (16 + sl.val) 0).isNone) :
    (s.world.earlierPublish sl.val (entryNo er) x = false → Performs (.shardPublish sl er) s (fun w =>
      World.carryOn World.carryFuel (w.setEntry sl.val (entryNo er) { x with stage := 12 }) sl.val (entryNo er)))
    ∧ (s.world.earlierPublish sl.val (entryNo er) x = true → exec (.shardPublish sl er) s = .next s) := by
  have starts : s.world.publishStep sl er = s.world.publishStart sl.val (entryNo er) := by
    rw [World.publishStep_of_noneOwn own, entryStep_eq_kindRun hx h0 hpass hk]
    simp only [World.kindRun, hk]
  exact ⟨fun h => performs_of_eq rfl (starts.trans (World.publishStart_first hx h)),
    fun h => exec_eq_next_of_eq rfl (starts.trans (World.publishStart_delayed hx h))⟩

/-- A POOL_ENSURE and a POOL_PIN do what `World.ensureStep` says (R159, R160). -/
theorem poolCommand_performs (hi : (kind, i) ∈ [(4, Instr.poolEnsure sl er), (5, .poolPin sl er)]) (hk : pKind x.cmd = kind)
    {f : World → World}
    (h : s.world.ensureStep sl.val (entryNo er) (s.world.pfHusk sl.val) x
      (s.world.poolSpace sl.val (entryNo er) (s.world.pfHusk sl.val) (World.poolSize (pBytes x.cmd))) = f s.world) :
    Performs i s f := by
  have listed : (kind, i) ∈ entryCommands sl er := List.mem_of_mem_drop (i := 3) (List.mem_append_left [(6, Instr.stepEnd sl er)] hi)
  have pools : kind = 4 ∨ kind = 5 := (List.mem_cons.mp hi).imp (congrArg Prod.fst) (fun h => congrArg Prod.fst (List.mem_singleton.mp h))
  have ensures : s.world.kindRun sl.val (entryNo er) x = s.world.poolRun sl.val (entryNo er) := by
    rcases pools with h | h <;> simp only [World.kindRun, hk, h]
  refine performs_of_entryStep listed (by omega) ?_
  rw [entryStep_eq_kindRun hx h0 hpass hk, ensures, World.poolRun_eq_ensureStep hx, h]

end

/-- A command at the head of queue 11 is taken, and its entry runs likewise. -/
theorem entryCommand_taken {s : State} {sl : Fin 16} {cmd kind : Nat} {w1 : World} {i : Instr} (hi : (kind, i) ∈ entryCommands sl .queue)
    (hnone : s.world.entry sl.val 0 = none) (own : kind = 3 → (s.world.entry (16 + sl.val) 0).isNone)
    (ready : s.world.takeEntry (s.world.blockRing sl 11) (fun x => cmdOp x == kind) = some (cmd, w1)) :
    let c := w1.ctx (s.world.blockRing sl 11)
    (rsvd cmd 512 512 = false → Performs i s (fun _ => w1.finished c cmd 1 0x0003))
    ∧ (rsvd cmd 512 512 = true → Performs i s (fun _ => ((w1.waiting c cmd .prefetch []).setPf sl.val
        { w1.pf sl.val with single := some (newEntry (cmd % 2 ^ 512) w1.now 0) }).entryRun sl.val 0)) := by
  intro c
  have taken := World.entryStep_of_taken hnone ready
  refine ⟨fun h => ?_, fun h => ?_⟩
  · exact performs_of_entryStep hi (fun h3 _ => own h3) (taken.trans (if_pos (by simp [h])))
  · exact performs_of_entryStep hi (fun h3 _ => own h3) (taken.trans (if_neg (by simp [h])))

/-- Settles O43: a step of an issued entry is `World.kindRun`, a pool's `World.ensureStep`, and one of the queue takes its head. -/
theorem prefetchEntries : Obligations.PrefetchEntries := by
  refine ⟨?_, ?_, ?_⟩
  · intro s sl er x n hx h o e go ownPublish turn
    refine ⟨fun kind i hi own h0 hk r hr => entryCommand_rejected hx h0 hi own hk hr,
      fun h0 hpass => ⟨copy_performs hx h0 hpass, shardFetch_performs hx h0 hpass, shardPublish_performs hx h0 hpass, ?_,
        stepEnd_performs hx h0 hpass⟩,
      fun h4 hdue => performs_of_eq rfl (World.shardPoll_due hx h4 hdue)⟩
    rintro _ i hi rfl
    have does {f : World → World} := poolCommand_performs hx h0 hpass hi rfl (f := f)
    refine ⟨fun hm => does (World.ensureStep_tooMuch hm), fun hm => ⟨fun h2 hep => does (World.ensureStep_found hm h2 hep),
      fun h1 => does (World.ensureStep_loading hm h1), fun h1 h2 => ?_⟩⟩
    have absent := World.ensureStep_absent (i := sl.val) (n := n) (load := s.world.poolSpace sl.val n h (World.poolSize (pBytes x.cmd))) hm h1 h2
    exact ⟨fun hs => does (absent.trans (World.poolSpace_tooLarge hs)),
      fun hs => ⟨fun hq => does (absent.trans (World.poolSpace_queued hs hq)),
        fun hq placed w1 htry => does (absent.trans (World.poolSpace_tried hs hq htry))⟩⟩
  · exact fun s sl cmd w1 kind i hi hnone own ready => entryCommand_taken hi hnone own ready
  · intro s sl x hx h0 hfirst
    refine performs_of_eq rfl ((World.publishStep_of_own hx h0).trans ?_)
    rw [World.publishStart_first hx hfirst]

end Sys2Proof.Machine

/-! ### What no fault and no write of memory changes: what the units hold

One law per operation, as for the present tick above: a reset's first step and a fault's record leave the units alone; only the
later steps of a reset end what they hold (R474). -/
namespace Sys2Proof.Machine

namespace World

/-- What the units that take commands hold: their rings, engines, prefetch entries, pods, attention runs and sequences. -/
def units (w : World) : AMap Ring × AMap Engine × PrefetchSt × PodSt × AMap AttnRun × SeqSt :=
  (w.dev.rings, w.dev.engines, w.dev.prefetch, w.dev.pods, w.dev.attn, w.dev.seqs)

theorem prefetch_of_units {w v : World} (h : v.units = w.units) : v.dev.prefetch = w.dev.prefetch :=
  congrArg (fun u => u.2.2.1) h

theorem units_ite {c : Prop} [Decidable c] (w v : World) : (if c then w else v).units = if c then w.units else v.units :=
  apply_ite World.units c w v

/-! The parts of the device. -/

@[simp] theorem units_wr (w : World) (k : OKey) (v : Nat) : (w.wr k v).units = w.units := rfl
@[simp] theorem units_inc (w : World) (k : OKey) (n : Nat) : (w.inc k n).units = w.units := rfl
@[simp] theorem units_push (w : World) (op : MemOp) : (w.push op).units = w.units := rfl
@[simp] theorem units_upFaults (w : World) (f : FaultSt → FaultSt) : (w.upFaults f).units = w.units := rfl
@[simp] theorem units_upResets (w : World) (f : ResetSt → ResetSt) : (w.upResets f).units = w.units := rfl
@[simp] theorem units_upFabric (w : World) (f : FabricSt → FabricSt) : (w.upFabric f).units = w.units := rfl
@[simp] theorem units_setRec (w : World) (src : Nat) (r : FaultRec) : (w.setRec src r).units = w.units := rfl
@[simp] theorem units_setOpState (w : World) (k : OKey) (st rs : Nat) : (w.setOpState k st rs).units = w.units := rfl
@[simp] theorem units_setLink (w : World) (k : Nat) (l : LinkSt) : (w.setLink k l).units = w.units := rfl
@[simp] theorem units_dirRaise (w : World) (d t : Nat) : (w.dirRaise d t).units = w.units := rfl

/-- An iteration whose steps leave the units leaves them. -/
theorem units_each {α : Type} {l : List α} {f : World → α → World} (h : ∀ w a, (f w a).units = w.units) (w : World) :
    (w.each l f).units = w.units :=
  each_keeps (P := fun v => v.units = w.units) rfl (fun v a _ hv => (h v a).trans hv)

/-- So does one that also gathers what its steps answer. -/
theorem units_foldl {α β : Type} {l : List α} {f : β × World → α → β × World} (h : ∀ st a, (f st a).2.units = st.2.units)
    (st : β × World) : (l.foldl f st).2.units = st.2.units := by
  induction l generalizing st with
  | nil => rfl
  | cons a t ih => exact (ih (f st a)).trans (h st a)

/-! The fabric. -/

@[simp] theorem units_post (w : World) (m : Msg) : (w.post m).units = w.units := by
  rw [post]
  split <;> rfl

@[simp] theorem units_postNack (w : World) (m : Msg) (reason : Nat) : (w.postNack m reason).units = w.units := units_post _ _

theorem units_of_sendOn {w v : World} {k : Nat} {f : Flit} (h : w.sendOn k f = some v) : v.units = w.units := by
  obtain ⟨-, sent⟩ := Option.ite_none_right_eq_some.mp h
  exact Option.some.inj sent ▸ rfl

theorem units_of_forward {w v : World} {f : Flit} {port : Option Nat} (h : w.forward f port = some v) : v.units = w.units := by
  simp only [forward] at h
  split at h
  · split at h
    · cases h
      simp [units_ite]
    · split at h
      · cases h
      · split at h
        · cases h
        · next sent => simp [← Option.some.inj h, units_ite, units_of_sendOn sent]
  · split at h
    · obtain ⟨-, same⟩ := Option.ite_none_left_eq_some.mp h
      rw [← Option.some.inj same]
    · split at h
      · rw [← apply_ite some] at h
        simp [← Option.some.inj h, units_ite]
      · split at h
        · cases h
        · next sent => simp [← Option.some.inj h, units_ite, units_of_sendOn sent]

@[simp] theorem units_leaveBuffer (w : World) (k : Nat) (f : Flit) : (w.leaveBuffer k f).units = w.units := by
  simp [leaveBuffer, units_ite]

theorem units_forwardAll {left : World → Flit → World} (hleft : ∀ w f, (left w f).units = w.units) (w : World) (fs : List Flit)
    (port : Option Nat) : (w.forwardAll fs port left).2.units = w.units := by
  refine units_foldl (fun st f => ?_) _
  split
  · rfl
  · split
    · rfl
    · next went => exact (hleft _ f).trans (units_of_forward went)

@[simp] theorem units_wakeDirs (w : World) : w.wakeDirs.units = w.units := by
  have raised (v : World) (l : List (Flit × Option Nat)) : (v.each (List.range 6) (fun u d =>
      if u.rd (oFabricDirState d) = 2 ∧ l.any (fun p => u.waitsFor p.1 p.2 == some d) then u.dirRaise d 0 else u)).units = v.units :=
    units_each (fun u d => by simp [units_ite]) v
  simp only [wakeDirs, units_ite, raised, ite_self]

@[simp] theorem units_pump (w : World) : w.pump.units = w.units := by
  rw [pump, units_wakeDirs]
  refine (units_each (fun v k => ?_) _).trans (units_forwardAll (fun _ _ => rfl) _ _ _)
  dsimp only
  split
  · rfl
  · exact (units_setLink _ _ _).trans (units_forwardAll (fun u f => units_leaveBuffer u k f) _ _ _)

@[simp] theorem units_linkDropped (w : World) (k : Nat) : (w.linkDropped k).units = w.units := by
  simp [linkDropped]

@[simp] theorem units_sendTo (w : World) (dest vc sh dh kind addr : Nat) (payload : List Byte) :
    (w.sendTo dest vc sh dh kind addr payload).units = w.units := by
  simp [sendTo, sendMsg, message, newSeq]

@[simp] theorem units_sendLinkStatus (w : World) : w.sendLinkStatus.units = w.units := by
  refine units_each (fun w d => ?_) _
  split
  · simp [units_ite]
  · rfl

@[simp] theorem units_linksDrain (w : World) : w.linksDrain.units = w.units := by
  rw [linksDrain, units_sendLinkStatus, units_upFabric]
  exact units_each (fun v k => by simp [units_ite]) w

/-! Notifications, resets and the ladder. -/

@[simp] theorem units_msix (w : World) (fn vec : Nat) : (w.msix fn vec).units = w.units := by
  simp only [msix]
  repeat' split
  all_goals rfl

@[simp] theorem units_msixPf (w : World) (vec : Nat) : (w.msixPf vec).units = w.units := by simp [msixPf]
@[simp] theorem units_msixHusk (w : World) (h vec : Nat) : (w.msixHusk h vec).units = w.units := by simp [msixHusk]
@[simp] theorem units_pldmEvent (w : World) (e : PldmEvent) : (w.pldmEvent e).units = w.units := rfl
@[simp] theorem units_beginStep (w : World) (action target bound : Nat) : (w.beginStep action target bound).units = w.units := rfl
@[simp] theorem units_stepFails (w : World) (st : LadderStep) : (w.stepFails st).units = w.units := rfl
@[simp] theorem units_bumpEpoch (w : World) (k : OKey) : (w.bumpEpoch k).units = w.units := rfl
@[simp] theorem units_epochNotice (w : World) (h node : Nat) : (w.epochNotice h node).units = w.units := units_sendTo _ _ _ _ _ _ _ _
@[simp] theorem units_fwDrop (w : World) : w.fwDrop.units = w.units := rfl
@[simp] theorem units_resetRecord (w : World) (key : Nat) (r : ResetSeq) : (w.resetRecord key r).units = w.units := rfl

@[simp] theorem units_stepsOvertaken (w : World) (scope : Nat) : (w.stepsOvertaken scope).units = w.units := by
  simp [stepsOvertaken, units_ite]

@[simp] theorem units_stopTimer (w : World) (h : Nat) : (w.stopTimer h).units = w.units := by
  simp [stopTimer, units_ite]

@[simp] theorem units_abandonOp (w : World) (k : OKey) (reason : Nat) : (w.abandonOp k reason).units = w.units := by
  simp [abandonOp, units_ite]

@[simp] theorem units_fence (w : World) (src : Nat) : (w.fence src).units = w.units := by
  rw [fence]
  split <;> rfl

@[simp] theorem units_turnAbandon (w : World) (h reason : Nat) : (w.turnAbandon h reason).units = w.units := by
  simp only [turnAbandon]
  repeat' split
  all_goals rfl

@[simp] theorem units_huskFirstStep (w : World) (h reason : Nat) : (w.huskFirstStep h reason).units = w.units := by
  have told (v : World) (l : List Nat) : (v.each l (fun u n => u.epochNotice h n)).units = v.units :=
    units_each (fun u n => units_epochNotice u h n) v
  simp [huskFirstStep, units_ite, told]

@[simp] theorem units_moduleFirstStep (w : World) (scope : Nat) : (w.moduleFirstStep scope).units = w.units := by
  have husks (v : World) : (v.each allHusks (fun u h => u.huskFirstStep h (scopeReason scope))).units = v.units :=
    units_each (fun u h => units_huskFirstStep u h _) v
  have noted (v : World) (x : Option Nat) : ({ v with dev := { v.dev with snapshot := x } } : World).units = v.units := rfl
  simp [moduleFirstStep, units_ite, husks, noted]

@[simp] theorem units_firstStep (w : World) (scope target : Nat) : (w.firstStep scope target).units = w.units := by
  rw [firstStep.eq_def]
  split <;> simp [units_ite]

@[simp] theorem units_startSeq (w : World) (scope target source master cause faultSource restarts : Nat) (deferred : Bool) :
    (w.startSeq scope target source master cause faultSource restarts deferred).units = w.units := by
  simp only [startSeq]
  repeat' split
  all_goals simp

@[simp] theorem units_beginReset (w : World) (scope target source master cause faultSource : Nat) :
    (w.beginReset scope target source master cause faultSource).units = w.units := by
  simp [beginReset, units_ite]

@[simp] theorem units_climb (w : World) (action src : Nat) : (w.climb action src).units = w.units := by
  simp only [climb]
  repeat' split
  all_goals simp

@[simp] theorem units_severeAction (w : World) (src : Nat) : (w.severeAction src).units = w.units := by
  rw [severeAction]
  repeat' split
  all_goals simp

@[simp] theorem units_fatalAction (w : World) (src : Nat) : (w.fatalAction src).units = w.units := by
  simp [fatalAction]

/-- An error event changes nothing that a unit holds, whatever reset it begins (R450 to R458): a reset's later steps do. -/
@[simp] theorem units_reportFault (w : World) (f : FaultReport) : (w.reportFault f).units = w.units := by
  simp only [reportFault, units_ite]
  split
  · split <;> simp [units_ite]
  · simp [units_ite]

@[simp] theorem units_contained (w : World) (h master access reason address : Nat) :
    (w.contained h master access reason address).units = w.units := units_reportFault _ _

@[simp] theorem units_containedOf (w : World) (husk : Option Nat) (master access reason address : Nat) :
    (w.containedOf husk master access reason address).units = w.units := by
  cases husk <;> exact units_reportFault _ _

/-! Writes of memory. -/

@[simp] theorem units_rekey (w : World) (a n key : Nat) : (w.rekey a n key).units = w.units :=
  units_each (fun v l => by simp [units_ite]) w

@[simp] theorem units_markWritten (w : World) (a : Nat) (bad : List Bool) : (w.markWritten a bad).units = w.units :=
  units_each (fun v g => by simp [units_ite]) w

@[simp] theorem units_writeStored (w : World) (a : Nat) (data : List Byte) (bad : List Bool) (key : Nat) :
    (w.writeStored a data bad key).units = w.units := by
  have sound (v : World) (l : List Nat) : ({ v with dev := { v.dev with badLines := l } } : World).units = v.units := rfl
  simp [writeStored, units_ite, sound]

@[simp] theorem units_translate (w : World) (h va : Nat) (need : Need) : (w.translate h va need).2.units = w.units := by
  simp only [translate]
  repeat' split
  all_goals rfl

@[simp] theorem units_reach (w : World) (h master acc : Nat) (need : Need) (va : Nat) :
    (w.reach h master acc need va).2.units = w.units := by
  have translated := units_translate w h va need
  rw [reach]
  split <;> simp_all

@[simp] theorem units_writePiece (w : World) (husk : Option Nat) (master acc a : Nat) (data : List Byte) (bad : List Bool) (key : Nat) :
    (w.writePiece husk master acc a data bad key).2.units = w.units := by
  rw [writePiece]
  repeat' split
  all_goals simp

@[simp] theorem units_writeVirt (w : World) (h master acc va : Nat) (data : List Byte) (bad : List Bool) :
    (w.writeVirt h master acc va data bad).2.units = w.units := by
  refine units_foldl (fun st p => ?_) _
  have reached := units_reach st.2 h master acc .wr p.1
  split <;> simp_all

@[simp] theorem units_putVirt (w : World) (h master acc va : Nat) (data : List Byte) : (w.putVirt h master acc va data).units = w.units :=
  units_writeVirt _ _ _ _ _ _ _

end World
end Sys2Proof.Machine

/-! ### Schedule runs and the pool -/
namespace Sys2Proof.Machine

/-- Are the fields of a SCHEDULE_RUN in order, R152? -/
def runFieldsOk (cmd : Nat) : Bool :=
  rsvd cmd 8 40 && rsvd cmd 64 448 && rsvd cmd 560 16 && rsvd cmd 608 16 && rsvd cmd 672 352
    && decide (1 ≤ runCount cmd) && decide (runCount cmd ≤ 1048576)

/-- A run with entry `k` gone, its reason kept (R153). -/
def PfRun.ended (r : PfRun) (k reason : Nat) : PfRun :=
  { r with flight := r.flight.del k, reasons := if reason = 0 then r.reasons else r.reasons.put k reason }

/-- The entry that a descriptor makes when the run issues it, R153; late entries are overdue from the start (R156). -/
def issuedEntry (now cur cmd : Nat) (late : Bool) : PfEntry :=
  let e := newEntry cmd now (if pLayer cmd ≤ cur then 8 else 0)
  let y : PfEntry := if 1 ≤ pKind cmd ∧ pKind cmd ≤ 6 then e else { e with stage := 11, reason := 0x0003 }
  { y with overdue := late, cause := y.cause + (if late then 0x800 else 0) }

/-- A run that has issued its next entry. -/
def PfRun.issued (r : PfRun) (e : PfEntry) : PfRun :=
  { r with next := r.next + 1, late := setErase r.next r.late, flight := r.flight.put r.next e }

namespace World

/-- Do the places of a SCHEDULE_RUN pass, R152? -/
def runPlaced (w : World) (c : Ctx) (cmd : Nat) : Bool :=
  runAddr cmd % 64 == 0 && runCursor cmd % 8 == 0 && w.inScratch c.husk c.slice (runCursor cmd) 8 .rd
    && (w.inHbm c.husk (runAddr cmd) (64 * runCount cmd) .rd || w.inScratch c.husk c.slice (runAddr cmd) (64 * runCount cmd) .rd)

theorem scheduleRun_eq (w : World) (c : Ctx) (cmd : Nat) :
    w.scheduleRun c cmd =
      if !runFieldsOk cmd then w.finished c cmd 1 0x0003
      else if !w.runPlaced c cmd then w.rejected c cmd 0x0004 (runSpans cmd)
      else (w.waiting c cmd .prefetch []).setPf c.slice { w.pf c.slice with run := some ⟨cmd, 0, .empty, .empty, [], []⟩ } := rfl

section
variable {w : World} {c : Ctx} {cmd : Nat}

theorem scheduleRun_begins (hf : runFieldsOk cmd = true) (hp : w.runPlaced c cmd = true) :
    w.scheduleRun c cmd =
      (w.waiting c cmd .prefetch []).setPf c.slice { w.pf c.slice with run := some ⟨cmd, 0, .empty, .empty, [], []⟩ } := by
  simp [scheduleRun_eq, hf, hp]

theorem scheduleRun_misplaced (hf : runFieldsOk cmd = true) (hp : w.runPlaced c cmd = false) :
    w.scheduleRun c cmd = w.rejected c cmd 0x0004 (runSpans cmd) := by
  simp [scheduleRun_eq, hf, hp]

theorem scheduleRun_malformed (hf : runFieldsOk cmd = false) : w.scheduleRun c cmd = w.finished c cmd 1 0x0003 := by
  simp [scheduleRun_eq, hf]

end

/-- A run with an entry left and room in flight reads the entry and waits for its layer, LEAD before which it is issued (R153). -/
theorem issueEntry_of_read {w w1 : World} {i : Nat} {r : PfRun} {d : Rd} (hr : (w.pf i).run = some r) (hn : r.next < runCount r.cmd)
    (hroom : r.flight.items.length < 32)
    (hread : w.readVirt (w.pfHusk i) (pfMaster i) 0x20 (runAddr r.cmd + 64 * r.next) 64 = ((d, true), w1)) (hd : d.anyBad = false) :
    let cur := w.runCursorNow (w.pfHusk i) r.cmd
    w.issueEntry i = if cur < pLayer d.nat - pLead d.nat then w
      else w1.setPf i { w1.pf i with run := some (r.issued (issuedEntry w.now cur d.nat (r.late.elem r.next))) } := by
  have issues : ¬ (r.next ≥ runCount r.cmd ∨ 32 ≤ r.flight.items.length) := by omega
  simp only [issueEntry, hr, if_neg issues, hread, hd, PfRun.issued, issuedEntry]
  simp

/-- A finished entry of queue 11 writes its flag and completes its command (R153). -/
theorem entryComplete_single {w : World} {sl : Fin 16} {e : PfEntry} (he : w.entry sl.val 0 = some e) (h11 : e.stage = 11) (hc : e.cmd ≠ 0) :
    w.entryComplete sl 0 =
      (let w1 := w.putVirt (w.pfHusk sl.val) (pfMaster sl.val) 0x20 (pFlag e.cmd) (leBytes 8 (pFlagSeq e.cmd + e.reason * 2 ^ 32))
       (w1.setPf sl.val { w1.pf sl.val with single := none }).finishWait (w.blockRing sl 11) .prefetch (entryStatus e.reason) e.reason) := by
  simp only [entryComplete, he, h11, ne_eq, not_true, if_false, if_neg hc]

/-- An engine's run and entry are what the units hold. -/
theorem pf_of_units {w v : World} (h : v.units = w.units) (i : Nat) : v.pf i = w.pf i :=
  congrArg (fun p : PrefetchSt => p.engines.getD i ⟨none, none⟩) (prefetch_of_units h)

/-- The world in which an entry's flag is written, R153; an entry that could not be read has none. -/
def flagWritten (w : World) (i : Nat) (e : PfEntry) : World :=
  if e.cmd = 0 then w
  else w.putVirt (w.pfHusk i) (pfMaster i) 0x20 (pFlag e.cmd) (leBytes 8 (pFlagSeq e.cmd + e.reason * 2 ^ 32))

theorem pf_flagWritten (w : World) (i : Nat) (e : PfEntry) (j : Nat) : (w.flagWritten i e).pf j = w.pf j :=
  pf_of_units (by simp [flagWritten, units_ite]) j

/-- A finished entry of a run leaves it, R153. -/
def runLeft (w : World) (i k : Nat) (r : PfRun) (e : PfEntry) : World :=
  (w.flagWritten i e).setPf i { (w.flagWritten i e).pf i with run := some (r.ended k e.reason) }

theorem entryComplete_run {w : World} {sl : Fin 16} {k : Nat} {r : PfRun} {e : PfEntry} (hr : (w.pf sl.val).run = some r)
    (he : r.flight.get? k = some e) (h11 : e.stage = 11) :
    w.entryComplete sl (k + 1) =
      if (r.ended k e.reason).next = runCount (r.ended k e.reason).cmd ∧ (r.ended k e.reason).flight.items.isEmpty then
        let w3 := (w.runLeft sl.val k r e).releaseHolds sl.val
        let reason := ((r.ended k e.reason).reasons.vals.head?).getD 0
        (w3.setPf sl.val { w3.pf sl.val with run := none }).finishWait (w.blockRing sl 11) .prefetch (if reason = 0 then 0 else 2) reason
      else w.runLeft sl.val k r e := by
  have hentry : w.entry sl.val (k + 1) = some e := by simp only [entry, hr, he]
  have hrun : ((w.flagWritten sl.val e).pf sl.val).run = some r := by rw [pf_flagWritten, hr]
  simp only [flagWritten] at hrun
  simp only [entryComplete, hentry, h11, ne_eq, not_true, if_false, hrun]
  rfl

/-! What the pool's and the checkpoints' tables take is memory, not what a unit holds. -/

@[simp] theorem units_setPoolEnt (w : World) (h m o : Nat) (e : PoolEnt) : (w.setPoolEnt h m o e).units = w.units := units_putVirt ..
@[simp] theorem units_poolLoaded (w : World) (h n : Nat) : (w.poolLoaded h n).units = w.units := rfl
@[simp] theorem units_poolFrees (w : World) (h n : Nat) (res : Bool) : (w.poolFrees h n res).units = w.units := rfl
@[simp] theorem units_poisonVirt (w : World) (h m va n : Nat) : (w.poisonVirt h m va n).units = w.units := units_writeVirt ..
@[simp] theorem units_ckMark (w : World) (h m i st : Nat) : (w.ckMark h m i st).units = w.units := units_putVirt ..
@[simp] theorem units_ckFailed (w : World) (h m i : Nat) : (w.ckFailed h m i).units = w.units := units_ckMark ..

@[simp] theorem units_ckptSaved (w : World) (i reason : Nat) (e : PfEntry) : (w.ckptSaved i reason e).units = w.units := by
  simp only [ckptSaved, units_ite]
  split
  · rfl
  · split
    · rfl
    · simp [ckSet, units_ite]

/-! ### A slice's engine and its update sequencer's -/

theorem pf_setPf_other (w : World) {i j : Nat} (h : j ≠ i) (x : PfSt) : (w.setPf i x).pf j = w.pf j :=
  AMap.getD_put_other _ h x _

theorem pf_setEntry_other (w : World) {i j : Nat} (h : j ≠ i) (n : Nat) (e : PfEntry) : (w.setEntry i n e).pf j = w.pf j := by
  cases n with
  | zero => exact pf_setPf_other w h _
  | succ k =>
    simp only [setEntry]
    split
    · exact pf_setPf_other w h _
    · rfl

theorem pf_modEntry_other (w : World) {i j : Nat} (h : j ≠ i) (n : Nat) (f : PfEntry → PfEntry) : (w.modEntry i n f).pf j = w.pf j := by
  rw [modEntry]
  split
  · exact pf_setEntry_other w h _ _
  · rfl

theorem pf_takeHold_other (w : World) {i j : Nat} (h : j ≠ i) (n hk o : Nat) : (w.takeHold i n hk o).pf j = w.pf j := by
  rw [takeHold.eq_def]
  split
  · split
    · rfl
    · exact (pf_setPf_other _ h _).trans (pf_of_units (units_putVirt ..) j)
  · rfl

/-- What waits for a pool object's load waits at a slice's own engine, never at an update sequencer's. -/
theorem lt_of_mem_waiters {w : World} {h o : Nat} {q : Nat × Nat} (hq : q ∈ w.waiters h o) : q.1 < 16 := by
  simp only [waiters, List.mem_flatten, List.mem_map] at hq
  obtain ⟨_, ⟨i, hi, rfl⟩, hq⟩ := hq
  obtain ⟨p, -, rfl⟩ := List.mem_map.mp hq
  exact List.mem_range.mp (List.mem_filter.mp hi).1

theorem entry_of_pf {w v : World} {i : Nat} (h : v.pf i = w.pf i) (n : Nat) : v.entry i n = w.entry i n := by
  cases n <;> simp only [entry, h]

theorem pf_ite {c : Prop} [Decidable c] (w v : World) (i : Nat) : (if c then w else v).pf i = if c then w.pf i else v.pf i :=
  apply_ite (fun u : World => u.pf i) c w v

/-- Which shards stand cut off is no engine's. -/
theorem pf_cutShards (w : World) (l : PrefetchSt → List Nat) (i : Nat) :
    (w.upPf (fun p => { p with cutShards := l p })).pf i = w.pf i := rfl

section
variable (w : World) {i j : Nat} (hi : i < 16) (hj : 16 ≤ j)
include hi hj

/-! What the engine of a slice does leaves the engines as the update sequencers use them, from 16 on (R296). -/

theorem pf_entryEnds_sequencer (n reason : Nat) : (w.entryEnds i n reason).pf j = w.pf j := by
  rw [entryEnds, if_pos hi]
  exact pf_modEntry_other w (by omega) n _

theorem pf_loadEnds_sequencer (n h o epoch reason : Nat) : (w.loadEnds i n h o epoch reason).pf j = w.pf j := by
  refine each_keeps (P := fun v => v.pf j = w.pf j) (pf_of_units ?_ j) (fun v q hq hv => ?_)
  · split <;> simp
  · have hq : q.1 < 16 := by
      rcases List.mem_cons.mp hq with rfl | hq
      · exact hi
      · exact lt_of_mem_waiters hq
    refine (pf_entryEnds_sequencer _ hq hj ..).trans (Eq.trans ?_ hv)
    split
    · exact pf_takeHold_other v (by omega) ..
    · rfl

theorem pf_transferDone_sequencer (n reason : Nat) : (w.transferDone i n reason).pf j = w.pf j := by
  simp only [transferDone]
  split
  · rfl
  · split
    · exact pf_loadEnds_sequencer w hi hj ..
    · exact (pf_entryEnds_sequencer _ hi hj ..).trans (pf_of_units (units_ckptSaved ..) j)

theorem pf_transferFails_sequencer (n reason : Nat) : (w.transferFails i n reason).pf j = w.pf j := by
  simp only [transferFails]
  split
  · rfl
  · have other : j ≠ i := by omega
    refine (pf_transferDone_sequencer _ hi hj ..).trans ?_
    -- whether or not the shard stands cut off, the entry's own change comes after writes of memory alone
    split
    all_goals
      simp only [pf_ite, pf_cutShards, pf_modEntry_other _ other, ite_self]
      simp only [← pf_ite]
      refine pf_of_units ?_ j
      simp only [units_ite, units_poisonVirt, ite_self]
      split
      · split <;> simp
      · rfl

/-- A timeout of an engine's entry leaves the sequencers' engines. -/
theorem entry_entryTimeout_sequencer (n m : Nat) : (w.entryTimeout i n).entry j m = w.entry j m := by
  refine entry_of_pf ?_ m
  simp only [entryTimeout]
  split
  · rfl
  · split
    · rfl
    · split
      · exact pf_entryEnds_sequencer _ hi hj ..
      · exact pf_transferFails_sequencer _ hi hj ..

end

/-! ### Timeouts -/

theorem entryTimeout_none {w : World} {i n : Nat} (h : w.entry i n = none) : w.entryTimeout i n = w := by
  simp only [entryTimeout, h]

/-- The world in which an entry neither has an access to Tier 3 in flight nor waits for space in its husk's pool. -/
def entryAlone (w : World) (i n : Nat) : World :=
  ({ w with dev := { w.dev with t3 := w.dev.t3.delIf (fun _ a => a.user == 1 && a.ref == i * 0x200000 + n) } }).upPf (fun p =>
    { p with poolQueue := p.poolQueue.put (w.pfHusk i) ((p.poolQueue.getD (w.pfHusk i) []).filter (fun q => q != (i, n))) })

theorem entryTimeout_due {w : World} {i n : Nat} {e : PfEntry} (he : w.entry i n = some e) (h11 : e.stage ≠ 11)
    (hdue : e.issued + w.rd oPrefetchTimeout ≤ w.now) :
    w.entryTimeout i n =
      if e.stage = 9 ∨ e.stage = 10 ∨ (pKind e.cmd = 3 ∧ e.stage = 0) then (w.entryAlone i n).entryEnds i n 0x0206
      else (w.entryAlone i n).transferFails i n 0x0206 := by
  have late : ¬ (e.stage = 11 ∨ w.now < e.issued + w.rd oPrefetchTimeout) := by omega
  simp only [entryTimeout, he, if_neg late, entryAlone]

/-- What a PREFETCH_TIMEOUT does: of queue 11 it looks at the slice's entry and at its update sequencer's (R154). -/
def prefetchTimeout (w : World) (sl : Fin 16) : EntryRef → World
  | .queue => (w.entryTimeout sl.val 0).entryTimeout (16 + sl.val) 0
  | .run k => w.entryTimeout sl.val (k + 1)

/-- One entry alone times out, where the other that is looked at does not stand. -/
theorem prefetchTimeout_eq {w : World} {sl : Fin 16} {er : EntryRef} {i n : Nat}
    (h : (i = sl.val ∧ n = entryNo er ∧ (er = .queue → w.entry (16 + sl.val) 0 = none))
      ∨ (er = .queue ∧ i = 16 + sl.val ∧ n = 0 ∧ w.entry sl.val 0 = none)) :
    w.prefetchTimeout sl er = w.entryTimeout i n := by
  rcases h with ⟨rfl, rfl, hown⟩ | ⟨rfl, rfl, rfl, hnone⟩
  · cases er with
    | run k => rfl
    | queue =>
      refine entryTimeout_none ?_
      rw [entry_entryTimeout_sequencer w sl.isLt (Nat.le_add_right 16 sl.val)]
      exact hown rfl
  · rw [prefetchTimeout, entryTimeout_none hnone]

end World

/-- A flush is no saved object, R408. -/
theorem poolFlush_unsaved (h : Fin 16) : odSaved (0x3040 + h.val * 256) 0xA = false := by
  revert h
  decide +kernel

section
variable {s : State} {sl : Fin 16}

theorem scheduleRun_performs {cmd : Nat} {w1 : World}
    (hheld : s.dev.seqs.turnHeld.elem ((s.world.ownerOf sl.val).getD 16) = false)
    (ready : s.world.takeEntry (s.world.blockRing sl 11) (fun x => cmdOp x == 0x10) = some (cmd, w1)) :
    Performs (.scheduleRun sl) s (fun _ => w1.scheduleRun (w1.ctx (s.world.blockRing sl 11)) cmd) :=
  performs_of_eq rfl ((if_neg (Bool.eq_false_iff.mp hheld)).trans (World.blockTake_of_taken ready World.scheduleRun))

end

/-- Settles O44: each command by the law of its effect; of the two that a timeout of queue 11 looks at, the one leaves the other
(`World.entry_entryTimeout_sequencer`), and the flag that an entry writes leaves its run (`World.pf_flagWritten`). -/
theorem schedulesAndPool : Obligations.SchedulesAndPool := by
  intro s sl
  refine ⟨?_, ?_, ?_, ?_, ?_, ?_, ?_⟩
  · intro cmd w1 hheld ready c fields placed
    have taken := scheduleRun_performs hheld ready
    exact ⟨fun hf hp => taken.congr (World.scheduleRun_begins hf hp), fun hf hp => taken.congr (World.scheduleRun_misplaced hf hp),
      fun hf => taken.congr (World.scheduleRun_malformed hf)⟩
  · intro r d w1 hr hn hroom h hread hd cur late
    have reads := World.issueEntry_of_read hr hn hroom hread hd
    refine ⟨fun hdue => performs_of_eq rfl (reads.trans (if_neg (Nat.not_lt.mpr hdue))), fun hearly => ?_⟩
    exact exec_eq_next_of_eq rfl (reads.trans (if_pos hearly))
  · exact fun e he h11 hc => performs_of_eq rfl (World.entryComplete_single he h11 hc)
  · intro r k e hr he h11 r1 last w1 w2
    have ends := World.entryComplete_run hr he h11
    have none_iff : (r.ended k e.reason).flight.items.isEmpty = true ↔ r1.flight.items = [] := List.isEmpty_iff
    exact ⟨fun hmore => performs_of_eq rfl (ends.trans (if_neg (fun h => hmore ⟨h.1, none_iff.mp h.2⟩))),
      fun hlast => performs_of_eq rfl (ends.trans (if_pos ⟨hlast.1, none_iff.mpr hlast.2⟩))⟩
  · intro er i n e hwhich he h11 hdue
    refine performs_of_eq (g := fun w => w.prefetchTimeout sl er) (by cases er <;> rfl) ?_
    exact (World.prefetchTimeout_eq hwhich).trans (World.entryTimeout_due he h11 hdue)
  · intro h i n rest e hq w0 he x
    have serves := World.poolServe_of_head (w := s.world) hq he
    refine ⟨fun hm => performs_of_eq rfl (serves.trans (World.ensureStep_tooMuch hm)), fun hm => ⟨fun h2 hep => ?_,
      fun h1 h2 placed w1 htry => ?_⟩⟩
    · exact performs_of_eq rfl (serves.trans (World.ensureStep_found hm h2 hep))
    · exact performs_of_eq rfl (serves.trans ((World.ensureStep_absent hm h1 h2).trans (World.poolTried_of_poolTry htry _)))
  · exact fun p h ht => performs_of_eq rfl ((odCommand_unsaved ht (poolFlush_unsaved h) rfl).trans (if_neg (by decide)))

end Sys2Proof.Machine
end

section
/-! PROOFS. The statement of the attention pipeline and the sampler (O46), after the laws that they rest on. -/

/-! ### Commands of a block's queue -/
namespace Sys2Proof.Machine

/-- A NOP of a slice's block finishes; one with a reserved bit set is rejected (R75, R111, R167, R215). -/
theorem blockNop_performs {s : State} {sl q : Fin 16} {cmd : Nat} {i : Instr} {w1 : World} {clear : Nat → Bool}
    (hi : exec i s = s.done (fun w => w.blockTake sl q 0 (World.nopTake clear)))
    (ready : s.world.takeEntry (s.world.blockRing sl q) (fun x => cmdOp x == 0) = some (cmd, w1)) :
    Performs i s (fun _ => w1.finished (w1.ctx (s.world.blockRing sl q)) cmd (if clear cmd then 0 else 1)
      (if clear cmd then 0 else 0x0003)) := by
  refine performs_of_eq hi ((World.blockTake_of_taken ready _).trans ?_)
  by_cases h : clear cmd = true <;> simp [World.nopTake, h]

end Sys2Proof.Machine

/-! ### Attention commands over pods and ring shards -/
namespace Sys2Proof.Machine

/-- The numbers of a list, each once, are numbers of the list. -/
theorem mem_of_mem_dedup {x : Nat} {l : List Nat} (h : x ∈ dedup l) : x ∈ l := by
  refine List.foldlRecOn (motive := fun r => ∀ x ∈ r, x ∈ l) l _ (by simp) (fun r ih y hy => ?_) x h
  split
  · exact ih
  · intro x hx
    rcases List.mem_append.mp hx with hr | hone
    · exact ih x hr
    · exact List.mem_singleton.mp hone ▸ hy

/-- A list of one number, however often, has one number at most. -/
theorem length_dedup_le_one {l : List Nat} (h : ∀ x ∈ l, ∀ y ∈ l, x = y) : (dedup l).length ≤ 1 := by
  have few : dedup l = [] ∨ ∃ x ∈ l, dedup l = [x] := by
    refine List.foldlRecOn (motive := fun r => r = [] ∨ ∃ x ∈ l, r = [x]) l _ (.inl rfl) (fun r ih y hy => .inr ?_)
    rcases ih with rfl | ⟨x, hx, rfl⟩
    · exact ⟨y, hy, rfl⟩
    · exact ⟨x, hx, if_pos (by simp [h x hx y hy])⟩
  rcases few with hnone | ⟨x, -, hone⟩
  · simp [hnone]
  · simp [hone]

namespace World

/-- A slice's ring run reads as it was set. -/
@[simp] theorem attnRun_setAttn (w : World) (s : Nat) (r : AttnRun) : (w.setAttn s r).attnRun s = r := by
  simp [attnRun, setAttn]

@[simp] theorem attnRun_modTaken (w : World) (r : RingRef) (f : Taken → Bool) (g : Taken → Taken) (s : Nat) :
    (w.modTaken r f g).attnRun s = w.attnRun s := rfl

/-- The entry of an attention command taken in the world `w`, with the outcome of its run (R167, R178). -/
def attnEntered (w : World) (c : Ctx) (cmd : Nat) (ran : World × Wait × Nat × Nat × List Nat) : World :=
  let (w1, wait, st, rs, aux) := ran
  w1.enterTaken c ⟨cmd, cmdTag cmd, st, rs, wait, c.husk, c.canonical, c.key, w.now, w.now, 0, [], aux⟩

/-- An attention command whose fields or formats fail R168 is rejected with the first failure's reason. -/
theorem attnTake_malformed {w : World} {c : Ctx} {cmd reason : Nat} (h : w.attnFieldFail c cmd = some reason) :
    w.attnTake c cmd = w.finished c cmd 1 reason := by
  unfold attnTake
  rw [h]

/-- An attention command that passes R168 and R169, and the cut rule of R260: `w1` is the world once its length table is read. -/
structure AttnPasses (w w1 : World) (c : Ctx) (cmd : Nat) (lt : Rd) : Prop where
  fields : w.attnFieldFail c cmd = none
  tableAligned : aLt cmd % 32 = 0
  tablePlaced : w.inScratch c.husk c.slice (aLt cmd) (32 * aLtCount cmd) .rd = true
  ringPlaced : aRingSrc cmd = true →
    aRing cmd % 32 = 0 ∧ w.inScratch c.husk c.slice (aRing cmd) (64 + aRingSlots cmd * aRingStride cmd) .wr = true
  read : w.readVirt c.husk c.master 1 (aLt cmd) (32 * aLtCount cmd) = ((lt, true), w1)
  clean : lt.anyBad = false
  entries : ∀ e ∈ w1.lenTable c cmd, e.valid = true ∧ w1.attnAddrOk c cmd e = true ∧ (e.seq = 0xFFFF ∨ w1.seqCancelled c.husk e.seq = false)
  cuts : aBwd cmd = false ∨ c.canonical = false ∨ aDkvInit cmd ≠ 2 ∨ ∀ e ∈ w1.lenTable c cmd, e.qLen = 0 ∨ e.qPos0 % 128 = 0
  pods : aRingSrc cmd = false → ∀ e ∈ w1.lenTable c cmd, ∀ p, w1.firstPod c.husk e = some p → p.state = podFree ∨ p.state = podRetiring
    ∨ aKvh0 cmd + aKvhCount cmd ≤ p.heads
  slots : aRingSrc cmd = true → 2 ≤ aRingSlots cmd ∧ aRingSlots cmd ≤ 64
    ∧ ∀ e ∈ w1.lenTable c cmd, ∀ e' ∈ w1.lenTable c cmd, e.seq = e'.seq

namespace AttnPasses

variable {w w1 : World} {c : Ctx} {cmd : Nat} {lt : Rd} (p : AttnPasses w w1 c cmd lt)
include p

/-! Each check of `attnTake` passes, in the order in which it makes them. -/

theorem placed : (aLt cmd % 32 != 0 || !w.inScratch c.husk c.slice (aLt cmd) (32 * aLtCount cmd) .rd
    || (aRingSrc cmd && (aRing cmd % 32 != 0
      || !w.inScratch c.husk c.slice (aRing cmd) (64 + aRingSlots cmd * aRingStride cmd) .wr))) = false := by
  cases hr : aRingSrc cmd with
  | false => simp [p.tableAligned, p.tablePlaced]
  | true => simp [p.tableAligned, p.tablePlaced, p.ringPlaced hr]

theorem addresses : (w1.lenTable c cmd).all (fun e => !e.valid || w1.attnAddrOk c cmd e) = true := by
  simp only [List.all_eq_true]
  intro e he
  obtain ⟨-, haddr, -⟩ := p.entries e he
  simp [haddr]

theorem allValid : (w1.lenTable c cmd).all LenEnt.valid = true :=
  List.all_eq_true.mpr (fun e he => (p.entries e he).1)

theorem ringShape : (aRingSrc cmd && (decide (aRingSlots cmd < 2) || decide (64 < aRingSlots cmd)
    || decide (1 < (dedup ((w1.lenTable c cmd).map (fun e => e.seq))).length))) = false := by
  cases hr : aRingSrc cmd with
  | false => rfl
  | true =>
    obtain ⟨hmin, hmax, hseq⟩ := p.slots hr
    have one : (dedup ((w1.lenTable c cmd).map (fun e => e.seq))).length ≤ 1 := by
      refine length_dedup_le_one ?_
      simpa only [List.forall_mem_map] using hseq
    simp only [Bool.true_and, Bool.or_eq_false_iff, decide_eq_false_iff_not]
    omega

theorem onCuts : (aBwd cmd && c.canonical && aDkvInit cmd == 2
    && (w1.lenTable c cmd).any (fun e => e.qLen != 0 && e.qPos0 % 128 != 0)) = false := by
  rcases p.cuts with h | h | h | h
  · simp [h]
  · simp [h]
  · simp [h]
  · have none : (w1.lenTable c cmd).any (fun e => e.qLen != 0 && e.qPos0 % 128 != 0) = false := by
      simp only [List.any_eq_false]
      intro e he
      rcases h e he with h | h <;> simp [h]
    simp [none]

theorem notCancelled : (dedup ((w1.lenTable c cmd).map (fun e => e.seq))).any
    (fun q => q != 0xFFFF && w1.seqCancelled c.husk q) = false := by
  simp only [List.any_eq_false]
  intro q hq
  obtain ⟨e, he, rfl⟩ := List.mem_map.mp (mem_of_mem_dedup hq)
  obtain ⟨-, -, hseq⟩ := p.entries e he
  rcases hseq with h | h <;> simp [h]

/-- No entry's first pod holds fewer heads than the command covers (R190). -/
theorem headsHeld {tooFew : LenEnt → Bool}
    (htoo : ∀ e, tooFew e = true → ∃ x, w1.firstPod c.husk e = some x ∧ x.state ≠ podFree ∧ x.state ≠ podRetiring
      ∧ x.heads < aKvh0 cmd + aKvhCount cmd) :
    (!aRingSrc cmd && (w1.lenTable c cmd).any tooFew) = false := by
  cases hr : aRingSrc cmd with
  | true => rfl
  | false =>
    simp only [Bool.not_false, Bool.true_and, List.any_eq_false]
    intro e he hfew
    obtain ⟨x, hx, hfree, hretiring, hheads⟩ := htoo e hfew
    rcases p.pods hr e he x hx with h | h | h
    · exact hfree h
    · exact hretiring h
    · omega

/-- A command that passes reads ahead while the chain set it wants has not come, and runs otherwise (R167 to R169, R178). -/
theorem attnTake_eq : w.attnTake c cmd =
    if aCinit cmd = 3 ∧ (w1.engine c.master).sets.isEmpty = true then w1.attnAhead c cmd
    else w.attnEntered c cmd ((w1.setAttn c.slice AttnRun.init).attnGo c cmd) := by
  unfold attnTake
  simp only [p.fields, p.placed, p.read, p.clean, p.addresses, p.allValid, p.ringShape, p.onCuts, p.notCancelled,
    Bool.not_true, Bool.or_self, Bool.false_eq_true, if_false]
  rw [p.headsHeld ?_]
  · rfl
  · intro e he
    split at he
    · next x hx => exact ⟨x, hx, by simpa [and_assoc] using he⟩
    · cases he

end AttnPasses

section
variable {w : World} {c : Ctx} {cmd : Nat}

/-- Without a chain set to take, a command over pods runs on the keys read ahead. -/
theorem attnGo_pods (h3 : aCinit cmd ≠ 3) (hr : aRingSrc cmd = false) :
    w.attnGo c cmd = w.attnPods c cmd none (w.attnRun c.slice).ahead (w.attnRun c.slice).pods := by
  simp only [attnGo, if_neg h3, hr, Bool.false_eq_true, if_false]

/-- Without a chain set to take, one over ring shards waits for shard 0 (R179). -/
theorem attnGo_ring (h3 : aCinit cmd ≠ 3) (hr : aRingSrc cmd = true) :
    w.attnGo c cmd = (w.attnRingStart c cmd none, .shard, 0, 0, []) := by
  simp only [attnGo, if_neg h3, hr, Bool.false_eq_true, if_false, if_true]

end

/-! ### Ring shards -/

/-- The flag of the shard that a ring command waits for, R180: absent, or present with the reason its sender gives. -/
def shardFlag (w : World) (s : Fin 16) (t : Taken) : Option Nat :=
  let u := (w.attnRun s.val).shard
  w.flagPresent (w.ctxOf (w.blockRing s 9) t) (ringSlot t.cmd u) ((aFlagSeq t.cmd + u / aRingSlots t.cmd) % 2 ^ 32)

section
variable {w : World} {s : Fin 16} {t : Taken} (ht : w.takenWith (w.blockRing s 9) .shard = some t)
include ht

theorem ringShard_absent (hf : w.shardFlag s t = none) : w.ringShard s = w := by
  rw [shardFlag] at hf
  simp only [ringShard, ht, hf]

/-- A missing shard's wait expires at its limit (R181, R87). -/
theorem ringTimeout_expired (hf : w.shardFlag s t = none) (hdue : t.since + w.rd oComputeFeedTimeout ≤ w.now) :
    w.ringTimeout s =
      (w.contained (w.ctxOf (w.blockRing s 9) t).husk (w.ctxOf (w.blockRing s 9) t).master 0x21 0x0005
        (ringSlot t.cmd (w.attnRun s.val).shard)).finishWait (w.blockRing s 9) .shard 1 0x0005 := by
  rw [shardFlag] at hf
  simp only [ringTimeout, ht, hf]
  exact if_neg (by simp [hdue])

/-- A shard before the last is entered, and the next one is waited for (R179 to R181). -/
theorem attnRun_ringShard {reason : Nat} (hf : w.shardFlag s t = some reason) (hmore : (w.attnRun s.val).shard + 1 < aShards t.cmd) :
    let u := (w.attnRun s.val).shard
    let hd := w.vnum (w.ctxOf (w.blockRing s 9) t).husk (ringSlot t.cmd u + 8) 8
    let next := (w.ringShard s).attnRun s.val
    next.shard = u + 1 ∧ next.prevEnd = fld hd 0 24 + fld hd 24 24 ∧ next.received = (w.attnRun s.val).received
      ∧ (reason ≠ 0 → next.refused = true) := by
  rw [shardFlag] at hf
  simp only [ringShard, ht, hf, if_pos hmore, attnRun_modTaken, attnRun_setAttn]
  exact ⟨trivial, trivial, trivial, fun h => by simp [h]⟩

end

end World

/-- An attention command of opcode `op` is taken with `attnTake`, whichever way it goes (R167, R176). -/
theorem performs_of_attnTake {s : State} {sl : Fin 16} {cmd op : Nat} {i : Instr} {w1 : World} {f : World → World}
    (hi : (op, i) ∈ [(1, Instr.attnFwd sl), (2, .attnBwd sl)])
    (ready : s.world.takeEntry (s.world.blockRing sl 9) (fun x => cmdOp x == op) = some (cmd, w1))
    (h : w1.attnTake (w1.ctx (s.world.blockRing sl 9)) cmd = f s.world) : Performs i s f := by
  have taken := (World.blockTake_of_taken ready World.attnTake).trans h
  simp only [List.mem_cons, Prod.mk.injEq, List.not_mem_nil, or_false] at hi
  rcases hi with ⟨rfl, rfl⟩ | ⟨rfl, rfl⟩ <;> exact performs_of_eq rfl taken

end Sys2Proof.Machine

/-! ### The sampler -/
namespace Sys2Proof.Machine

namespace World

/-- A SAMPLE that passes R218 but for its parameter entries: `w1` is the world once these are read. -/
structure SamplePasses (w w1 : World) (c : Ctx) (cmd : Nat) (pr : Rd) : Prop where
  reserved : smReserved cmd = true
  fmt : smFmt cmd ≤ 1
  vocabMin : 1 ≤ smVocab cmd
  vocabMax : smVocab cmd ≤ 262144
  rowsMin : 1 ≤ smRows cmd
  rowsMax : smRows cmd ≤ 65535
  logits : ∀ k < smRows cmd, w.logitsOk c (smLogits cmd + k * smLdl cmd * 32) (smVocab cmd * (if smFmt cmd = 1 then 2 else 4)) = true
  paramAligned : smParam cmd % 32 = 0
  outAligned : smOut cmd % 32 = 0
  paramPlaced : w.inScratch c.husk c.slice (smParam cmd) (32 * smRows cmd) .rd = true
  outPlaced : w.inScratch c.husk c.slice (smOut cmd) (16 * smRows cmd) .wr = true
  read : w.readVirt c.husk c.master 1 (smParam cmd) (32 * smRows cmd) = ((pr, true), w1)
  clean : pr.anyBad = false

/-- The parameter entries of a SAMPLE, out of the bytes read (R216). -/
def sampleParams (cmd : Nat) (pr : Rd) : List SmParam :=
  (List.range (smRows cmd)).map (fun k => smParamOf (leNat ((pr.data.drop (32 * k)).take 32)))

/-- Every row sampled in order: the records, the poison's origins (R217, R219). -/
def sampleRows (w : World) (c : Ctx) (cmd : Nat) (ps : List SmParam) : List SmRow × List Nat × World :=
  ((List.range (smRows cmd)).zip ps).foldl (fun st q =>
    let (x, o, w1) := st.2.2.sampleOne c cmd q.1 q.2
    (st.1 ++ [x], st.2.1 ++ o, w1)) ([], [], w)

/-- A SAMPLE that has sampled its rows ends with the outcome of their poison (R220). -/
def sampleEnded (c : Ctx) (cmd : Nat) (rows : List SmRow × List Nat × World) : World :=
  let (st, rs) := poisonOutcome (rows.1.any (fun x => x.status == 2)) rows.2.1
  rows.2.2.finished c cmd st rs

namespace SamplePasses

variable {w w1 : World} {c : Ctx} {cmd : Nat} {pr : Rd} (p : SamplePasses w w1 c cmd pr)
include p

theorem fieldsOk : (smReserved cmd && decide (smFmt cmd ≤ 1) && smVocab cmd != 0 && decide (smVocab cmd ≤ 262144)
    && smRows cmd != 0 && decide (smRows cmd ≤ 65535)) = true := by
  have vocab : smVocab cmd ≠ 0 := Nat.ne_of_gt p.vocabMin
  have rows : smRows cmd ≠ 0 := Nat.ne_of_gt p.rowsMin
  simp [p.reserved, p.fmt, p.vocabMax, p.rowsMax, vocab, rows]

theorem placesOk : ((List.range (smRows cmd)).all (fun r =>
      w.logitsOk c (smLogits cmd + r * smLdl cmd * 32) (smVocab cmd * (if smFmt cmd = 1 then 2 else 4)))
    && smParam cmd % 32 == 0 && smOut cmd % 32 == 0 && w.inScratch c.husk c.slice (smParam cmd) (32 * smRows cmd) .rd
    && w.inScratch c.husk c.slice (smOut cmd) (16 * smRows cmd) .wr) = true := by
  have rows : (List.range (smRows cmd)).all (fun r =>
      w.logitsOk c (smLogits cmd + r * smLdl cmd * 32) (smVocab cmd * (if smFmt cmd = 1 then 2 else 4))) = true :=
    List.all_eq_true.mpr (fun k hk => p.logits k (List.mem_range.mp hk))
  simp only [rows, p.paramAligned, p.outAligned, p.paramPlaced, p.outPlaced, beq_self_eq_true, Bool.and_self]

/-- A SAMPLE with a parameter entry out of range is rejected; otherwise every row is sampled (R218 to R220). -/
theorem sampleTake_eq : w.sampleTake c cmd =
    if !(sampleParams cmd pr).all (fun x => x.ok (smVocab cmd)) then w1.finished c cmd 1 0x0009
    else sampleEnded c cmd (w1.sampleRows c cmd (sampleParams cmd pr)) := by
  unfold sampleTake
  simp only [p.fieldsOk, p.placesOk, firstFail, if_true, p.read, p.clean, Bool.false_eq_true, if_false]
  rfl

end SamplePasses

end World

/-- Settles O46: a command that passes its checks goes by `AttnPasses.attnTake_eq` or `SamplePasses.sampleTake_eq`, a ring's next shard
by the state of its flag. -/
theorem attentionAndSampler : Obligations.AttentionAndSampler := by
  intro s sl cmd w1
  refine ⟨⟨fun ready => blockNop_performs rfl ready, fun op i hi ready => ⟨fun reason hfail => ?_, ?_⟩⟩, ?_, ?_⟩
  · exact performs_of_attnTake hi ready (World.attnTake_malformed hfail)
  · intro lt w2 hfields haligned hplaced hring hread hclean es hentries hcuts hpods hslots entered fresh
    have passes : World.AttnPasses w1 w2 (w1.ctx (s.world.blockRing sl 9)) cmd lt :=
      ⟨hfields, haligned, hplaced, hring, hread, hclean, hentries, hcuts, hpods, hslots⟩
    have runs (h : ¬ (aCinit cmd = 3 ∧ (w2.engine (w1.ctx (s.world.blockRing sl 9)).master).sets.isEmpty = true)) :=
      passes.attnTake_eq.trans (if_neg h)
    refine ⟨fun h3 hempty => ?_, fun _ hset => ?_, fun h3 hr => ?_, fun h3 hr => ?_⟩
    · exact performs_of_attnTake hi ready (passes.attnTake_eq.trans (if_pos ⟨h3, hempty⟩))
    · exact performs_of_attnTake hi ready (runs (by simp [hset]))
    · refine performs_of_attnTake hi ready ((runs (by simp [h3])).trans ?_)
      rw [World.attnGo_pods h3 hr, World.attnRun_setAttn]
      rfl
    · refine performs_of_attnTake hi ready ((runs (by simp [h3])).trans ?_)
      rw [World.attnGo_ring h3 hr]
      rfl
  · intro t0 ht r c u hd flag
    refine ⟨fun hdue hf => performs_of_eq rfl (World.ringTimeout_expired ht hf hdue),
      fun hf => exec_eq_next_of_eq rfl (World.ringShard_absent ht hf), fun _ => rfl, fun reason hf hmore => ?_⟩
    exact completes_of_done (f := fun w => w.ringShard sl) rfl (World.attnRun_ringShard ht hf hmore)
  · refine ⟨fun ready => blockNop_performs rfl ready, ?_⟩
    intro pr w2 ready hres hfmt hv1 hv2 hn1 hn2 hlogits hpa hoa hpp hop hread hclean ps
    have passes : World.SamplePasses w1 w2 (w1.ctx (s.world.blockRing sl 10)) cmd pr :=
      ⟨hres, hfmt, hv1, hv2, hn1, hn2, hlogits, hpa, hoa, hpp, hop, hread, hclean⟩
    have taken := (World.blockTake_of_taken ready World.sampleTake).trans passes.sampleTake_eq
    refine ⟨fun hok => ?_, fun ⟨x, hx, hbad⟩ => ?_⟩
    · have all : (World.sampleParams cmd pr).all (fun x => x.ok (smVocab cmd)) = true := List.all_eq_true.mpr hok
      exact performs_of_eq rfl (taken.trans (if_neg (by rw [all]; decide)))
    · have notAll : (World.sampleParams cmd pr).all (fun x => x.ok (smVocab cmd)) = false :=
        List.all_eq_false.mpr ⟨x, hx, Bool.eq_false_iff.mp hbad⟩
      exact performs_of_eq rfl (taken.trans (if_pos (by rw [notAll]; decide)))

end Sys2Proof.Machine
end

section
/-! PROOFS. The statements of the KV pods (O47, O48), after the laws that they rest on. -/

/-! ### Pod commands -/
namespace Sys2Proof.Machine

namespace World

/-- A command that a unit takes is one that it wants. -/
theorem wants_of_takeEntry {w w1 : World} {r : RingRef} {want : Nat → Bool} {cmd : Nat} (h : w.takeEntry r want = some (cmd, w1)) :
    want cmd = true := by
  simp only [takeEntry] at h
  split at h
  · cases h
  split at h
  · obtain ⟨hwant, he⟩ := Option.ite_none_right_eq_some.mp h
    cases he
    exact (Bool.and_eq_true_iff.mp hwant).1
  · cases h

section
variable {w : World} {c : Ctx} {cmd : Nat}

/-- What becomes of a pod command's request for its pods: the answer of `podTie` where `podsNow` does not grant it (R197). -/
def podAsk (w : World) (c : Ctx) (cmd : Nat) : (Bool × Bool) × World :=
  let n := w.podNeed c cmd
  if n = 0 ∨ w.podsNow c.husk n = true then ((true, false), w) else w.podTie c.husk c.slice (dPrio cmd) n

/-- A granted pod command that may add its peer runs and is entered with its outcome; one that may not is rejected (R193 row 9). -/
def podServe (w w1 : World) (c : Ctx) (cmd : Nat) : World :=
  if !w1.podForwardOk c cmd then w1.finished c cmd 1 0x0211
  else w.attnEntered c cmd ((w1.noteGrant c.husk c.slice (dPrio cmd) (w.podNeed c cmd)).podGo c cmd)

/-- A pod command without its pods waits with WAIT 1 or after a lost tie, and is rejected otherwise (R197). -/
def podRefuse (w w1 : World) (c : Ctx) (cmd : Nat) (tie : Bool) : World :=
  if tie || dWait cmd then (w1.waiting c cmd .alloc []).podQueued ⟨c.husk, c.slice, dPrio cmd, none, tie, w.now⟩
  else w1.finished c cmd 1 0x0202

/-- A command of a cancelled sequence ends with STATUS 3 (R254). -/
theorem podTake_cancelled (h : w.seqCancelled c.husk (dSeq cmd) = true) : w.podTake c cmd = w.finished c cmd 3 0x0105 := if_pos h

section
variable (live : w.seqCancelled c.husk (dSeq cmd) = false)
include live

theorem podTake_rejected {reason : Nat} (h : w.podFail c cmd = some reason) :
    w.podTake c cmd = w.rejected c cmd reason (podSpans cmd) := by
  simp only [podTake, live, h, Bool.false_eq_true, if_false]

variable (hpass : w.podFail c cmd = none)
include hpass

/-- A command whose pods would take its husk over its limit is rejected (R193 row 7). -/
theorem podTake_overLimit (hn : w.podNeed c cmd ≠ 0)
    (h : w.rd (oHuskPodLimit c.husk) < w.rd (oHuskPodsHeld c.husk) + w.podNeed c cmd) :
    w.podTake c cmd = w.finished c cmd 1 0x020E := by
  simp only [podTake, live, hpass, Bool.false_eq_true, if_false]
  exact if_pos ⟨hn, h⟩

/-- Within the limit the answer to the command's request decides. -/
theorem podTake_asked (h : w.podNeed c cmd = 0 ∨ w.rd (oHuskPodsHeld c.husk) + w.podNeed c cmd ≤ w.rd (oHuskPodLimit c.husk)) :
    w.podTake c cmd =
      if (w.podAsk c cmd).1.1 then w.podServe (w.podAsk c cmd).2 c cmd
      else w.podRefuse (w.podAsk c cmd).2 c cmd (w.podAsk c cmd).1.2 := by
  simp only [podTake, live, hpass, Bool.false_eq_true, if_false]
  exact if_neg (by omega)

end

theorem podAsk_granted (h : w.podNeed c cmd = 0 ∨ w.podsNow c.husk (w.podNeed c cmd) = true) : w.podAsk c cmd = ((true, false), w) :=
  if_pos h

theorem podAsk_short (hn : w.podNeed c cmd ≠ 0) (h : w.podsNow c.husk (w.podNeed c cmd) = false) :
    w.podAsk c cmd = w.podTie c.husk c.slice (dPrio cmd) (w.podNeed c cmd) :=
  if_neg (by simp [hn, h])

/-- A request that neither losers of its own cycle nor its grants stand before asks for no free value. -/
theorem podTie_plain {h s prio n : Nat} (hlate : w.podsAvailable h n = false ∨ w.queueBefore ≠ [])
    (htie : w.tiePossible h s prio n = false) : w.podTie h s prio n = ((false, false), w) := by
  have late : (w.podsAvailable h n && w.queueBefore.isEmpty) = false := by
    rcases hlate with h | h <;> simp [h]
  simp [podTie, late, htie]

theorem podServe_ok {w1 : World} (h : w1.podForwardOk c cmd = true) :
    w.podServe w1 c cmd = w.attnEntered c cmd ((w1.noteGrant c.husk c.slice (dPrio cmd) (w.podNeed c cmd)).podGo c cmd) :=
  if_neg (by simp [h])

theorem podServe_full {w1 : World} (h : w1.podForwardOk c cmd = false) : w.podServe w1 c cmd = w1.finished c cmd 1 0x0211 :=
  if_pos (by simp [h])

theorem podRefuse_waits {w1 : World} {tie : Bool} (h : (tie || dWait cmd) = true) :
    w.podRefuse w1 c cmd tie = (w1.waiting c cmd .alloc []).podQueued ⟨c.husk, c.slice, dPrio cmd, none, tie, w.now⟩ := if_pos h

theorem podRefuse_rejects {w1 : World} {tie : Bool} (h : (tie || dWait cmd) = false) :
    w.podRefuse w1 c cmd tie = w1.finished c cmd 1 0x0202 := if_neg (by simp [h])

/-! What a granted command does, by opcode (R192). -/

theorem podGo_alloc (hop : cmdOp cmd = 0x40) : w.podGo c cmd =
    (((dCovers cmd).zip (w.freePods (dCovers cmd).length)).foldl (fun w x => w.allocOne c.husk c.master (dGeo cmd) x.1 x.2) w,
      .done, 0, 0, []) := by
  simp only [podGo, hop]

theorem podGo_share (hop : cmdOp cmd = 0x41) : w.podGo c cmd =
    (((dCovers cmd).zip (dSources cmd)).foldl (fun w x => w.shareOne c.husk c.master x.2.va x.1.va) w, .done, 0, 0, []) := by
  simp only [podGo, hop]

theorem podGo_release (hop : cmdOp cmd = 0x42) :
    w.podGo c cmd = (w.each (dCovers cmd) (fun w x => w.releaseOne c.husk c.master x.va), .done, 0, 0, []) := by
  simp only [podGo, hop]

theorem podGo_commit (hop : cmdOp cmd = 0x44) : w.podGo c cmd =
    (w.endGeneration c.husk (dSeq cmd) (dLayer cmd) (dLayer cmd + dLayers cmd) (some (dPos cmd)), .done, 0, 0, []) := by
  simp only [podGo, hop]

theorem podGo_retract (hop : cmdOp cmd = 0x45) : w.podGo c cmd =
    (w.endGeneration c.husk (dSeq cmd) (dLayer cmd) (dLayer cmd + dLayers cmd) none, .done, 0, 0, []) := by
  simp only [podGo, hop]

/-- A command that has read and written tokens finishes, with STATUS 2 where one of them was poisoned. -/
def poisonEnd (r : Rd) (w : World) : World × Wait × Nat × Nat × List Nat :=
  (w, .done, if r.anyBad then 2 else 0, if r.anyBad then r.reason else 0, [])

theorem podGo_append (hop : cmdOp cmd = 0x43) : w.podGo c cmd =
    (let (r, w1) := (dCovers cmd).foldl (fun (st : Rd × World) x => let (w1, r) := st.2.appendOne c cmd x; (st.1.append r, w1))
      (⟨[], [], []⟩, w)
     poisonEnd r w1) := by
  simp only [podGo, hop, poisonEnd, apply_ite Prod.fst, apply_ite Prod.snd]

theorem podGo_forward (hop : cmdOp cmd = 0x48) : w.podGo c cmd =
    (let (r, w1) := (List.range (dLayers cmd)).foldl (fun (st : Rd × World) l =>
      let (w1, r) := st.2.forwardLayer c cmd (dLayer cmd + l)
      (st.1.append r, w1)) (⟨[], [], []⟩, w)
     poisonEnd r (w1.addPeer c.husk (dSeq cmd) (dGen cmd) (dPeer cmd, dPeerHusk cmd, dPeerSeq cmd))) := by
  simp only [podGo, hop, poisonEnd, apply_ite Prod.fst, apply_ite Prod.snd]

/-! A group of swaps that the list of covered entries leaves empty ends at once. -/

theorem podGo_swapOut {id : Nat} {w2 : World} (hop : cmdOp cmd = 0x46)
    (hg : (w.endGeneration c.husk (dSeq cmd) (dLayer cmd) (dLayer cmd + dLayers cmd) none).swapGroup c.husk c.slice none = (id, w2)) :
    let l := (dCovers cmd).filter (fun x => (w2.listEnt c.husk x.va).kind == 1)
    w.podGo c cmd =
      if l = [] then (w2.upPods (fun t => { t with groups := t.groups.del id }), .done, 0, 0, [])
      else (w2.each l (fun w x => w.swapOutOne c.husk c.slice id x.va (swapSlot cmd x)), .swap, 0, 0, [id]) := by
  simp only [podGo, hop, hg, List.isEmpty_iff]

theorem podGo_swapIn {id : Nat} {w2 : World} (hop : cmdOp cmd = 0x47) (hg : w.swapGroup c.husk c.slice none = (id, w2)) :
    let l := (dCovers cmd).filter (fun x => (w2.listEnt c.husk x.va).kind == 2)
    w.podGo c cmd =
      if l = [] then (w2.upPods (fun t => { t with groups := t.groups.del id }), .done, 0, 0, [])
      else ((l.zip (w2.freePods l.length)).foldl (fun w x =>
        w.swapInOne c.husk c.slice id x.1.layer x.1.va x.1.ix x.2 (dGeo cmd)) w2, .swap, 0, 0, [id]) := by
  simp only [podGo, hop, hg, List.isEmpty_iff]

end
end World

/-- A pod command of opcode `op` is taken with `podTake`, whichever way it goes (R192). -/
theorem performs_of_podTake {s : State} {sl : Fin 16} {cmd op : Nat} {i : Instr} {w1 : World} {f : World → World}
    (hi : (op, i) ∈ [(0x40, Instr.podAlloc sl), (0x41, .podShare sl), (0x42, .podRelease sl), (0x43, .podAppend sl), (0x44, .podCommit sl),
      (0x45, .podRetract sl), (0x46, .podSwapOut sl), (0x47, .podSwapIn sl), (0x48, .podForward sl)])
    (ready : s.world.takeEntry (s.world.blockRing sl 14) (fun x => cmdOp x == op) = some (cmd, w1))
    (h : w1.podTake (w1.ctx (s.world.blockRing sl 14)) cmd = f s.world) : Performs i s f := by
  have taken := (World.blockTake_of_taken ready World.podTake).trans h
  simp only [List.mem_cons, Prod.mk.injEq, List.not_mem_nil, or_false] at hi
  rcases hi with ⟨rfl, rfl⟩ | ⟨rfl, rfl⟩ | ⟨rfl, rfl⟩ | ⟨rfl, rfl⟩ | ⟨rfl, rfl⟩ | ⟨rfl, rfl⟩ | ⟨rfl, rfl⟩ | ⟨rfl, rfl⟩ | ⟨rfl, rfl⟩ <;>
    exact performs_of_eq rfl taken

/-- Settles O47: `World.podTake_asked` leaves a command that passes its checks to the answer to its request, and a granted one is
entered as `World.podGo` ends for its opcode. -/
theorem podCommands : Obligations.PodCommands := by
  intro s sl cmd w1 i op r hi ready c h n enter layers short granted
  have does {f : World} (hf : w1.podTake c cmd = f) : Performs i s (fun _ => f) := performs_of_podTake hi ready hf
  have opcode : cmdOp cmd = op := by simpa using World.wants_of_takeEntry ready
  refine ⟨fun hc => does (World.podTake_cancelled hc), fun live => ⟨fun reason hr => does (World.podTake_rejected live hr),
    fun hpass => ⟨fun hn hlim => does (World.podTake_overLimit live hpass hn hlim), ?_, ?_, ?_, ?_⟩⟩⟩
  · rintro ⟨hn, hlim, hnow⟩ hlate htie
    have refused := World.podTake_asked live hpass (.inr hlim)
    rw [World.podAsk_short hn hnow, World.podTie_plain hlate htie] at refused
    exact ⟨fun hw => does (refused.trans (World.podRefuse_rejects (by simp [hw]))),
      fun hw => does (refused.trans (World.podRefuse_waits (by simp [hw])))⟩
  · rintro late tie w2 ⟨hn, hlim, hnow⟩ htie
    have asked := World.podTake_asked live hpass (.inr hlim)
    rw [World.podAsk_short hn hnow, htie] at asked
    refine ⟨?_, ?_, ?_⟩
    · rintro rfl hw
      exact does (asked.trans (World.podRefuse_waits hw))
    · rintro rfl hw
      exact does (asked.trans (World.podRefuse_rejects hw))
    · rintro rfl hf
      exact does (asked.trans (World.podServe_ok hf))
  all_goals
    intro hgranted hf
    have served := World.podTake_asked live hpass (hgranted.imp_right And.left)
    rw [World.podAsk_granted (hgranted.imp_right And.right)] at served
  · exact does (served.trans (World.podServe_full hf))
  · intro cs w2 r0
    have runs {ran : World × Wait × Nat × Nat × List Nat} (hgo : w2.podGo c cmd = ran) : Performs i s (fun _ => w1.attnEntered c cmd ran) :=
      does (served.trans ((World.podServe_ok hf).trans (congrArg (w1.attnEntered c cmd) hgo)))
    refine ⟨fun h => runs (World.podGo_alloc (opcode.trans h)), fun h => runs (World.podGo_share (opcode.trans h)),
      fun h => runs (World.podGo_release (opcode.trans h)), fun h => runs (World.podGo_append (opcode.trans h)),
      fun h => runs (World.podGo_commit (opcode.trans h)), fun h => runs (World.podGo_retract (opcode.trans h)),
      fun h id w3 hg => ?_, fun h id w3 hg => ?_, fun h => runs (World.podGo_forward (opcode.trans h))⟩
    · have go := World.podGo_swapOut (opcode.trans h) hg
      exact ⟨fun hl => runs (go.trans (if_pos hl)), fun hl => runs (go.trans (if_neg hl))⟩
    · have go := World.podGo_swapIn (opcode.trans h) hg
      exact ⟨fun hl => runs (go.trans (if_pos hl)), fun hl => runs (go.trans (if_neg hl))⟩

end Sys2Proof.Machine

/-! ### Pods that wait, retire and swap -/
namespace Sys2Proof.Machine

@[simp] theorem AMap.get?_del_same {α : Type} (m : AMap α) (k : Nat) : (m.del k).get? k = none := by
  simp only [AMap.get?, AMap.del, AMap.find_filter_keys (fun i => !(i == k))]
  simp

namespace World

section
variable {w : World}

/-- R201: a RETIRING pod that nothing names and nobody reads becomes FREE. -/
theorem retireFree_unused {p : Nat} (hp : p < w.rd oPodRegionPods) (hs : (w.pod p).state = podRetiring) (hr : (w.pod p).refs = 0)
    (hn : (w.pod p).readers = 0) : w.retireFree p = w.freePod p := if_pos ⟨hp, hs, hr, hn⟩

/-- Grant a request that has left the queue: a pod command's, or a plan's for its sequence (R197, R241). -/
def grantTo (w : World) (a : AllocReq) : World :=
  match a.seq with
  | none => w.podGrant a
  | some q => w.stepAlloc a.husk q (seqMaster a.slice)

/-- The head of the queue is granted when its pods are to be had within its husk's limit (R195, R197). -/
theorem allocGrant_head {a : AllocReq} {rest : List AllocReq} (hq : w.dev.pods.queue = a :: rest)
    (havail : w.podsAvailable a.husk (w.requestNeed a) = true)
    (hlim : w.rd (oHuskPodsHeld a.husk) + w.requestNeed a ≤ w.rd (oHuskPodLimit a.husk)) :
    w.allocGrant = (w.upPods (fun u => { u with queue := rest })).grantTo a := by
  simp only [allocGrant, hq, havail, hlim, decide_true, Bool.and_self, if_true, upPods, List.erase_cons_head]
  rfl

/-! A swap that ends is in flight no more, whatever its group does then. -/

theorem swaps_swapGroupEnd (g : Nat) : (w.swapGroupEnd g).dev.pods.swaps = w.dev.pods.swaps := by
  simp only [swapGroupEnd]
  split
  · rfl
  split
  · rfl
  split
  · rfl
  split
  · rfl
  split <;> rfl

@[simp] theorem swaps_swapDone (id : Nat) (op : SwapOp) (failed poison : Bool) :
    (w.swapDone id op failed poison).dev.pods.swaps.get? id = none := by
  simp [swapDone, swaps_swapGroupEnd]

section
variable {id : Nat} {op : SwapOp} (hop : w.dev.pods.swaps.get? id = some op)
include hop

/-- R208: the swap's write reaches Tier 3, and the entry becomes SWAPPED while it is still the one that the swap names. -/
theorem swapAck_out (hout : op.out = true) {ok : Bool} {w1 : World}
    (hw : w.writeVirt op.husk (seqMaster op.slice) 0x22 op.slot op.data op.bad = (ok, w1)) :
    w.swapAck id =
      (if w1.swapLive op then
          ((w1.setList op.husk (seqMaster op.slice) op.entry (listSwapped op.slot op.tokens)).setPod op.pod
            { w1.pod op.pod with swapAddr := 0 }).dropRef op.pod
        else w1).swapDone id op false false := by
  simp only [swapAck, hop, hout, hw, Bool.not_true, Bool.false_eq_true, if_false]

/-- R209: the entry is RESIDENT again, its pod ACTIVE, and the failure counts. -/
theorem swapFail_out (hout : op.out = true) :
    w.swapFail id =
      (let w2 := w.setList op.husk (seqMaster op.slice) op.entry (listPod 1 op.pod)
       let x := w2.pod op.pod
       let w3 := if x.state = podSwapOut then w2.setPod op.pod { x with state := podActive, swapAddr := 0 } else w2
       ((if w.swapLive op then w3 else w).inc (oHuskPodSwapFailed op.husk) 1).swapDone id op true false) := by
  simp only [swapFail, hop, hout, Bool.not_true, Bool.false_eq_true, if_false]

/-- R210: a swap-in read ends its swap, however the host answers it. -/
theorem swaps_swapInEnd (hin : op.out = false) (o : HostOutcome) : (w.swapInEnd id o).dev.pods.swaps.get? id = none := by
  simp only [swapInEnd, hop, hin, Bool.false_eq_true, if_false]
  cases o with
  | clean | poison => dsimp only; split <;> exact swaps_swapDone ..
  | unreachable => exact swaps_swapDone ..

end

section
variable {id : Nat} (h : w.dev.pods.swaps.get? id = none)
include h

theorem swapAck_none : w.swapAck id = w := by simp only [swapAck, h]
theorem swapFail_none : w.swapFail id = w := by simp only [swapFail, h]
theorem swapInEnd_none (o : HostOutcome) : w.swapInEnd id o = w := by simp only [swapInEnd, h]

end
end
end World

/-- Settles O48: each command does what its operation's law says, and `World.swapDone` takes a swap out of flight. -/
theorem podsWaitRetireAndSwap : Obligations.PodsWaitRetireAndSwap := by
  intro s
  refine ⟨fun p hp hs hr hn => performs_of_eq rfl (World.retireFree_unused hp hs hr hn), ?_, ?_, ?_, ?_, ?_⟩
  · intro a rest hq havail hlim w1
    have grants : s.world.allocGrant = w1.grantTo a := World.allocGrant_head hq havail hlim
    exact ⟨fun hseq => performs_of_eq rfl (grants.trans (by simp only [World.grantTo, hseq])),
      fun q hseq => performs_of_eq rfl (grants.trans (by simp only [World.grantTo, hseq]))⟩
  · intro id op ok w1 hop hout hw
    have acks := World.swapAck_out (w := s.world) hop hout hw
    exact ⟨fun hlive => performs_of_eq rfl (acks.trans (by rw [if_pos hlive])),
      fun hgone => performs_of_eq rfl (acks.trans (by rw [if_neg (by simp [hgone])]))⟩
  · exact fun id op hop hout => performs_of_eq rfl (World.swapFail_out (w := s.world) hop hout)
  · exact fun id op o hop hin => ⟨rfl, completes_of_done (f := fun w => w.swapInEnd id o) rfl (World.swaps_swapInEnd hop hin o)⟩
  · exact fun id o hnone => ⟨exec_eq_next_of_eq rfl (World.swapAck_none (w := s.world) hnone),
      exec_eq_next_of_eq rfl (World.swapFail_none (w := s.world) hnone),
      exec_eq_next_of_eq rfl (World.swapInEnd_none (w := s.world) hnone o)⟩

end Sys2Proof.Machine
end

section
/-! PROOFS. The statements of sequences, tenants and weight replacement (O49, O50), after the laws that they rest on. -/

/-! ### Sequence and tenant commands -/
namespace Sys2Proof.Machine

namespace World

section
variable {w : World} {c : Ctx} {cmd : Nat}

/-- A sequence command that fails a check is rejected with the first failure's reason, R239. -/
theorem seqTake_rejected {reason : Nat} (h : w.seqFail c cmd = some reason) (effect : World → Ctx → Nat → Nat × Nat × World) :
    w.seqTake effect c cmd = w.rejected c cmd reason (w.seqSpans c cmd) := by
  simp only [seqTake, h]

/-- One that passes them finishes as its effect ends. -/
theorem seqTake_passes (h : w.seqFail c cmd = none) {effect : World → Ctx → Nat → Nat × Nat × World} {w1 : World}
    (he : effect w c cmd = (0, 0, w1)) : w.seqTake effect c cmd = w1.finished c cmd 0 0 := by
  simp only [seqTake, h, he]

/-- A plan that is held leaves the world in which it was found (R257, R311). -/
theorem seqPlanTake_held (h : w.planHeld c.husk = true) (found : World) : seqPlanTake found w c cmd = found := if_pos h

theorem seqPlanTake_free (h : w.planHeld c.husk = false) (found : World) : seqPlanTake found w c cmd = w.seqTake seqPlan c cmd :=
  if_neg (Bool.eq_false_iff.mp h)

/-- R247, R252 and R253: the boundaries and cancellations of the tick, then every entry of the plan, which leaves its buffer. -/
theorem seqCommit_of_plan {p : Plan} (h : (w.cancelEffect c.husk).planAt c.husk (sqcA cmd) = some p) :
    w.seqCommit c cmd =
      (let w2 := (w.cancelEffect c.husk).each ((List.range p.entries.length).zip p.entries) (fun w e => w.commitOne c cmd e)
       let w3 := w2.upSeqs (fun u => { u with plans := u.plans.filter (fun x => !(x.husk == c.husk && x.buffer == sqcA cmd)) })
       (0, 0, w3.wr (oHuskSeqStepsInFlight c.husk) (w3.dev.seqs.plans.filter (fun x => x.husk == c.husk)).length)) := by
  simp only [seqCommit, h]

/-- R255: a pause of a sequence that no plan in flight names takes effect at once. -/
theorem seqPause_unplanned (h : w.inPlan c.husk (dSeq cmd) = false) :
    w.seqPause c cmd = (0, 0, w.seqPauseNow c.husk (dSeq cmd)) := by
  simp only [seqPause, h, Bool.false_eq_true, if_false]

/-- R255: the pause of a planned sequence is noted for its commit. -/
theorem seqPause_planned (h : w.inPlan c.husk (dSeq cmd) = true) :
    w.seqPause c cmd = (0, 0, w.modSeqRt c.husk (dSeq cmd) (fun x => { x with pausing := true })) := by
  simp only [seqPause, h, if_true]

end
end World

section
variable {s : State} {sl : Fin 16} {op cmd : Nat} {i : Instr} {w1 : World}

section
variable {effect : World → Ctx → Nat → Nat × Nat × World}
  (hi : exec i s = s.done (fun w => w.blockTake sl 14 op (World.seqTake effect)))
  (ready : s.world.takeEntry (s.world.blockRing sl 14) (fun x => cmdOp x == op) = some (cmd, w1))
include hi ready

theorem seqCommand_rejected (reason : Nat) (h : w1.seqFail (w1.ctx (s.world.blockRing sl 14)) cmd = some reason) :
    let c := w1.ctx (s.world.blockRing sl 14)
    Performs i s (fun _ => w1.rejected c cmd reason (w1.seqSpans c cmd)) :=
  performs_of_eq hi ((World.blockTake_of_taken ready _).trans (World.seqTake_rejected h effect))

theorem seqCommand_finishes (h : w1.seqFail (w1.ctx (s.world.blockRing sl 14)) cmd = none) {w2 : World}
    (he : effect w1 (w1.ctx (s.world.blockRing sl 14)) cmd = (0, 0, w2)) :
    Performs i s (fun _ => w2.finished (w1.ctx (s.world.blockRing sl 14)) cmd 0 0) :=
  performs_of_eq hi ((World.blockTake_of_taken ready _).trans (World.seqTake_passes h he))

end

section
variable (ready : s.world.takeEntry (s.world.blockRing sl 14) (fun x => cmdOp x == 2) = some (cmd, w1))
include ready

/-- A plan waits while it is held, R257 and R311: nothing of the device changes. -/
theorem seqPlan_waits (h : w1.planHeld (w1.ctx (s.world.blockRing sl 14)).husk = true) : exec (.seqPlan sl) s = .next s :=
  exec_eq_next_of_eq rfl ((World.blockTake_of_taken ready _).trans (World.seqPlanTake_held h s.world))

/-- A plan that nothing holds is taken as every sequence command is. -/
theorem seqPlan_taken (h : w1.planHeld (w1.ctx (s.world.blockRing sl 14)).husk = false) {w2 : World}
    (he : w1.seqTake World.seqPlan (w1.ctx (s.world.blockRing sl 14)) cmd = w2) : Performs (.seqPlan sl) s (fun _ => w2) :=
  performs_of_eq rfl (((World.blockTake_of_taken ready _).trans (World.seqPlanTake_free h s.world)).trans he)

end
end

/-- Settles O49: every command goes through `World.seqTake`, a plan through `World.seqPlanTake` before it; commit and pause have
their effect by `World.seqCommit_of_plan` and the two laws of `World.seqPause`. -/
theorem sequenceCommands : Obligations.SequenceCommands := by
  intro s sl cmd w1 r c h q ready does fails
  refine ⟨seqCommand_rejected rfl, seqCommand_rejected rfl, seqCommand_rejected rfl, seqCommand_rejected rfl, seqCommand_rejected rfl,
    seqCommand_rejected rfl, seqCommand_rejected rfl, ?_, ?_, seqPlan_waits, ?_, ?_, ?_, ?_, ?_, ?_, ?_, ?_⟩
  · exact fun hfree hready reason hr => seqPlan_taken hready hfree (World.seqTake_rejected hr _)
  · exact fun hready hpass => seqCommand_finishes rfl hready hpass rfl
  · exact fun hready hfree hpass => seqPlan_taken hready hfree (World.seqTake_passes hpass rfl)
  · exact fun p hp hready hpass => seqCommand_finishes rfl hready hpass (World.seqCommit_of_plan hp)
  · exact fun hready hpass => seqCommand_finishes rfl hready hpass rfl
  · exact fun hp hready hpass => seqCommand_finishes rfl hready hpass (World.seqPause_unplanned hp)
  · exact fun hp hready hpass => seqCommand_finishes rfl hready hpass (World.seqPause_planned hp)
  · exact fun hready hpass => seqCommand_finishes rfl hready hpass rfl
  · exact fun hready hpass => seqCommand_finishes rfl hready hpass rfl
  · exact fun hready hpass => seqCommand_finishes rfl hready hpass rfl

end Sys2Proof.Machine

/-! ### Translation, the sequence table and checkpoint tables do not look at the windows -/
namespace Sys2Proof.Machine

namespace World

section
variable (w : World) (ws : AMap Window)

theorem readStored_windows (a n key : Nat) : (withWindows w ws).readStored a n key = w.readStored a n key := rfl

theorem checkLeaf_windows (h va pte level : Nat) (need : Need) :
    (withWindows w ws).checkLeaf h va pte level need = w.checkLeaf h va pte level need := rfl

theorem walkFrom_windows (h va : Nat) (levels : List (Nat × Nat × Nat)) (table : Nat) :
    (withWindows w ws).walkFrom h va levels table = w.walkFrom h va levels table := by
  induction levels generalizing table with
  | nil => rfl
  | cons level rest ih =>
    rw [walkFrom, walkFrom]
    simp only [ih]
    rfl

/-- A translation's answer turns on the walk, the cached leaf and the free choice alone, R41 to R45. -/
theorem translate_windows (h va : Nat) (need : Need) :
    ((withWindows w ws).translate h va need).1 = (w.translate h va need).1 := by
  have root : (withWindows w ws).rd (oHuskPageTableBase h) = w.rd (oHuskPageTableBase h) := rfl
  have draw : (withWindows w ws).fresh = (w.fresh.1, withWindows w.fresh.2 ws) := rfl
  simp only [translate, walkFrom_windows, checkLeaf_windows, root, draw]
  repeat' split
  all_goals rfl

theorem peek_windows (h va : Nat) (need : Need) : (withWindows w ws).peek h va need = w.peek h va need := by
  rw [peek, peek, translate_windows]

theorem peekLeaf_windows (h va : Nat) (need : Need) : (withWindows w ws).peekLeaf h va need = w.peekLeaf h va need := by
  rw [peekLeaf, peekLeaf, translate_windows]

theorem vnum_windows (h va n : Nat) : (withWindows w ws).vnum h va n = w.vnum h va n := by
  rw [vnum, vnum, peekLeaf_windows]
  rfl

theorem seqWord_windows (h q : Nat) : (withWindows w ws).seqWord h q = w.seqWord h q := vnum_windows ..

theorem seqState_windows (h q : Nat) : (withWindows w ws).seqState h q = w.seqState h q := by
  rw [seqState, seqState, seqWord_windows]
  rfl

theorem cancelNames_windows (h v : Nat) : (withWindows w ws).cancelNames h v = w.cancelNames h v := by
  simp only [cancelNames, seqState_windows, seqWord_windows]
  rfl

theorem ckWord_windows (h va : Nat) : (withWindows w ws).ckWord h va = w.ckWord h va := by
  rw [ckWord, ckWord, peek_windows]
  rfl

theorem inHbmOrTier3_windows (h va n : Nat) (need : Need) : (withWindows w ws).inHbmOrTier3 h va n need = w.inHbmOrTier3 h va n need := by
  simp only [inHbmOrTier3, peek_windows]

theorem ckTableOk_windows (h n : Nat) : (withWindows w ws).ckTableOk h n = w.ckTableOk h n := by
  simp only [ckTableOk, ckWord_windows, inHbmOrTier3_windows]
  rfl

end

end World

end Sys2Proof.Machine

/-! ### Time and management of sequences -/
namespace Sys2Proof.Machine

/-- A write of a scalar object that has ended, with the sequences, the checkpoint tables and what is due as its effect made them. -/
structure RolloutWriteEnded (s t : State) (p : Path) (index sub : Nat) (v : Word) (reason : Nat) (w1 : World) : Prop
    extends WriteEnded s t p index sub v reason w1 where
  seqs : t.dev.seqs = w1.dev.seqs
  prefetch : t.dev.prefetch = w1.dev.prefetch
  due : t.dev.due = w1.dev.due

/-- Such a write ends as `odCommand_ends` says, and the windows, the replies and the saved settings are all that comes on top. -/
theorem odCommand_rolloutEnds {s : State} {p : Path} {index sub : Nat} {v : Word} {effect : World → Nat → Nat × World} {reason : Nat}
    {w1 : World} (ht : odTakes s.world p index sub v = true)
    (he : ∀ ws, effect (withWindows s.world ws) v.toNat = (reason, withWindows w1 ws))
    (hr : reason ≠ World.odPending) (hlog : w1.log = []) (hn : w1.rd oFieldNetState = s.world.rd oFieldNetState) :
    RolloutWriteEnded s (s.run (fun w => w.odCommand p index sub v true effect)) p index sub v reason w1 := by
  obtain ⟨ws, hrun⟩ := odCommand_takes ht effect
  simp only [he, if_neg hr] at hrun
  have parts {w2 : World} {rs : Nat} (h : s.world.odCommand p index sub v true effect = w2.odFinish p rs 0 [] false)
      (seqs : w2.dev.seqs = w1.dev.seqs) (prefetch : w2.dev.prefetch = w1.dev.prefetch) (due : w2.dev.due = w1.dev.due) :
      RolloutWriteEnded s (s.run (fun w => w.odCommand p index sub v true effect)) p index sub v reason w1 := by
    obtain ⟨_, _, hdev⟩ := w2.odFinish_dev p rs 0 [] false
    exact
      { odCommand_ends ht he hr hlog hn with
        seqs := by rw [State.run_dev, h, hdev, ← seqs]
        prefetch := by rw [State.run_dev, h, hdev, ← prefetch]
        due := by rw [State.run_dev, h, hdev, ← due] }
  split at hrun
  · exact parts hrun rfl rfl rfl
  · exact parts hrun rfl rfl rfl

/-- A write of an object that is not saved (R408) leaves the objects as its effect made them. -/
theorem WriteEnded.od_unsaved {s t : State} {p : Path} {index sub : Nat} {v : Word} {reason : Nat} {w1 : World}
    (h : WriteEnded s t p index sub v reason w1) (hs : odSaved index sub = false) : t.dev.od = w1.dev.od :=
  h.od (by simp [writeSaves, hs])

theorem WriteEnded.val_unsaved {s t : State} {p : Path} {index sub : Nat} {v : Word} {reason : Nat} {w1 : World}
    (h : WriteEnded s t p index sub v reason w1) (hs : odSaved index sub = false) (k : OKey) : t.val k = w1.rd k :=
  World.rd_congr (h.od_unsaved hs) k

/-- A husk's cancellations, replacement and checkpoint table are no saved settings (R408). -/
theorem huskRolloutObjects_unsaved : ∀ h : Fin 16, ∀ x ∈ [(0x3060, 0x10), (0x3060, 0x20), (0x3060, 0x22), (0x3080, 2)],
    odSaved (x.1 + h.val * 256) x.2 = false := by
  decide +kernel

namespace World

/-- The next boundary, due, R252. -/
theorem boundaryDue_due {w : World} (hw : w.rd oTenantWindow ≠ 0) (hdue : w.nextBoundary ≤ w.now) :
    w.boundaryDue =
      (let w1 := w.tenantBoundary
       { w1 with dev := { w1.dev with seqs := { w1.dev.seqs with lastBoundary := w.nextBoundary } } }) :=
  if_pos ⟨hw, hdue⟩

section
variable {w : World} {h q : Nat}

/-- The sequence's refusal at the end of its hold, R243. -/
theorem holdExpiry_due (hq : w.seqState h q = ssQueued) (hdue : sqArrival (w.seqWord h q) + sqHold (w.seqWord h q) ≤ w.now) :
    w.holdExpiry h q =
      if (w.tenant (sqTenant (w.seqWord h q))).available < 1 then
        (w.seqEnd h q ssRefused 0x0101).modTenant (sqTenant (w.seqWord h q)) (fun t => { t with refusals := t.refusals + 1 })
      else w.seqEnd h q ssRefused 0x0102 :=
  if_pos ⟨hq, hdue⟩

/-- R253: a name with no reserved bit set that names no live sequence is refused, and the husk keeps the reason. -/
theorem cancelWrite_none {v : Nat} (hr : rsvd v 16 15 = true) (hnone : w.cancelNames h v = []) :
    w.cancelWrite h v = (0x0108, w.wr (oHuskSeqLastReason h) 0x0108) := by
  simp [cancelWrite, hr, hnone]

theorem cancelWrite_reserved {v : Nat} (hr : rsvd v 16 15 = false) :
    w.cancelWrite h v = (0x000D, w.wr (oHuskSeqLastReason h) 0x000D) := by
  simp [cancelWrite, hr]

/-- The world in which the named sequences wait for their cancellation, each with the tick of the write (R253). -/
def cancelled (w : World) (h v : Nat) : World :=
  w.upSeqs (fun u => { u with cancels := u.cancels.put h (u.cancels.getD h [] ++ (w.cancelNames h v).map (fun q => (q, w.now))) })

theorem cancelWrite_named {v : Nat} (hr : rsvd v 16 15 = true) (hsome : w.cancelNames h v ≠ []) :
    w.cancelWrite h v = (0, w.cancelled h v) := by
  simp [cancelWrite, hr, hsome, cancelled]

/-- R253 and R254: the only cancellation of a husk, due, takes effect and waits no longer. -/
theorem cancelEffect_due {k : Nat} (hq : w.dev.seqs.cancels.getD h [] = [(q, k)]) (hk : k < w.now) :
    w.cancelEffect h =
      (let w1 := w.tenantCatchUp.upSeqs (fun u => { u with cancels := u.cancels.del h })
       if sqLive (w1.seqState h q) then w1.seqEnd h q ssCancelled 0x0105 else w1) := by
  simp [cancelEffect, hq, hk, each]

end

section
variable {w : World} {h v : Nat}

/-- May a replacement to `v` begin: none is under way or due, and its version is a later one (R256)? -/
def replaceFits (w : World) (h v : Nat) : Bool :=
  let cur := w.rd (oHuskReplaceState h)
  fld cur 60 4 == 0 && decide (fld cur 0 32 < fld v 0 32) && !w.replaceDue h

theorem replaceFits_iff (w : World) (h v : Nat) : w.replaceFits h v = true ↔
    ¬ (fld (w.rd (oHuskReplaceState h)) 60 4 ≠ 0 ∨ fld v 0 32 ≤ fld (w.rd (oHuskReplaceState h)) 0 32 ∨ w.replaceDue h = true) := by
  simp [replaceFits, and_assoc]

/-- The reason with which a write of HuskReplaceStart ends, R256. -/
def replaceReason (w : World) (h v : Nat) : Nat := if rsvd v 48 16 then (if w.replaceFits h v then 0 else 0x010A) else 0x000D

/-- It is a reason that a reply carries, in 16 bits. -/
theorem replaceReason_lt (w : World) (h v : Nat) : w.replaceReason h v < 0x10000 := by
  rw [replaceReason]
  split
  · split <;> decide
  · decide

/-- The world in which the replacement, if it may begin, is due in the next tick (R257). -/
def replaceAsked (w : World) (h v : Nat) : World :=
  { w with dev := { w.dev with
    due := w.dev.due ++ (if rsvd v 48 16 && w.replaceFits h v then [.replaceStart h (fld v 0 32) (fld v 32 16)] else []) } }

/-- A write of HuskReplaceStart makes the replacement due, or is refused and changes nothing, R256 and R257. -/
theorem replaceStart_eq (w : World) (h v : Nat) : w.replaceStart h v = (w.replaceReason h v, w.replaceAsked h v) := by
  by_cases hr : rsvd v 48 16 = true
  · by_cases hf : w.replaceFits h v = true
    · simp [replaceStart, replaceReason, replaceAsked, hr, hf, (w.replaceFits_iff h v).mp hf]
    · simp [replaceStart, replaceReason, replaceAsked, hr, hf, Classical.not_not.mp (mt (w.replaceFits_iff h v).mpr hf)]
  · simp [replaceStart, replaceReason, replaceAsked, hr]

/-- R257 step 2: nothing of the husk is in flight any more, and the layers begin. -/
theorem replaceDrained_empty (h1 : fld (w.rd (oHuskReplaceState h)) 60 4 = 1) (h0 : w.rd (oHuskSeqStepsInFlight h) = 0) :
    w.replaceDrained h =
      (w.wr (oHuskReplaceState h) (replaceWord (if w.dev.seqs.replaceLayers.getD h 0 = 0 then 0 else 2) 0
        (fld (w.rd (oHuskReplaceState h)) 0 32))).writeReady h (fld (w.rd (oHuskReplaceState h)) 0 32 * 65536) :=
  if_pos ⟨h1, h0⟩

section
variable {cur n : Nat} (hcur : w.rd (oHuskReplaceState h) = cur) (hn : w.dev.seqs.replaceLayers.getD h 0 = n)
include hcur

theorem replaceLayer_idle (h2 : fld cur 60 4 ≠ 2) : w.replaceLayer h v = (0x0108, w) := if_pos (hcur ▸ h2)

include hn

/-- R257 steps 3 and 4: the next layers of the replacement are ready. -/
theorem replaceLayer_next (h2 : fld cur 60 4 = 2) (hlo : fld cur 32 16 < v) (hhi : v ≤ n) :
    w.replaceLayer h v = (0, (w.wr (oHuskReplaceState h) (replaceWord (if v = n then 0 else 2) v (fld cur 0 32))).writeReady h
      (fld cur 0 32 * 65536 + v)) := by
  simp only [replaceLayer, hcur, hn]
  rw [if_neg (by simp [h2]), if_neg (by omega)]

theorem replaceLayer_outside (h2 : fld cur 60 4 = 2) (hv : v ≤ fld cur 32 16 ∨ n < v) : w.replaceLayer h v = (0x000D, w) := by
  simp only [replaceLayer, hcur, hn]
  rw [if_neg (by simp [h2]), if_pos hv]

end

/-- The reason with which a write of HuskCkptCount ends, R262. -/
def ckptReason (w : World) (h n : Nat) : Nat := if w.runActive h then 0x0208 else if w.ckTableOk h n then 0 else 0x0504

theorem ckptReason_lt (w : World) (h n : Nat) : w.ckptReason h n < 0x10000 := by
  rw [ckptReason]
  split
  · decide
  · split <;> decide

/-- The world in which the next checkpoint table of `n` entries is in force. -/
def ckptInForce (w : World) (h n : Nat) : World :=
  (w.upPf (fun x => { x with ckBase := x.ckBase.put h (w.rd (oHuskCkptTableBase h)) })).wr (oHuskCkptCount h) n

theorem ckptCount_eq (w : World) (h n : Nat) :
    w.ckptCount h n = (w.ckptReason h n, if w.ckptReason h n = 0 then w.ckptInForce h n else w) := by
  by_cases hrun : w.runActive h = true
  · simp [ckptCount, ckptReason, hrun]
  · by_cases hok : w.ckTableOk h n = true
    · simp [ckptCount, ckptReason, hrun, hok, ckptInForce, upPf]
    · simp [ckptCount, ckptReason, hrun, hok]

end

/-- A replacement's word shows its STATE. -/
theorem state_replaceWord {state ver : Nat} (hs : state < 16) (hv : ver < 2 ^ 32) : fld (replaceWord state 0 ver) 60 4 = state := by
  rw [fld_eq_div_mod, replaceWord]
  omega

end World

/-! ### The commands -/

theorem seqHoldExpiry_performs (s : State) (h : Fin 16) (q : BitVec 16) (hq : s.world.seqState h.val q.toNat = ssQueued)
    (hdue : sqArrival (s.world.seqWord h.val q.toNat) + sqHold (s.world.seqWord h.val q.toNat) ≤ s.dev.time.tick) :
    let tenant := sqTenant (s.world.seqWord h.val q.toNat)
    (1 ≤ (s.world.tenant tenant).available →
      Performs (.seqHoldExpiry h q) s (fun w => w.seqEnd h.val q.toNat ssRefused 0x0102))
    ∧ ((s.world.tenant tenant).available = 0 → Performs (.seqHoldExpiry h q) s (fun w =>
        (w.seqEnd h.val q.toNat ssRefused 0x0101).modTenant tenant (fun t => { t with refusals := t.refusals + 1 }))) := by
  have expires := World.holdExpiry_due hq hdue
  exact ⟨fun ha => performs_of_eq rfl (expires.trans (if_neg (by omega))), fun ha => performs_of_eq rfl (expires.trans (if_pos (by omega)))⟩

theorem tenantWindowWrite_completes (s : State) (p : Path) (v : Word) (ht : odTakes s.world p 0x2070 1 v = true) :
    Completes (.tenantWindowWrite p v) s (fun t =>
      t.reply p = 0 ∧ t.val oTenantWindow = v.toNat ∧ t.val oTenantWindowStart = s.dev.time.tick % 2 ^ 64
      ∧ t.dev.seqs = { s.dev.seqs with lastBoundary := s.dev.time.tick }
      ∧ SameMemory s t ∧ SameObjectsBut [oTenantWindow, oTenantWindowStart, oNvConfigWrites] s t) := by
  let w1 := (s.world.wr oTenantWindow v.toNat).windowStart s.world.now
  have he : ∀ ws, World.tenantWindowWrite (withWindows s.world ws) v.toNat = (0, withWindows w1 ws) := fun _ => rfl
  have hval : ∀ k, w1.rd k = ((s.world.wr oTenantWindow v.toNat).wr oTenantWindowStart s.world.now).rd k := fun _ => rfl
  have other : ∀ k : OKey, k.key ≠ oTenantWindow.key → k.key ≠ oTenantWindowStart.key → w1.rd k = s.val k := fun k h1 h2 => by
    rw [hval, World.rd_wr_other _ h2, World.rd_wr_other _ h1]
    rfl
  have ended := odCommand_rolloutEnds ht he (by decide) rfl (other _ (by decide) (by decide))
  refine completes_of_done rfl ⟨ended.reply, ?_, ?_, ended.seqs, ended.memory, fun k hk => ?_⟩
  · rw [ended.val _ (by decide), hval, World.rd_wr_other _ (by decide), World.rd_wr_word]
  · rw [ended.val _ (by decide), hval, World.rd_wr_same]
    rfl
  · simp only [List.map_cons, List.map_nil, List.mem_cons, List.not_mem_nil, or_false, not_or] at hk
    obtain ⟨h1, h2, h3⟩ := hk
    rw [ended.val _ h3, other _ h1 h2]

section
variable {s : State} {p : Path} {h : Fin 16} {v : Word}

section
variable {i : Instr} (hi : i = .seqCancel p h v ∨ i = .seqCancelGroup p h v)
include hi

/-- Both forms of a cancellation are the same write (R253). -/
theorem exec_seqCancel : exec i s = s.done (fun w => w.odCommand p (0x3060 + h.val * 256) 0x10 v true (fun w n => w.cancelWrite h.val n)) := by
  rcases hi with rfl | rfl <;> rfl

variable (ht : odTakes s.world p (0x3060 + h.val * 256) 0x10 v = true)
include ht

theorem seqCancel_named (hr : rsvd v.toNat 16 15 = true) (hsome : s.world.cancelNames h.val v.toNat ≠ []) :
    Completes i s (fun t => t.reply p = 0 ∧ t.dev.od = s.dev.od ∧ SameMemory s t
      ∧ t.dev.seqs.cancels = s.dev.seqs.cancels.put h.val (s.dev.seqs.cancels.getD h.val []
          ++ (s.world.cancelNames h.val v.toNat).map (fun q => (q, s.dev.time.tick)))
      ∧ t.dev.seqs.plans = s.dev.seqs.plans) := by
  have he : ∀ ws, (withWindows s.world ws).cancelWrite h.val v.toNat =
      (0, withWindows (s.world.cancelled h.val v.toNat) ws) := fun ws => by
    have names := s.world.cancelNames_windows ws h.val v.toNat
    rw [World.cancelWrite_named hr (by rwa [names]), World.cancelled, names]
    rfl
  have ended := odCommand_rolloutEnds (effect := fun w n => w.cancelWrite h.val n) ht he (by decide) rfl rfl
  refine completes_of_done (exec_seqCancel hi)
    ⟨ended.reply, ended.od_unsaved (huskRolloutObjects_unsaved h (0x3060, 0x10) (by decide)), ended.memory, ?_, ?_⟩
  · rw [ended.seqs]
    rfl
  · rw [ended.seqs]
    rfl

/-- A cancellation that is refused leaves its reason with the husk, R253. -/
theorem seqCancel_refused {reason : Nat} (hlt : reason < 0x10000)
    (he : ∀ ws, (withWindows s.world ws).cancelWrite h.val v.toNat =
      (reason, (withWindows s.world ws).wr (oHuskSeqLastReason h.val) reason)) :
    Completes i s (fun t => t.reply p = BitVec.ofNat 16 reason ∧ t.dev.seqs = s.dev.seqs
      ∧ t.val (oHuskSeqLastReason h.val) = reason ∧ SameMemory s t ∧ SameObjectsBut [oHuskSeqLastReason h.val] s t) := by
  have hnet : oFieldNetState.key ≠ (oHuskSeqLastReason h.val).key := by
    simp only [oFieldNetState, oHuskSeqLastReason]
    omega
  have ended := odCommand_rolloutEnds (effect := fun w n => w.cancelWrite h.val n) (w1 := s.world.wr (oHuskSeqLastReason h.val) reason)
    ht he (Nat.ne_of_lt hlt) rfl (World.rd_wr_other _ hnet _)
  have objects := ended.val_unsaved (huskRolloutObjects_unsaved h (0x3060, 0x10) (by decide))
  refine completes_of_done (exec_seqCancel hi) ⟨ended.reply, ended.seqs, ?_, ended.memory, fun k hk => ?_⟩
  · rw [objects, World.rd_wr_same]
    omega
  · rw [objects, World.rd_wr_other _ (by simpa using hk)]
    rfl

end

theorem huskReplaceStart_completes (ht : odTakes s.world p (0x3060 + h.val * 256) 0x20 v = true) :
    Completes (.huskReplaceStart p h v) s (fun t =>
      t.reply p = (if rsvd v.toNat 48 16 then (if s.world.replaceFits h.val v.toNat then 0 else 0x010A) else 0x000D)
      ∧ t.dev.due = s.dev.due ++ (if rsvd v.toNat 48 16 && s.world.replaceFits h.val v.toNat then
          [.replaceStart h.val (fld v.toNat 0 32) (fld v.toNat 32 16)] else [])
      ∧ t.dev.od = s.dev.od ∧ t.dev.seqs = s.dev.seqs ∧ SameMemory s t) := by
  have ended := odCommand_rolloutEnds (effect := fun w n => w.replaceStart h.val n) (w1 := s.world.replaceAsked h.val v.toNat) ht
    (fun ws => (withWindows s.world ws).replaceStart_eq h.val v.toNat) (Nat.ne_of_lt (s.world.replaceReason_lt h.val v.toNat)) rfl rfl
  have reply := ended.reply
  simp only [World.replaceReason, apply_ite (BitVec.ofNat 16)] at reply
  exact completes_of_done rfl
    ⟨reply, ended.due, ended.od_unsaved (huskRolloutObjects_unsaved h (0x3060, 0x20) (by decide)), ended.seqs, ended.memory⟩

theorem replaceStart_takesEffect (s : State) (h : Fin 16) (ver n : Nat) (hver : ver < 2 ^ 32) :
    let t := s.run (fun w => w.dueAct (.replaceStart h.val ver n))
    t.val (oHuskReplaceState h.val) = World.replaceWord 1 0 ver ∧ t.world.planHeld h.val = true
      ∧ t.dev.seqs.plans = s.dev.seqs.plans ∧ SameMemory s t ∧ SameObjectsBut [oHuskReplaceState h.val] s t := by
  intro t
  have word : t.val (oHuskReplaceState h.val) = World.replaceWord 1 0 ver := by
    refine (World.rd_wr_same s.world (oHuskReplaceState h.val) (World.replaceWord 1 0 ver)).trans (Nat.mod_eq_of_lt ?_)
    rw [World.replaceWord]
    omega
  refine ⟨word, ?_, rfl, same_memory_of_log rfl, fun k hk => World.rd_wr_other _ (by simpa using hk) _⟩
  have holds : fld (t.world.rd (oHuskReplaceState h.val)) 60 4 = 1 := by
    rw [show t.world.rd (oHuskReplaceState h.val) = _ from word, World.state_replaceWord (by decide) hver]
  simp [World.planHeld, holds]

section
variable (ht : odTakes s.world p (0x3060 + h.val * 256) 0x22 v = true)
include ht

theorem huskReplaceLayerDone_performs {cur n : Nat} (hcur : s.val (oHuskReplaceState h.val) = cur)
    (hn : s.dev.seqs.replaceLayers.getD h.val 0 = n) (h2 : fld cur 60 4 = 2) (hlo : fld cur 32 16 < v.toNat) (hhi : v.toNat ≤ n) :
    Performs (.huskReplaceLayerDone p h v) s (fun w =>
      (((odAsked w p (0x3060 + h.val * 256) 0x22 v).wr (oHuskReplaceState h.val)
        (World.replaceWord (if v.toNat = n then 0 else 2) v.toNat (fld cur 0 32))).writeReady h.val (fld cur 0 32 * 65536 + v.toNat)).odFinish
          p 0 0 [] false) := by
  obtain ⟨ws, hasked⟩ := odAsked_of_odTakes ht
  have he := World.replaceLayer_next (w := odAsked s.world p (0x3060 + h.val * 256) 0x22 v) (by rw [hasked]; exact hcur)
    (by rw [hasked]; exact hn) h2 hlo hhi
  exact performs_of_eq rfl ((odCommand_unsaved ht (huskRolloutObjects_unsaved h (0x3060, 0x22) (by decide)) he).trans (if_neg (by decide)))

/-- A layer that no replacement waits for is refused and changes nothing. -/
theorem huskReplaceLayerDone_refused {reason : Nat} (hlt : reason < 0x10000)
    (he : ∀ ws, (withWindows s.world ws).replaceLayer h.val v.toNat = (reason, withWindows s.world ws)) :
    Completes (.huskReplaceLayerDone p h v) s (fun t => t.reply p = BitVec.ofNat 16 reason ∧ t.dev.od = s.dev.od ∧ SameMemory s t) := by
  have ended := odCommand_ends (effect := fun w n => w.replaceLayer h.val n) ht he (Nat.ne_of_lt hlt) rfl rfl
  exact completes_of_done rfl ⟨ended.reply, ended.od_unsaved (huskRolloutObjects_unsaved h (0x3060, 0x22) (by decide)), ended.memory⟩

end

theorem ckptTableWrite_completes (ht : odTakes s.world p (0x3080 + h.val * 256) 2 v = true) :
    let reason := s.world.ckptReason h.val v.toNat
    Completes (.ckptTableWrite p h v) s (fun t => t.reply p = BitVec.ofNat 16 reason ∧ SameMemory s t
      ∧ t.val (oHuskCkptCount h.val) = (if reason = 0 then v.toNat else s.val (oHuskCkptCount h.val))
      ∧ t.dev.prefetch.ckBase = (if reason = 0 then s.dev.prefetch.ckBase.put h.val (s.val (oHuskCkptTableBase h.val)) else s.dev.prefetch.ckBase)
      ∧ SameObjectsBut [oHuskCkptCount h.val, oNvConfigWrites] s t) := by
  intro reason
  have hr : reason ≠ World.odPending := Nat.ne_of_lt (s.world.ckptReason_lt h.val v.toNat)
  have same : ∀ ws, (withWindows s.world ws).ckptReason h.val v.toNat = reason := fun ws => by
    rw [World.ckptReason, World.ckTableOk_windows]
    rfl
  have he : ∀ ws, (withWindows s.world ws).ckptCount h.val v.toNat =
      (reason, withWindows (if reason = 0 then s.world.ckptInForce h.val v.toNat else s.world) ws) := fun ws => by
    rw [World.ckptCount_eq, same]
    split <;> rfl
  have other : ∀ k : OKey, k.key ≠ (oHuskCkptCount h.val).key →
      (if reason = 0 then s.world.ckptInForce h.val v.toNat else s.world).rd k = s.val k := fun k hk => by
    split
    · exact World.rd_wr_other _ hk _
    · rfl
  have hnet : oFieldNetState.key ≠ (oHuskCkptCount h.val).key := by
    simp only [oFieldNetState, oHuskCkptCount]
    omega
  have ended := odCommand_rolloutEnds (effect := fun w n => w.ckptCount h.val n) ht he hr (by split <;> rfl) (other _ hnet)
  have objects := ended.val_unsaved (huskRolloutObjects_unsaved h (0x3080, 2) (by decide))
  refine completes_of_done rfl ⟨ended.reply, ended.memory, ?_, ?_, fun k hk => ?_⟩
  · rw [objects]
    split
    · exact World.rd_wr_word _ _ _
    · rfl
  · rw [ended.prefetch]
    split <;> rfl
  · rw [objects, other k (fun e => hk (by simp [e]))]

end

/-- Settles O50: a refusal, a boundary, a cancellation and a drain that are due by the laws of their effects; the writes by
`odCommand_rolloutEnds`, since no check of theirs looks at the request's window (`World.cancelNames_windows`, `World.ckTableOk_windows`). -/
theorem sequenceManagement : Obligations.SequenceManagement := by
  intro s
  refine ⟨seqHoldExpiry_performs s, ?_, tenantWindowWrite_completes s, ?_, ?_, ?_, ?_, replaceStart_takesEffect s, ?_, ?_, ?_⟩
  · exact fun hw hdue => performs_of_eq rfl (World.boundaryDue_due (w := s.world) hw hdue)
  · intro p h v i hi ht hr
    refine ⟨fun hsome => seqCancel_named hi ht hr hsome, fun hnone => seqCancel_refused hi ht (by decide) fun ws => ?_⟩
    exact World.cancelWrite_none hr (by rw [World.cancelNames_windows, hnone])
  · exact fun h q k hq hk => performs_of_eq rfl (World.cancelEffect_due (w := s.world) hq hk)
  · exact fun p h v i hi ht hr => seqCancel_refused hi ht (by decide) fun ws => World.cancelWrite_reserved hr
  · exact fun p h v ht => huskReplaceStart_completes ht
  · exact fun h h1 h0 => performs_of_eq rfl (World.replaceDrained_empty (w := s.world) h1 h0)
  · intro p h v ht
    refine ⟨fun h2 hlo hhi => huskReplaceLayerDone_performs ht rfl rfl h2 hlo hhi, fun h2 hv => ?_, fun h2 => ?_⟩
    · exact huskReplaceLayerDone_refused ht (by decide) fun ws => World.replaceLayer_outside rfl rfl h2 hv
    · exact huskReplaceLayerDone_refused ht (by decide) fun ws => World.replaceLayer_idle rfl h2
  · exact fun p h v ht => ckptTableWrite_completes ht

end Sys2Proof.Machine
end

section
/-! PROOFS. The laws of the update unit's commands, and what the statement of a program's end in O51 turns on. O51 is not settled here: it
follows from `World.EntryKept` (`updateCommands_of_entryKept`), which R45 leaves open by the draw `Config.cacheHit`
(`not_updateCommands_of_staleLeaf`). -/

/-! ### Update commands -/
namespace Sys2Proof.Machine

namespace World

section
variable {w : World} {c : Ctx} {cmd : Nat}

/-- A turn that holds the husk leaves the world in which the command was found, R311. -/
theorem updateTakeHeld_held (h : w.dev.seqs.turnHeld.elem c.husk = true) (found : World) : updateTakeHeld found w c cmd = found := if_pos h

theorem updateTakeHeld_free (h : w.dev.seqs.turnHeld.elem c.husk = false) (found : World) :
    updateTakeHeld found w c cmd = w.updateTake c cmd := if_neg (Bool.eq_false_iff.mp h)

theorem updateTake_passes (h : w.updateFail c cmd = none) : w.updateTake c cmd =
    (w.each (List.range (uCount cmd)) (fun w i => w.upSetLock c cmd i (c.slice + 1))).waiting c cmd .grad [0, 0, 0, 0, 0, 0] := by
  simp only [updateTake, h]

theorem updateTake_fails {reason : Nat} (h : w.updateFail c cmd = some reason) :
    w.updateTake c cmd = w.rejected c cmd reason (w.updateSpans c cmd) := by
  simp only [updateTake, h]

end

section
variable {w : World} {s : Fin 16} {t : Taken} (ht : w.takenWith (w.blockRing s 13) .grad = some t)
include ht

theorem gradReady_present (hf : fld (w.vnum t.husk (uFlag t.cmd) 8) 0 32 = uFlagSeq t.cmd) : w.gradReady s =
    updateOn (uCount t.cmd) (w.modTaken (w.blockRing s 13) (fun t => t.wait == .grad) (fun t => { t with wait := .event }))
      (w.ctxOf (w.blockRing s 13) t) t.cmd t.aux := by
  simp only [gradReady, ht, hf, ne_eq, not_true_eq_false, if_false]

theorem gradReady_absent (hf : fld (w.vnum t.husk (uFlag t.cmd) 8) 0 32 ≠ uFlagSeq t.cmd) : w.gradReady s = w := by
  simp only [gradReady, ht, hf, ne_eq, not_false_eq_true, if_true]

/-- R288: with no flag at the limit the locks go, and the command ends. -/
theorem gradTimeout_due (hf : fld (w.vnum t.husk (uFlag t.cmd) 8) 0 32 ≠ uFlagSeq t.cmd)
    (hdue : t.since + w.rd (oHuskUpdateTimeout t.husk) ≤ w.now) : w.gradTimeout s =
    (w.each (List.range (uCount t.cmd)) (fun u i => u.upSetLock (w.ctx (w.blockRing s 13)) t.cmd i 0)).finishWait
      (w.blockRing s 13) .grad 1 0x050B := by
  simp only [gradTimeout, ht]
  exact if_neg (not_or.mpr ⟨hf, Nat.not_lt.mpr hdue⟩)

end
end World

section
variable {s : State} {sl : Fin 16} {cmd : Nat} {w1 : World}
  (ready : s.world.takeEntry (s.world.blockRing sl 13) (fun x => cmdOp x == 1) = some (cmd, w1))
include ready

theorem update_performs (hheld : w1.dev.seqs.turnHeld.elem (w1.ctx (s.world.blockRing sl 13)).husk = false) :
    Performs (.update sl) s (fun _ => w1.updateTake (w1.ctx (s.world.blockRing sl 13)) cmd) :=
  performs_of_eq rfl ((World.blockTake_of_taken ready _).trans (World.updateTakeHeld_free hheld s.world))

theorem update_waits (hheld : w1.dev.seqs.turnHeld.elem (w1.ctx (s.world.blockRing sl 13)).husk = true) :
    exec (.update sl) s = .next s :=
  exec_eq_next_of_eq rfl ((World.blockTake_of_taken ready _).trans (World.updateTakeHeld_held hheld s.world))

end
end Sys2Proof.Machine

/-! ### The end of a program -/
namespace Sys2Proof.Machine

namespace World

/-- The new bank and the published bytes of a parameter whose entry is `v` are written, R295. -/
def bankWritten (v : Nat) (w : World) (c : Ctx) (cmd : Nat) (data : List Byte) (bad : Bool) : World :=
  let put (u : World) (va : Nat) (x : List Byte) : World :=
    let bb := List.replicate x.length bad
    (u.writeVirt c.husk c.master 2 va (maskBad va x bb) bb).2
  put (put w (upBankAddr v (1 - upBank v)) data) (uStage cmd + 64 + 64 * upPub v)
    ((data.drop (bankBytes v - up64 (pubBytes v))).take (pubBytes v))

/-- The word of R295's one write: no lock, the other bank, the step and the new powers. -/
def committedWord (v cmd : Nat) : Nat :=
  let v1 := setFld (setFld (setFld (setFld v 8 8 0) 16 1 (1 - upBank v)) 192 64 (uStep cmd)) 160 32 (f32Mul (upPow1 v) (upBeta1 v)).toNat
  setFld v1 128 32 (f32Mul (upPow2 v) (upBeta2 v)).toNat

/-- The commit of a parameter from its entry `v`, R295. -/
def commitFrom (v : Nat) (w : World) (c : Ctx) (cmd : Nat) (aux : List Nat) (data : List Byte) (bad : Bool) : World :=
  updateOn (uCount cmd)
    (((bankWritten v w c cmd data bad).upCommitWord c cmd (aux.headD 0) (committedWord v cmd)).inc (oHuskUpdateApplied c.husk) 1) c cmd
    [aux.headD 0 + 1, aux.getD 1 0 + 1, aux.getD 2 0, aux.getD 3 0, if bad then 2 else aux.getD 4 0]

/-- The world in which a program has read its operands, R290: its parameter's gradient, by the parameter's entry `v`, then the old state
unless that came from Tier 3. -/
def operandsRead (w : World) (c : Ctx) (cmd v : Nat) (came : List Nat) : World :=
  let g := w.readVirt c.husk c.master 1 (uGrad cmd + upGrad v * 544) (gradBytes v)
  let d := g.2.readVirt c.husk c.master 1 (upBankAddr v (upBank v)) (bankBytes v)
  if came = [] then d.2.consumed c (upBankAddr v (upBank v)) d.1.1 else g.2

/-- The end of a program, R289 to R295. `entry` gives the entry from which the parameter is committed, in the world in which the operands
have been read. -/
def programEnd (entry : World → Nat) (w : World) (s : Fin 16) (t : Taken) : World :=
  let c : Ctx := w.ctxOf (w.blockRing s 13) t
  let v := w.upEnt t.husk t.cmd (t.aux.headD 0)
  let used := fld (w.vnum t.husk (uRecord t.cmd) 64) 192 32
  let came := t.aux.drop 6
  let ((g, _), w1) := w.readVirt t.husk c.master 1 (uGrad t.cmd + upGrad v * 544) (gradBytes v)
  let ((d, _), w2) := w1.readVirt t.husk c.master 1 (upBankAddr v (upBank v)) (bankBytes v)
  let (b, bad, w3) : List Byte × Bool × World := if came = [] then (d.data, d.anyBad, w2.consumed c (upBankAddr v (upBank v)) d)
    else (came.map (BitVec.ofNat 8), false, w1)
  let st := upRun v (uStep t.cmd) (gradOf t.cmd v used g.data) (bankRead v b)
  let data := bankAll v st (pubData t.cmd v t.key (w3.elementsBefore t.husk t.cmd (t.aux.headD 0)) st.w)
  let dst := upBankAddr v (1 - upBank v)
  match w3.tier3Port t.husk dst .wr with
  | some p =>
    if w3.portCarries p then
      (w3.upKeep c (t.aux.set 4 (if bad then 2 else t.aux.getD 4 0)) 2 [if bad then 1 else 0]).t3Begin
        ⟨p, true, dst, data.length, pfMaster s.val, t.husk, 2, s.val, data, 0⟩
    else w3.upSkip c t.cmd t.aux 0x0209
  | none => commitFrom (entry w3) w3 c t.cmd t.aux data bad

@[simp] theorem ctxOf_husk (w : World) (r : RingRef) (t : Taken) : (w.ctxOf r t).husk = t.husk := rfl

section
variable {w : World} {s : Fin 16} {t : Taken}

/-- The model commits a parameter from its entry as that reads after the operands. -/
theorem paramCommit_eq (ht : w.upWaits s 0 = some t) (hr : w.running s.val = t.husk) :
    w.paramCommit s = w.programEnd (fun u => u.upEnt t.husk t.cmd (t.aux.headD 0)) s t := by
  simp only [paramCommit, ht, hr, ne_eq, not_true_eq_false, if_false, programEnd, List.isEmpty_iff]
  by_cases came : t.aux.drop 6 = []
  · simp only [came, if_true]
    cases tier3Port _ _ _ _ <;> rfl
  · simp only [came, if_false]
    cases tier3Port _ _ _ _ <;> rfl

/-- Does the entry of the parameter that a command has reached read after its program's operands as before them? -/
def EntryKept (w : World) (s : Fin 16) (t : Taken) : Prop :=
  let v := w.upEnt t.husk t.cmd (t.aux.headD 0)
  (w.operandsRead (w.ctxOf (w.blockRing s 13) t) t.cmd v (t.aux.drop 6)).upEnt t.husk t.cmd (t.aux.headD 0) = v

/-- Then the commit may as well start from the entry as the program found it. -/
theorem programEnd_of_entryKept (h : w.EntryKept s t) :
    w.programEnd (fun u => u.upEnt t.husk t.cmd (t.aux.headD 0)) s t =
      w.programEnd (fun _ => w.upEnt t.husk t.cmd (t.aux.headD 0)) s t := by
  by_cases came : t.aux.drop 6 = []
  · simp only [EntryKept, operandsRead, came, if_true, ctxOf_husk] at h
    simp only [programEnd, came, if_true, h]
  · simp only [EntryKept, operandsRead, came, if_false, ctxOf_husk] at h
    simp only [programEnd, came, if_false, h]

end
end World

/-- The other commands do what O51 states of them; of a program's end it states that the parameter is committed from its entry as the
program found it. -/
theorem updateCommands_iff : Obligations.UpdateCommands ↔
    ∀ s sl t, s.world.upWaits sl 0 = some t → s.world.running sl.val = t.husk →
      Performs (.paramCommit sl) s (fun w => w.programEnd (fun _ => w.upEnt t.husk t.cmd (t.aux.headD 0)) sl t) := by
  unfold World.programEnd World.commitFrom World.bankWritten World.committedWord
  refine ⟨fun h s sl => (h s sl).2.2.2, fun h s sl => ⟨fun cmd w1 => ⟨fun ready => blockNop_performs rfl ready, fun ready hheld => ?_,
    fun ready => update_waits ready⟩, fun t ht => ⟨fun hf => performs_of_eq rfl (World.gradReady_present ht hf),
      fun hf hdue => performs_of_eq rfl (World.gradTimeout_due ht hf hdue)⟩,
    fun t ht hf => exec_eq_next_of_eq rfl (World.gradReady_absent ht hf), fun t ht hr => (h s sl t ht hr).congr rfl⟩⟩
  have taken := update_performs ready hheld
  exact ⟨fun hp => taken.congr (World.updateTake_passes hp), fun reason hr => taken.congr (World.updateTake_fails hr)⟩

/-- O51 where no operand's read changes how the entry reads. -/
theorem updateCommands_of_entryKept (kept : ∀ w s t, World.EntryKept w s t) : Obligations.UpdateCommands := by
  refine updateCommands_iff.mpr fun s sl t ht hr => performs_of_eq (g := fun w => w.paramCommit sl) rfl ?_
  exact (World.paramCommit_eq ht hr).trans (World.programEnd_of_entryKept (kept s.world sl t))

end Sys2Proof.Machine

/-! ### A stale leaf between two reads of an entry

R45 lets each access choose whether it uses a cached leaf that differs from the table (log entry 8). The read of an operand draws such a
choice, so the entry may read through its cached leaf before the operands and through the table after them. -/
namespace Sys2Proof.Machine

namespace World

/-- The world in which an access has drawn whether it uses a cached leaf that differs from the table. -/
def drawn (w : World) : World := w.fresh.2

section
variable {w : World} {h va : Nat} {need : Need} {e : CachedLeaf} (hva : va < 2 ^ 48) (he : w.dev.tlb.get? (tlbKey h va) = some e)
include hva he

/-- R45: such a leaf is used where the draw says so and it does not fault. -/
theorem translate_staleHit {pa : Nat} {enc nc : Bool}
    (hs : w.walkFrom h va walkLevels (w.rd (oHuskPageTableBase h)) ≠ .leaf e.pte e.level) (hit : Config.cacheHit w.dev.free = true)
    (hok : w.drawn.checkLeaf h va e.pte e.level need = .ok pa enc nc) : w.translate h va need = (.ok pa enc nc, w.drawn) := by
  have draw : Config.cacheHit w.fresh.1 = true := hit
  have check : w.fresh.2.checkLeaf h va e.pte e.level need = .ok pa enc nc := hok
  simp only [translate, if_neg (Nat.not_le.mpr hva), he, if_neg hs, draw, check]
  rfl

/-- Elsewhere the table is walked, here to a fault. -/
theorem translate_staleMiss (hw : w.walkFrom h va walkLevels (w.rd (oHuskPageTableBase h)) = .fault 0 0)
    (miss : Config.cacheHit w.dev.free = false ∨ w.drawn.checkLeaf h va e.pte e.level need = .fault 0 0) :
    w.translate h va need = (.fault 0 0, w.drawn) := by
  simp only [translate, if_neg (Nat.not_le.mpr hva), he, hw, reduceCtorEq, if_false]
  rcases miss with draw | check
  · rw [show Config.cacheHit w.fresh.1 = false from draw]
    rfl
  · rw [show w.fresh.2.checkLeaf h va e.pte e.level need = .fault 0 0 from check]
    cases Config.cacheHit w.fresh.1 <;> rfl

end

/-- A read inside one page that does not translate is recorded, R44. -/
theorem readVirt_of_fault {w w1 : World} {h m acc va n : Nat} (hp : pages (pageFuel n) va n = [(va, n)])
    (ht : w.translate h va .rd = (.fault 0 0, w1)) : (w.readVirt h m acc va n).2 = w1.contained h m acc 0 va := by
  simp only [readVirt, hp, List.foldl, reach, ht, if_true]

/-- So is a write. -/
theorem putVirt_of_fault {w w1 : World} {h m acc va : Nat} {d : List Byte} (hp : pages (pageFuel d.length) va d.length = [(va, d.length)])
    (ht : w.translate h va .wr = (.fault 0 0, w1)) : w.putVirt h m acc va d = w1.contained h m acc 0 va := by
  simp only [putVirt, writeVirt, hp, List.foldl, reach, ht, if_true]

/-- No parameter stands before a command's only one. -/
theorem elementsBefore_only (w : World) (h : Nat) {cmd : Nat} (hc : uCount cmd = 1) : w.elementsBefore h cmd 0 = 0 := by
  simp [elementsBefore, hc, List.range_succ]

end World

theorem length_leBytes (n v : Nat) : (leBytes n v).length = n := by
  induction n generalizing v with
  | zero => rfl
  | succ n ih => exact congrArg Nat.succ (ih (v / 256))

/-- What a command performs is one effect. -/
theorem Performs.dev_unique {c : Instr} {s : State} {f g : World → World} (hf : Performs c s f) (hg : Performs c s g) :
    (f s.world).dev = (g s.world).dev :=
  congrArg State.dev (Host.Outcome.next.inj (hf.symm.trans hg))

/-! The tables of husk 0 name no page any more, but two leaves are still cached: that of page 1, which may be read, and that of page 2, which
may not. -/
namespace StaleLeaf

/-- An UPDATE of one parameter, its entry in page 1 and its gradient in page 2. -/
@[irreducible] def cmd : Nat := 1 + 2 ^ 720 + 0x10080 * 2 ^ 736 + 0x20000 * 2 ^ 784

/-- Its program runs, and the old state has come from Tier 3. -/
def taken : Taken := ⟨cmd, 0, 0, 0, .event, 0, true, 0, 0, 0, 0, [], [0, 0, 0, 0, 0, 0, 1]⟩

/-- The entry in page 1: ADAMW of one weight. -/
@[irreducible] def entry : Nat := 3 + 2 ^ 528 + 2 ^ 552

def state : State :=
  ⟨[], ⟨[(128, 3), (194, 1), (197, 1)], [], .empty⟩, { Dev.init with
    od := AMap.empty.put (oSliceRunning 0).key 0,
    rings := AMap.empty.put (ringKey (.slice 0 13 0)) { Ring.init with taken := [taken] },
    tlb := ⟨[(1, ⟨4, 4⟩), (2, ⟨0, 4⟩)]⟩ }⟩

def ctx : Ctx := state.world.ctxOf (state.world.blockRing 0 13) taken

theorem upWaits : state.world.upWaits 0 0 = some taken := by decide +kernel

theorem running : state.world.running 0 = taken.husk := by decide +kernel

/-- The entry as the program finds it, through the cached leaf. -/
theorem upEnt_found (hit : Config.cacheHit 0 = true) : state.world.upEnt taken.husk taken.cmd (taken.aux.headD 0) = entry := by
  have reads : state.world.translate taken.husk (World.upVa taken.cmd (taken.aux.headD 0)) .rd = (.ok 0x80 false false, state.world.drawn) :=
    World.translate_staleHit (e := ⟨4, 4⟩) (by decide +kernel) (by decide +kernel) (by decide +kernel) hit (by decide +kernel)
  simp only [World.upEnt, World.vnum, World.peekLeaf, reads]
  decide +kernel

/-- The world in which the gradient has been read. -/
def gradRead : World := state.world.drawn.contained taken.husk ctx.master 1 0 0x20000

theorem readVirt_grad : (state.world.readVirt taken.husk ctx.master 1 0x20000 544).2 = gradRead :=
  World.readVirt_of_fault (by decide +kernel)
    (World.translate_staleMiss (e := ⟨0, 4⟩) (by decide +kernel) (by decide +kernel) (by decide +kernel) (.inr (by decide +kernel)))

/-- The entry as it reads by then, through the table. -/
theorem upEnt_gradRead (miss : Config.cacheHit 1 = false) : gradRead.upEnt taken.husk taken.cmd (taken.aux.headD 0) = 0 := by
  have free : gradRead.dev.free = 1 := by decide +kernel
  have faults : gradRead.translate taken.husk (World.upVa taken.cmd (taken.aux.headD 0)) .rd = (.fault 0 0, gradRead.drawn) :=
    World.translate_staleMiss (e := ⟨4, 4⟩) (by decide +kernel) (by decide +kernel) (by decide +kernel) (.inl (free ▸ miss))
  simp only [World.upEnt, World.vnum, World.peekLeaf, faults]

/-- The bytes of the new bank. -/
@[irreducible] def data : List Byte :=
  let g := (state.world.readVirt taken.husk ctx.master 1 0x20000 544).1.1.data
  let st := upRun entry (uStep cmd) (gradOf cmd entry 0 g) (bankRead entry [1])
  bankAll entry st (pubData cmd entry 0 0 st.w)

/-- The program's end is the commit of those bytes. -/
theorem programEnd_eq (hit : Config.cacheHit 0 = true) (start : World → Nat) :
    state.world.programEnd start 0 taken = World.commitFrom (start gradRead) gradRead ctx taken.cmd taken.aux data false := by
  have came : taken.aux.drop 6 ≠ [] := by decide
  have place : uGrad taken.cmd + upGrad entry * 544 = 0x20000 := by decide +kernel
  have size : gradBytes entry = 544 := by decide +kernel
  have used : fld (state.world.vnum taken.husk (uRecord taken.cmd) 64) 192 32 = 0 := by decide +kernel
  have port : gradRead.tier3Port taken.husk (upBankAddr entry (1 - upBank entry)) .wr = none := by decide +kernel
  have before : gradRead.elementsBefore taken.husk taken.cmd (taken.aux.headD 0) = 0 := World.elementsBefore_only _ _ (by decide +kernel)
  have read : (state.world.readVirt taken.husk (state.world.ctxOf (state.world.blockRing 0 13) taken).master 1 0x20000 544).2 = gradRead :=
    readVirt_grad
  simp only [World.programEnd, came, if_false, upEnt_found hit, place, size, read, port, before, used]
  rw [data]
  rfl

section
variable {v : Nat} (hv : v = 0 ∨ v = entry)
include hv

/-- The write of the entry faults: its cached leaf may not be written. -/
theorem upCommitWord_eq (x : Nat) : (World.bankWritten v gradRead ctx taken.cmd data false).upCommitWord ctx taken.cmd (taken.aux.headD 0) x =
    (World.bankWritten v gradRead ctx taken.cmd data false).drawn.contained taken.husk ctx.master 2 0 0x10080 := by
  have place : World.upVa taken.cmd (taken.aux.headD 0) = 0x10080 := by decide +kernel
  rw [World.upCommitWord, place]
  refine World.putVirt_of_fault (by rw [length_leBytes]; decide +kernel) ?_
  rcases hv with h | h <;> subst h
  · exact World.translate_staleMiss (e := ⟨4, 4⟩) (by decide) (by decide +kernel) (by decide +kernel) (.inr (by decide +kernel))
  · exact World.translate_staleMiss (e := ⟨4, 4⟩) (by decide) (by decide +kernel) (by decide +kernel) (.inr (by decide +kernel))

/-- What follows the write of the entry counts no contained error any more. -/
theorem commit_faults : (World.commitFrom v gradRead ctx taken.cmd taken.aux data false).rd (oFaultTotals 1) =
    ((World.bankWritten v gradRead ctx taken.cmd data false).drawn.contained taken.husk ctx.master 2 0 0x10080).rd (oFaultTotals 1) := by
  have count : uCount taken.cmd = 1 := by decide +kernel
  have silent : uPublish taken.cmd = false := by decide +kernel
  have ends (w : World) (l : List Nat) (hl : l.headD 0 = 1) : (World.updateOn (uCount taken.cmd)
      (w.inc (oHuskUpdateApplied ctx.husk) 1) ctx taken.cmd l).rd (oFaultTotals 1) = w.rd (oFaultTotals 1) := by
    simp only [count, World.updateOn, hl, Nat.le_refl, if_true, World.updateEnd, silent, Bool.not_false]
    exact World.rd_inc_other w (by decide +kernel) 1
  rw [World.commitFrom, ends _ _ (by rfl), upCommitWord_eq hv]

end

end StaleLeaf

/-- Why O51 is not proved here: where the draw has the program read its entry through the cached leaf and the commit through the table, the
commit starts from another entry than O51 names, and other writes fault. -/
theorem not_updateCommands_of_staleLeaf (hit : Config.cacheHit 0 = true) (miss : Config.cacheHit 1 = false) :
    ¬ Obligations.UpdateCommands := by
  open StaleLeaf in
  intro h
  have stated := updateCommands_iff.mp h state 0 taken upWaits running
  have runs := performs_of_eq (c := .paramCommit 0) (s := state) (g := fun w => w.paramCommit 0)
    (f := fun w => w.programEnd (fun u => u.upEnt taken.husk taken.cmd (taken.aux.headD 0)) 0 taken) rfl
    (World.paramCommit_eq upWaits running)
  have same := World.rd_congr (congrArg Dev.od (stated.dev_unique runs)) (oFaultTotals 1)
  rw [programEnd_eq hit, programEnd_eq hit, upEnt_found hit, upEnt_gradRead miss, commit_faults (.inr rfl), commit_faults (.inl rfl)] at same
  revert same
  decide +kernel

end Sys2Proof.Machine
end

section
/-! PROOFS. The statement of the turns (O52), after the laws that they rest on. -/

/-! ### Requests that change more than objects and acorn stacks, and what a command makes due -/
namespace Sys2Proof.Machine

/-- The due actions once `a` is among them. -/
def World.dueWith (w : World) (a : DueAct) : List DueAct := if w.dev.due.elem a then w.dev.due else w.dev.due ++ [a]

/-- What is made due is all that changes. -/
theorem World.dueLater_eq (w : World) (a : DueAct) : w.dueLater a = { w with dev := { w.dev with due := w.dueWith a } } := by
  rw [World.dueLater, World.dueWith]
  split <;> rfl

/-- A command that only makes something due leaves all else. -/
theorem completes_of_dueLater {c : Instr} {s : State} {f : World → World} {a : DueAct} (hc : exec c s = s.done f)
    (hf : f s.world = s.world.dueLater a) :
    Completes c s (fun t => t.dev.due = s.world.dueWith a ∧ t.dev.od = s.dev.od ∧ t.dev.turns = s.dev.turns
      ∧ t.dev.fabric = s.dev.fabric ∧ SameMemory s t) := by
  refine completes_of_effect hc (hf.trans (s.world.dueLater_eq a)) rfl fun t ht hmem => ?_
  rw [ht]
  exact ⟨rfl, rfl, rfl, rfl, hmem⟩

/-- What takes effect without a memory write leaves the memory. -/
theorem run_of_effect {s : State} {f : World → World} {w1 : World} (hf : f s.world = w1) (hlog : w1.log = []) :
    (s.run f).dev = w1.dev ∧ SameMemory s (s.run f) :=
  ⟨by rw [State.run_dev, hf], same_memory_of_log (by rw [hf, hlog])⟩

/-- The state `t` after a request over path `p`, from `s`, that was answered with `reason`, with what a turn's operation touches as `w1` has
it. -/
structure RequestAnswered (s t : State) (p : Path) (reason : Nat) (w1 : World) : Prop where
  reply : t.reply p = BitVec.ofNat 16 reason
  memory : SameMemory s t
  od : t.dev.od = w1.dev.od
  due : t.dev.due = w1.dev.due
  turns : t.dev.turns = w1.dev.turns
  fabric : t.dev.fabric = w1.dev.fabric

theorem requestAnswered_of_odFinish {s : State} {f : World → World} {p : Path} {reason : Nat} {w1 : World}
    (hf : f s.world = w1.odFinish p reason 0 [] false) (hlog : w1.log = []) (hn : p = .fieldNet → w1.rd oFieldNetState ≠ 2) :
    RequestAnswered s (s.run f) p reason w1 := by
  have ended := requestEnded_of_odFinish hf hlog
  obtain ⟨ws, rs, hdev⟩ := w1.odFinish_dev p reason 0 [] false
  have hrun : (s.run f).dev = { w1.dev with windows := ws, replies := rs } := by rw [State.run_dev, hf, hdev]
  exact
    { reply := ended.reply hn
      memory := ended.memory
      od := ended.od
      due := by rw [hrun]
      turns := by rw [hrun]
      fabric := by rw [hrun] }

/-- A write of an object that is not saved is answered with its effect's reason. -/
theorem odCommand_answered {s : State} {p : Path} {index sub : Nat} {v : Word} (ht : odTakes s.world p index sub v = true)
    (hs : odSaved index sub = false) {effect : World → Nat → Nat × World} {reason : Nat} {w1 : World}
    (he : effect (odAsked s.world p index sub v) v.toNat = (reason, w1)) (hr : reason ≠ World.odPending) (hlog : w1.log = [])
    (hn : w1.rd oFieldNetState = s.world.rd oFieldNetState) :
    RequestAnswered s (s.run (fun w => w.odCommand p index sub v true effect)) p reason w1 :=
  requestAnswered_of_odFinish ((odCommand_unsaved ht hs he).trans (if_neg hr)) hlog (hn ▸ fieldNet_answers_of_odTakes ht)

/-- A write that its effect refuses for `reason` leaves the objects, the turns and the memory. -/
theorem odCommand_refusesTurn {c : Instr} {s : State} {p : Path} {index sub : Nat} {v : Word} {effect : World → Nat → Nat × World}
    {reason : Nat} (hc : exec c s = s.done (fun w => w.odCommand p index sub v true effect))
    (ht : odTakes s.world p index sub v = true) (hs : odSaved index sub = false)
    (he : ∀ ws, effect (withWindows s.world ws) v.toNat = (reason, withWindows s.world ws)) (hr : reason ≠ World.odPending) :
    Completes c s (fun t => t.reply p = BitVec.ofNat 16 reason ∧ t.dev.od = s.dev.od ∧ t.dev.turns = s.dev.turns ∧ SameMemory s t) := by
  obtain ⟨ws, hasked⟩ := odAsked_of_odTakes ht
  have refused : effect (odAsked s.world p index sub v) v.toNat = (reason, withWindows s.world ws) := by
    rw [hasked]
    exact he ws
  have answered := odCommand_answered ht hs refused hr rfl rfl
  exact completes_of_done hc ⟨answered.reply, answered.od, answered.turns, answered.memory⟩

/-- A write that asks for a cancel leaves everything but what is due and its own window (R425). -/
theorem cancelDue_dev {s : State} {p : Path} {index sub : Nat} {a : DueAct} (ht : odTakes s.world p index sub 1 = true)
    (hs : odSaved index sub = false) :
    ∃ ws, (s.run (fun w => w.odCommand p index sub 1 true (World.onOne (fun w => w.cancelDue a)))).dev =
      { s.dev with due := s.dev.due ++ [a], windows := ws } := by
  obtain ⟨ws, hasked⟩ := odAsked_of_odTakes ht
  have he : World.onOne (fun w => w.cancelDue a) (odAsked s.world p index sub 1) (1 : Word).toNat =
      (World.odPending, withWindows (s.world.cancelDue a).2 ws) := by
    rw [hasked]
    rfl
  obtain ⟨bs, hbusy⟩ := (withWindows (s.world.cancelDue a).2 ws).odBusy_dev p
  refine ⟨bs, ?_⟩
  rw [State.run_dev, odCommand_unsaved ht hs he, if_pos rfl, hbusy]
  rfl

end Sys2Proof.Machine

/-! ### The operations of a turn, stage by stage -/
namespace Sys2Proof.Machine

/-- A turn's start, its cancel and its resolution are no saved settings (R408). -/
theorem huskTurnObjects_unsaved : ∀ h : Fin 16, ∀ sub ∈ [5, 6, 7], odSaved (0x30A0 + h.val * 256) sub = false := by
  decide +kernel

/-- No object of the field network is one of a turn's status. -/
theorem fieldNetState_ne_turnStatus {h j : Nat} : oFieldNetState.key ≠ (oTurnStatus h j).key := by
  simp only [oFieldNetState, oTurnStatus]
  omega

namespace World

@[simp] theorem rd_setTurn (w : World) (h : Nat) (t : TurnSt) (k : OKey) : (w.setTurn h t).rd k = w.rd k := rfl

/-- The turn that a start of husk h begins, with the messages that were kept for it (R310, R312). -/
def turnBegun (w : World) (h : Nat) (early : List Msg) : TurnSt :=
  { turnNone with stage := 0, turnId := fld (w.rd (oHuskTurnConfig h)) 32 32, prevPhase := w.rd (oHuskPhase h), since := w.now,
                  early := early }

section
variable {w : World} {h : Nat}

theorem turnStart_refused (hst : stIdleOrTerminal (w.rd (oTurnStatus h 0)) = false) : w.turnStart h = (0x0605, w) :=
  if_pos (by simp [hst])

/-- A start that no ABORT of its TURN_ID awaits begins the turn (R306, R312). -/
theorem turnStart_accepted (hst : stIdleOrTerminal (w.rd (oTurnStatus h 0)) = true)
    (hearly : ∀ x, w.turn h = some x → ∀ m ∈ x.early, m.kind ≠ 8#8 ∨ m.addr.toNat / 65536 ≠ fld (w.rd (oHuskTurnConfig h)) 32 32) :
    ∃ early, w.turnStart h = (0, (w.startOp (oTurnStatus h) 0x061 2).setTurn h (w.turnBegun h early)) := by
  rw [turnStart, if_neg (by simp [hst])]
  cases hx : w.turn h with
  | none => exact ⟨_, rfl⟩
  | some x =>
    have noAbort : ((x.early.filter (fun m => m.addr.toNat / 65536 == fld (w.rd (oHuskTurnConfig h)) 32 32)).reverse.filter
        (fun m => m.kind == 8#8)) = [] := by
      refine List.filter_eq_nil_iff.mpr fun m hm => ?_
      obtain ⟨hm, hid⟩ := List.mem_filter.mp (List.mem_reverse.mp hm)
      simpa [beq_iff_eq.mp hid] using hearly x hx m hm
    simp only [noAbort]
    exact ⟨_, rfl⟩

end

/-- Do the layout and the plan hold together for this rank (conditions 2 to 6 of R308)? -/
def turnFits (w : World) (h participants rank : Nat) (layout plan : List Nat) : Bool :=
  layout.all (layoutEntOk participants) && plan.all (planEntOk participants plan.length)
    && turnPlanOk rank (if w.rd (oHuskTurnIdCurrent h) = 0 then [] else ranksEnts rank (w.turnCurrent h)) (ranksEnts rank layout) plan

/-- The entries of a plan by index, those in which the rank sends or receives. -/
def planOfRank (rank : Nat) (plan : List Nat) : List (Nat × Nat) :=
  ((List.range plan.length).zip plan).filter (fun p => peFrom p.2 == rank || peTo p.2 == rank)

/-- A validated turn, whose drain is to begin (R310). -/
def turnValidated (w : World) (x : TurnSt) (parts : List Nat) (rank layoutCrc planCrc : Nat) (plan : List Nat) : TurnSt :=
  { x with stage := 1, rank := rank, parts := parts, layoutCrc := layoutCrc, planCrc := planCrc, plan := planOfRank rank plan,
           since := w.now, early := x.early.filter (fun m => !(m.addr.toNat / 65536 == x.turnId)) }

/-- The world in which the validation has ended: the records of R315, the turn, and its drain, which is due (R311). -/
def turnAdmitted (w : World) (h : Nat) (y : TurnSt) : World :=
  let copies := (y.plan.filter (fun p => peKind p.2 == 1 && peFrom p.2 == y.rank)).length
  ((((w.setOpProgress (oTurnStatus h 0) 0 2).turnSummary h 0 0xFFFF 1).wr (oTurnStatus h 2) copies).setTurn h y).dueLater (.turnDrain h y.turnId)

/-- The world in which the turn of husk h waits for its resolution (R317). -/
def turnPaused (w : World) (h : Nat) (x : TurnSt) : World :=
  ((w.setOpState (oTurnStatus h 0) 3 0x0608).turnSummary h 0x0608 0xFFFF 7).setTurn h { x with stage := 7 }

/-- A pause writes the status word and the summary record alone. -/
theorem rd_turnPaused_other (w : World) {h : Nat} (x : TurnSt) {k : OKey} (h0 : k.key ≠ (oTurnStatus h 0).key)
    (h1 : k.key ≠ (oTurnStatus h 1).key) : (w.turnPaused h x).rd k = w.rd k := by
  rw [turnPaused, rd_setTurn, turnSummary, rd_wr_other _ h1, (setOpState_writes w _ 3 0x0608).rd _ h0]

theorem stState_turnPaused (w : World) (h : Nat) (x : TurnSt) : stState ((w.turnPaused h x).rd (oTurnStatus h 0)) = 3 := by
  have other : (oTurnStatus h 0).key ≠ (oTurnStatus h 1).key := by
    simp only [oTurnStatus]
    omega
  rw [turnPaused, rd_setTurn, turnSummary, rd_wr_other _ other, stState_setOpState w _ (by decide)]

section
variable {w : World} {h : Nat} {x : TurnSt} (hx : w.turn h = some x)
include hx

/-! Validation, R308. -/

section
variable (h0 : x.stage = 0)
include h0

theorem turnValid_noParts (hp : w.turnParts h (w.rd (oHuskTurnConfig h)) = none) :
    w.turnValid h = w.turnAbort h x 0x0602 0xFFFF 5 false := by
  simp only [turnValid, hx, h0, hp, ne_eq, not_true_eq_false, if_false]

theorem turnValid_noTable {y : List Nat × Nat} (hp : w.turnParts h (w.rd (oHuskTurnConfig h)) = some y)
    (ht : w.turnTable h (w.rd (oHuskTurnLayoutBase h)) 32 (2 ^ 32 - 1) (some x.turnId) = none
      ∨ w.turnTable h (w.rd (oHuskTurnPlanBase h)) 64 16777214 (some x.turnId) = none) :
    w.turnValid h = w.turnAbort h x 0x0603 0xFFFF 5 false := by
  simp only [turnValid, hx, h0, hp, ne_eq, not_true_eq_false, if_false]
  split
  · rename_i hl hq
    rcases ht with ht | ht
    · cases hl.symm.trans ht
    · cases hq.symm.trans ht
  · rfl

section
variable {parts layout plan : List Nat} {rank lc pc : Nat} (hp : w.turnParts h (w.rd (oHuskTurnConfig h)) = some (parts, rank))
  (hl : w.turnTable h (w.rd (oHuskTurnLayoutBase h)) 32 (2 ^ 32 - 1) (some x.turnId) = some (lc, layout))
  (hq : w.turnTable h (w.rd (oHuskTurnPlanBase h)) 64 16777214 (some x.turnId) = some (pc, plan))
include hp hl hq

/-- With both tables read, the conditions of the plan decide; a valid turn takes the messages that came before. -/
theorem turnValid_tables : w.turnValid h =
    if w.turnFits h parts.length rank layout plan then
      (w.turnAdmitted h (w.turnValidated x parts rank lc pc plan)).turnTakes h
        (x.early.reverse.filter (fun m => m.addr.toNat / 65536 == x.turnId))
    else w.turnAbort h x 0x0603 0xFFFF 5 false := by
  have old : (match w.rd (oHuskTurnIdCurrent h) with
      | 0 => []
      | _ => ranksEnts rank (w.turnCurrent h)) =
      if w.rd (oHuskTurnIdCurrent h) = 0 then [] else ranksEnts rank (w.turnCurrent h) := by
    cases w.rd (oHuskTurnIdCurrent h) <;> rfl
  simp only [turnValid, hx, h0, hp, hl, hq, ne_eq, not_true_eq_false, if_false, turnFits, ← old]
  rfl

theorem turnValid_unfit (hf : w.turnFits h parts.length rank layout plan = false) :
    w.turnValid h = w.turnAbort h x 0x0603 0xFFFF 5 false :=
  (turnValid_tables hx h0 hp hl hq).trans (if_neg (by simp [hf]))

theorem turnValid_fits (hf : w.turnFits h parts.length rank layout plan = true) (he : x.early = []) :
    w.turnValid h = w.turnAdmitted h (w.turnValidated x parts rank lc pc plan) := by
  rw [turnValid_tables hx h0 hp hl hq, if_pos hf, he]
  rfl

end

end

/-! The drain, R311. -/

/-- A drain that cancels nothing holds the husk's commands (R311). -/
theorem turnDrainBegins_holds (h1 : x.stage = 1) (hc : fld (w.rd (oHuskTurnConfig h)) 0 2 ≠ 1) :
    w.turnDrainBegins h x.turnId = (w.upSeqs (fun s => { s with turnHeld := setInsert h s.turnHeld })).setTurn h
      { x with cancelled := [], since := w.now } := by
  have waits : (fld (w.rd (oHuskTurnConfig h)) 0 2 == 1) = false := beq_false_of_ne hc
  simp only [turnDrainBegins, hx, h1, ne_eq, not_true_eq_false, or_self, if_false, waits, Bool.false_eq_true]
  rfl

/-- The world in which the drain has ended and every other rank has been told (R311, R312). -/
def turnArrives (w : World) (h : Nat) (x : TurnSt) : World :=
  let t1 := { x with stage := 2, since := w.now }
  let w1 := ((w.setPhase h 2).turnRecord h 3 0).turnSummary h 0 0xFFFF 2
  (w1.each (turnOthers t1) (fun w k => w.sendTurn h t1 k 0x06 0
    (leBytes 4 x.layoutCrc ++ leBytes 4 x.planCrc ++ leBytes 4 x.rank))).turnBarrier h t1

theorem turnDrain_ended (h1 : x.stage = 1) (hheld : w.dev.seqs.turnHeld.elem h = true) (hd : w.turnDrained h x = true) :
    w.turnDrain h = w.turnArrives h x := by
  simp only [turnDrain, hx]
  rw [if_neg (by simp only [h1, hheld, hd]; decide)]
  rfl

theorem turnDrain_waits (hw : w.dev.seqs.turnHeld.elem h = false ∨ w.turnDrained h x = false) : w.turnDrain h = w := by
  simp only [turnDrain, hx]
  rw [if_pos]
  rcases hw with hw | hw
  · simp only [hw, Bool.not_false, Bool.or_true, Bool.true_or]
  · simp only [hw, Bool.not_false, Bool.or_true]

/-! The time limits, R311, R312 and R317. -/

/-- The time limit of a stage. -/
def turnLimitOf (w : World) (h : Nat) : Nat → Nat
  | 1 => w.rd (oHuskTurnDrainTimeout h)
  | 2 => w.rd (oHuskTurnBarrierTimeout h)
  | _ => w.rd (oHuskTurnCommitTimeout h)

section
variable {stage : Nat} (hs : x.stage = stage) (hdue : x.since + w.turnLimitOf h stage ≤ w.now)
include hs hdue

theorem turnExpired_of_due : w.turnExpired h stage = true := by
  simp only [turnExpired, hx, hs, beq_self_eq_true, Bool.true_and]
  exact decide_eq_true hdue

/-- A limit that has passed is decided at the end of its tick (R318). -/
theorem turnLimit_of_due : w.turnLimit h stage = w.dueLater (.turnLimit h stage) := if_pos (turnExpired_of_due hx hs hdue)

end

theorem turnLimitNow_drain (h1 : x.stage = 1) (hdue : x.since + w.rd (oHuskTurnDrainTimeout h) ≤ w.now) :
    w.turnLimitNow h 1 = w.turnAbort h x 0x0606 0xFFFF 5 true := by
  simp [turnLimitNow, hx, turnExpired_of_due hx h1 hdue]

theorem turnLimitNow_barrier (h2 : x.stage = 2) (hdue : x.since + w.rd (oHuskTurnBarrierTimeout h) ≤ w.now) :
    w.turnLimitNow h 2 = w.turnAbort h x 0x0607 0xFFFF 5 true := by
  simp [turnLimitNow, hx, turnExpired_of_due hx h2 hdue]

theorem turnLimitNow_commit (h4 : x.stage = 4) (hdue : x.since + w.rd (oHuskTurnCommitTimeout h) ≤ w.now) :
    w.turnLimitNow h 4 = w.turnPaused h x := by
  simp [turnLimitNow, hx, turnExpired_of_due hx h4 hdue, turnPaused]

/-! The end, R314 and R316 to R318. -/

theorem turnSwitched_releases (h5 : x.stage = 5) : w.turnSwitched h = w.turnRelease h x := by
  simp only [turnSwitched, hx, h5, if_true]

theorem turnCommitNow_forced (h7 : x.stage = 7) : w.turnCommitNow h true = w.turnCommit h x := by
  simp [turnCommitNow, hx, h7]

theorem turnCancel_aborts (hst : stIdleOrTerminal (w.rd (oTurnStatus h 0)) = false) (h3 : x.stage ≤ 3) :
    w.turnCancel h = (0, w.turnAbort h x 0x0601 0xFFFF 6 true) := by
  simp [turnCancel, hst, hx, h3]

/-- A cancel comes too late, or finds no operation (R318, R425). -/
theorem turnCancel_refused (hlate : stIdleOrTerminal (w.rd (oTurnStatus h 0)) = true ∨ 3 < x.stage) :
    w.turnCancel h = (if stIdleOrTerminal (w.rd (oTurnStatus h 0)) then 0x000E else 0x0605, w) := by
  cases hst : stIdleOrTerminal (w.rd (oTurnStatus h 0)) with
  | true => simp [turnCancel, hst]
  | false =>
    have h3 : ¬ x.stage ≤ 3 := by simpa [hst] using hlate
    simp [turnCancel, hst, hx, h3]

theorem turnResolve_commits (h7 : x.stage = 7) : w.turnResolve h 1 = (0, w.dueLater (.turnCommit h true)) := by
  simp [turnResolve, hx, h7]

theorem turnResolve_aborts (h7 : x.stage = 7) : w.turnResolve h 2 = (0, w.turnAbort h x 0x0608 0xFFFF 5 true) := by
  simp [turnResolve, hx, h7]

theorem turnResolve_refused (h7 : x.stage ≠ 7) (v : Nat) : w.turnResolve h v = (0x0605, w) := by
  simp [turnResolve, hx, h7]

end

end World

end Sys2Proof.Machine

/-! ### The commands of a turn -/
namespace Sys2Proof.Machine

section
variable {s : State} {p : Path} {h : Fin 16}

theorem huskTurnStart_accepted (ht : odTakes s.world p (0x30A0 + h.val * 256) 5 1 = true)
    (hst : stIdleOrTerminal (s.val (oTurnStatus h.val 0)) = true)
    (hearly : ∀ x, s.dev.turns.get? h.val = some x →
      ∀ m ∈ x.early, m.kind ≠ 8#8 ∨ m.addr.toNat / 65536 ≠ fld (s.val (oHuskTurnConfig h.val)) 32 32) :
    Completes (.huskTurnStart p h 1) s (fun t => t.reply p = 0 ∧ SameMemory s t
      ∧ stState (t.val (oTurnStatus h.val 0)) = 2 ∧ t.dev.fabric = s.dev.fabric
      ∧ ∃ x, t.dev.turns.get? h.val = some x ∧ x.stage = 0 ∧ x.turnId = fld (s.val (oHuskTurnConfig h.val)) 32 32
          ∧ x.prevPhase = s.val (oHuskPhase h.val) ∧ x.since = s.dev.time.tick) := by
  obtain ⟨ws, hasked⟩ := odAsked_of_odTakes ht
  obtain ⟨early, hstart⟩ := World.turnStart_accepted (w := withWindows s.world ws) hst hearly
  have started := World.startOp_writes (withWindows s.world ws) (oTurnStatus h.val) 0x061 2
  have word := World.stState_startOp (withWindows s.world ws) (oTurnStatus h.val) (op := 0x061) (st := 2) (by decide) (by decide)
  generalize (withWindows s.world ws).startOp (oTurnStatus h.val) 0x061 2 = w1 at hstart started word
  obtain ⟨⟨od, rfl⟩, hrd⟩ := started
  have he : World.onOne (fun w => w.turnStart h.val) (odAsked s.world p (0x30A0 + h.val * 256) 5 1) (1 : Word).toNat =
      (withWindows s.world ws).turnStart h.val := by
    rw [hasked]
    rfl
  have answered := odCommand_answered ht (huskTurnObjects_unsaved h 5 (by decide)) (he.trans hstart) (by decide) rfl
    (hrd _ fun ⟨_, _, e⟩ => fieldNetState_ne_turnStatus e)
  have begun : (s.run _).dev.turns.get? h.val = some ((withWindows s.world ws).turnBegun h.val early) :=
    (congrArg (fun m => m.get? h.val) answered.turns).trans (AMap.get?_put_same _ _ _)
  refine completes_of_done rfl ⟨answered.reply, answered.memory, ?_, answered.fabric, _, begun, rfl, rfl, rfl, rfl⟩
  exact (congrArg stState (World.rd_congr answered.od _)).trans word

theorem huskTurnStart_busy (ht : odTakes s.world p (0x30A0 + h.val * 256) 5 1 = true)
    (hst : stIdleOrTerminal (s.val (oTurnStatus h.val 0)) = false) :
    Completes (.huskTurnStart p h 1) s (fun t =>
      t.reply p = 0x0605 ∧ t.dev.od = s.dev.od ∧ t.dev.turns = s.dev.turns ∧ SameMemory s t) :=
  odCommand_refusesTurn (effect := World.onOne (fun w => w.turnStart h.val)) rfl ht (huskTurnObjects_unsaved h 5 (by decide))
    (fun _ => World.turnStart_refused hst) (by decide)

theorem huskTurnCancel_deferred (ht : odTakes s.world p (0x30A0 + h.val * 256) 6 1 = true) :
    Deferred (.huskTurnCancel p h 1) s p (.cancelTurn p h.val)
    ∧ Completes (.huskTurnCancel p h 1) s (fun t => t.dev.turns = s.dev.turns) := by
  have unsaved := huskTurnObjects_unsaved h 6 (by decide)
  obtain ⟨ws, hdev⟩ := cancelDue_dev (a := .cancelTurn p h.val) ht unsaved
  exact ⟨(cancelDue_deferred rfl ht unsaved).1, completes_of_done rfl (by rw [hdev])⟩

section
variable {x : TurnSt} (hx : s.dev.turns.get? h.val = some x)
include hx

/-- A valid turn's drain is due in the next tick, R308 and R311. -/
theorem turnValidated_completes (h0 : x.stage = 0) {parts layout plan : List Nat} {rank lc pc : Nat}
    (hp : s.world.turnParts h.val (s.val (oHuskTurnConfig h.val)) = some (parts, rank))
    (hl : s.world.turnTable h.val (s.val (oHuskTurnLayoutBase h.val)) 32 (2 ^ 32 - 1) (some x.turnId) = some (lc, layout))
    (hq : s.world.turnTable h.val (s.val (oHuskTurnPlanBase h.val)) 64 16777214 (some x.turnId) = some (pc, plan))
    (hf : s.world.turnFits h.val parts.length rank layout plan = true) (he : x.early = []) :
    Completes (.turnValidated h) s (fun t => t.dev.due = s.world.dueWith (.turnDrain h.val x.turnId) ∧ t.dev.seqs = s.dev.seqs
      ∧ t.dev.fabric = s.dev.fabric ∧ SameMemory s t
      ∧ t.dev.turns.get? h.val = some (s.world.turnValidated x parts rank lc pc plan)) := by
  have admits := (World.turnValid_fits (w := s.world) hx h0 hp hl hq hf he).trans (World.dueLater_eq _ _)
  refine completes_of_effect (f := fun w => w.turnValid h.val) rfl admits rfl fun t ht hmem => ?_
  rw [ht]
  exact ⟨rfl, rfl, rfl, hmem, AMap.get?_put_same _ _ _⟩

/-- In the first tick of a drain that cancels nothing the husk's commands are held, R311. -/
theorem turnDrain_takesEffect (h1 : x.stage = 1) (hc : fld (s.val (oHuskTurnConfig h.val)) 0 2 ≠ 1) :
    let t := s.run (fun w => w.dueAct (.turnDrain h.val x.turnId))
    t.dev.seqs.turnHeld = setInsert h.val s.dev.seqs.turnHeld
    ∧ t.dev.turns.get? h.val = some { x with cancelled := [], since := s.dev.time.tick } ∧ t.dev.od = s.dev.od ∧ SameMemory s t := by
  intro t
  obtain ⟨hdev, hmem⟩ := run_of_effect (f := fun w => w.dueAct (.turnDrain h.val x.turnId))
    (World.turnDrainBegins_holds (w := s.world) hx h1 hc) rfl
  rw [hdev]
  exact ⟨rfl, AMap.get?_put_same _ _ _, rfl, hmem⟩

/-- A commit that did not come leaves the turn PAUSED, R317. -/
theorem turnCommitLimit_pauses (h4 : x.stage = 4) (hdue : x.since + s.val (oHuskTurnCommitTimeout h.val) ≤ s.dev.time.tick) :
    let t := s.run (fun w => w.dueAct (.turnLimit h.val 4))
    t.dev.turns.get? h.val = some { x with stage := 7 } ∧ stState (t.val (oTurnStatus h.val 0)) = 3 ∧ t.dev.fabric = s.dev.fabric
    ∧ SameMemory s t ∧ SameObjectsBut [oTurnStatus h.val 0, oTurnStatus h.val 1] s t := by
  intro t
  obtain ⟨hdev, hmem⟩ := run_of_effect (f := fun w => w.dueAct (.turnLimit h.val 4))
    (World.turnLimitNow_commit (w := s.world) hx h4 hdue) rfl
  refine ⟨?_, ?_, ?_, hmem, fun k hk => ?_⟩
  · rw [hdev]
    exact AMap.get?_put_same _ _ _
  · rw [val_of_dev hdev]
    exact World.stState_turnPaused _ _ _
  · rw [hdev]
    rfl
  · simp only [List.map_cons, List.map_nil, List.mem_cons, List.not_mem_nil, or_false, not_or] at hk
    rw [val_of_dev hdev]
    exact World.rd_turnPaused_other _ _ hk.1 hk.2

theorem turnSwitchDone_releases (h5 : x.stage = 5) (hp : s.world.pointReached = true) :
    Performs (.turnSwitchDone h) s (fun w => w.turnRelease h.val x) :=
  performs_of_eq rfl ((if_pos hp).trans (World.turnSwitched_releases (w := s.world) hx h5))

/-- A turn whose DONE has not gone out is cancelled, R318. -/
theorem cancelTurn_aborts (hst : stIdleOrTerminal (s.val (oTurnStatus h.val 0)) = false) (h3 : x.stage ≤ 3) :
    s.run (fun w => w.dueAct (.cancelTurn p h.val)) =
      s.run (fun w => (w.turnAbort h.val x 0x0601 0xFFFF 6 true).odFinish p 0 0 [] false) := by
  have cancels := World.turnCancel_aborts (w := s.world) hx hst h3
  exact congrArg s.commit (by simp only [World.dueAct, cancels])

theorem cancelTurn_refused (hn : s.val oFieldNetState ≠ 2)
    (hlate : stIdleOrTerminal (s.val (oTurnStatus h.val 0)) = true ∨ 3 < x.stage) :
    let t := s.run (fun w => w.dueAct (.cancelTurn p h.val))
    t.reply p = (if stIdleOrTerminal (s.val (oTurnStatus h.val 0)) then 0x000E else 0x0605) ∧ t.dev.od = s.dev.od
    ∧ t.dev.turns = s.dev.turns ∧ SameMemory s t := by
  intro t
  have refuses := World.turnCancel_refused (w := s.world) hx hlate
  have answered : RequestAnswered s t p (if stIdleOrTerminal (s.val (oTurnStatus h.val 0)) then 0x000E else 0x0605) s.world :=
    requestAnswered_of_odFinish (by rw [World.dueAct, refuses]; rfl) rfl fun _ => hn
  exact ⟨answered.reply.trans (apply_ite _ _ _ _), answered.od, answered.turns, answered.memory⟩

/-- A paused turn that is to commit does so at the end of the tick, R317 and R318. -/
theorem turnResolveCommit_accepted (ht : odTakes s.world p (0x30A0 + h.val * 256) 7 1 = true) (h7 : x.stage = 7) :
    Completes (.turnResolveCommit p h) s (fun t => t.reply p = 0 ∧ t.dev.due = s.world.dueWith (.turnCommit h.val true)
      ∧ t.dev.od = s.dev.od ∧ t.dev.turns = s.dev.turns ∧ SameMemory s t) := by
  obtain ⟨ws, hasked⟩ := odAsked_of_odTakes ht
  have he : (odAsked s.world p (0x30A0 + h.val * 256) 7 1).turnResolve h.val (1 : Word).toNat =
      (0, (withWindows s.world ws).dueLater (.turnCommit h.val true)) := by
    rw [hasked]
    exact World.turnResolve_commits (w := withWindows s.world ws) hx h7
  rw [World.dueLater_eq] at he
  have answered := odCommand_answered (effect := fun w n => w.turnResolve h.val n) ht (huskTurnObjects_unsaved h 7 (by decide)) he
    (by decide) rfl rfl
  exact completes_of_done rfl ⟨answered.reply, answered.due, answered.od, answered.turns, answered.memory⟩

theorem turnResolveCommit_refused (ht : odTakes s.world p (0x30A0 + h.val * 256) 7 1 = true) (h7 : x.stage ≠ 7) :
    Completes (.turnResolveCommit p h) s (fun t =>
      t.reply p = 0x0605 ∧ t.dev.od = s.dev.od ∧ t.dev.turns = s.dev.turns ∧ SameMemory s t) :=
  odCommand_refusesTurn (effect := fun w n => w.turnResolve h.val n) rfl ht (huskTurnObjects_unsaved h 7 (by decide))
    (fun ws => World.turnResolve_refused (w := withWindows s.world ws) hx h7 _) (by decide)

theorem turnResolveAbort_performs (ht : odTakes s.world p (0x30A0 + h.val * 256) 7 2 = true) (h7 : x.stage = 7) :
    Performs (.turnResolveAbort p h) s (fun w =>
      ((odAsked w p (0x30A0 + h.val * 256) 7 2).turnAbort h.val x 0x0608 0xFFFF 5 true).odFinish p 0 0 [] false) := by
  obtain ⟨ws, hasked⟩ := odAsked_of_odTakes ht
  have he := World.turnResolve_aborts (w := odAsked s.world p (0x30A0 + h.val * 256) 7 2) (h := h.val) (x := x)
    (by rw [hasked]; exact hx) h7
  exact performs_of_eq rfl ((odCommand_unsaved ht (huskTurnObjects_unsaved h 7 (by decide)) he).trans (if_neg (by decide)))

end

end

/-- Settles O52: each command by the law of its operation on the turn that stands; a request goes through `odCommand_answered`, what is
due at a tick's end through `completes_of_dueLater`. -/
theorem turnCommands : Obligations.TurnCommands := by
  intro s h st cfg dues later when'
  refine ⟨fun p ht => ⟨huskTurnStart_accepted ht, huskTurnStart_busy ht⟩, fun x hx => ?_⟩
  intro layoutAt planAt
  have turn : s.world.turn h.val = some x := hx
  refine ⟨?_, ?_, ?_, ?_, ?_, ?_, ?_, ?_, ?_, ?_, ?_, ?_⟩
  · exact fun h0 hp => performs_of_eq rfl (World.turnValid_noParts turn h0 hp)
  · exact fun y h0 hp ht => performs_of_eq rfl (World.turnValid_noTable turn h0 hp ht)
  · intro parts rank lc layout pc plan h0 hp hl hq old ok
    refine ⟨fun hf => performs_of_eq rfl (World.turnValid_unfit turn h0 hp hl hq hf), fun hf he => ?_⟩
    obtain ⟨t, hnext, hpending, hdue, hseqs, hfabric, hmem, hturn⟩ := turnValidated_completes hx h0 hp hl hq hf he
    exact ⟨t, hnext, hpending, hdue, hseqs, hfabric, hmem, _, hturn, rfl, rfl, rfl, rfl, rfl, rfl, rfl, rfl⟩
  · exact turnDrain_takesEffect hx
  · exact fun h1 hheld hd => performs_of_eq rfl (World.turnDrain_ended turn h1 hheld hd)
  · exact fun _ hw => exec_eq_next_of_eq rfl (World.turnDrain_waits turn hw)
  · exact fun h1 hdue => ⟨completes_of_dueLater rfl (World.turnLimit_of_due turn h1 hdue),
      congrArg s.commit (World.turnLimitNow_drain turn h1 hdue)⟩
  · exact fun h2 hdue => ⟨completes_of_dueLater rfl (World.turnLimit_of_due turn h2 hdue),
      congrArg s.commit (World.turnLimitNow_barrier turn h2 hdue)⟩
  · exact fun h4 hdue => ⟨completes_of_dueLater rfl (World.turnLimit_of_due turn h4 hdue), turnCommitLimit_pauses hx h4 hdue⟩
  · exact turnSwitchDone_releases hx
  · exact fun hp => exec_eq_next_of_eq rfl (if_neg (by simp [hp]))
  · intro p
    exact ⟨huskTurnCancel_deferred, cancelTurn_aborts hx, cancelTurn_refused hx,
      fun ht => ⟨turnResolveCommit_accepted hx ht, turnResolveCommit_refused hx ht⟩,
      fun h7 => congrArg s.commit (World.turnCommitNow_forced turn h7), turnResolveAbort_performs hx⟩

end Sys2Proof.Machine
end

section
/-! PROOFS. The statements of husks and the cycle (O28, O53, O54), after the laws that they rest on. -/

/-! ### Requests that change any part of the device -/
namespace Sys2Proof.Machine

theorem Completes.mono {c : Instr} {s : State} {Q R : State → Prop} (h : Completes c s Q) (hQR : ∀ t, Q t → R t) : Completes c s R := by
  obtain ⟨t, hnext, hpending, hQ⟩ := h
  exact ⟨t, hnext, hpending, hQR t hQ⟩

/-- A write of an object that is not saved is answered with its effect's reason, and all that is left besides is what its effect made. -/
theorem odCommand_completes {c : Instr} {s : State} {p : Path} {index sub : Nat} {v : Word} {effect : World → Nat → Nat × World}
    {reason : Nat} {w1 : World} (hc : exec c s = s.done (fun w => w.odCommand p index sub v true effect))
    (ht : odTakes s.world p index sub v = true) (hs : odSaved index sub = false)
    (he : ∀ ws, effect (withWindows s.world ws) v.toNat = (reason, withWindows w1 ws)) (hr : reason ≠ World.odPending)
    (hlog : w1.log = []) (hn : w1.rd oFieldNetState = s.world.rd oFieldNetState) :
    Completes c s (fun t => t.reply p = BitVec.ofNat 16 reason ∧ SameMemory s t
      ∧ ∃ ws rs, t.dev = { w1.dev with windows := ws, replies := rs }) := by
  obtain ⟨ws, hasked⟩ := odAsked_of_odTakes ht
  have hrun := (odCommand_unsaved ht hs ((congrArg (fun w => effect w v.toNat) hasked).trans (he ws))).trans (if_neg hr)
  have answered := requestAnswered_of_odFinish (f := fun w => w.odCommand p index sub v true effect) hrun hlog
    (hn ▸ fieldNet_answers_of_odTakes ht)
  obtain ⟨bs, rs, hdev⟩ := (withWindows w1 ws).odFinish_dev p reason 0 [] false
  exact completes_of_done hc ⟨answered.reply, answered.memory, bs, rs, by rw [State.run_dev, hrun, hdev]⟩

/-- Its effect is one on the world of the request, which then ends. -/
theorem odCommand_performs {c : Instr} {s : State} {p : Path} {index sub : Nat} {v : Word} {effect : World → Nat → Nat × World}
    {f : World → World} (hc : exec c s = s.done (fun w => w.odCommand p index sub v true effect))
    (ht : odTakes s.world p index sub v = true) (hs : odSaved index sub = false)
    (he : ∀ ws, effect (withWindows s.world ws) v.toNat = (0, f (withWindows s.world ws))) :
    Performs c s (fun w => (f (odAsked w p index sub v)).odFinish p 0 0 [] false) := by
  obtain ⟨ws, hasked⟩ := odAsked_of_odTakes ht
  have asked : effect (odAsked s.world p index sub v) v.toNat = (0, f (odAsked s.world p index sub v)) := by
    rw [hasked]
    exact he ws
  exact performs_of_eq hc ((odCommand_unsaved ht hs asked).trans (if_neg (by decide)))

end Sys2Proof.Machine

/-! ### The cycle table -/
namespace Sys2Proof.Machine

/-- The cycle's commands are no saved settings (R408). -/
theorem cycleObjects_unsaved : odSaved 0x2080 1 = false ∧ odSaved 0x2080 4 = false := by decide +kernel

namespace World

/-- A tick at which a committed table takes its place, seen from the world before fillers that the new slot forbids stop (R336). -/
def tableInstalled (w : World) (t : List Nat) : World := (w.installTable t w.slotEnd).wr oCycleCurrentSlot 0

section
variable {w : World}

theorem cycleCommit_valid (h : w.tableValid w.nextTable = true) :
    w.cycleCommit = (0, w.upCycle (fun c => { c with next := some (w.nextTable, w.now + 100000) })) := if_pos h

theorem cycleCommit_invalid (h : w.tableValid w.nextTable = false) : w.cycleCommit = (0x0A04, w) := if_neg (by simp [h])

theorem tableEffect_of_due {t : List Nat} (ht : w.tableDue = some t) (hend : w.slotEnd ≤ w.now) (hs : w.dev.cycle.stopping = false) :
    w.tableEffect = (w.tableInstalled t).fillersBarred := by
  simp [tableEffect, ht, hend, hs, tableInstalled]

/-- Stopping a table that runs waits for the end of its slot; one that no slot of has started stops at once (R336). -/
theorem cycleEnable_stopping (he : w.rd oCycleEnable ≠ 0) (ha : w.dev.cycle.armed = false) :
    w.cycleEnable 0 = (0, w.upCycle (fun c => { c with stopping := true })) := by
  simp [cycleEnable, he, ha]

theorem cycleEnable_disarmed (he : w.rd oCycleEnable ≠ 0) (ha : w.dev.cycle.armed = true) :
    w.cycleEnable 0 = (0, ((w.wr oCycleEnable 0).upCycle (fun c => { c with armed := false, requested := none })).ownersReturn) := by
  simp [cycleEnable, he, ha]

/-- A first enable without a committed table arms the table in force. -/
theorem cycleEnable_arms (he : w.rd oCycleEnable = 0) (hn : w.dev.cycle.next = none) (ht : w.dev.cycle.table ≠ [])
    (hs : w.now + 100000 ≤ w.rd oCycleStartTick) :
    w.cycleEnable 1 = (0, ((w.upCycle (fun c => { c with slotStart := w.rd oCycleStartTick })).wr oCycleEnable 1).upCycle
      (fun c => { c with armed := true, stopping := false })) := by
  simp [cycleEnable, he, hn, ht, Nat.not_lt.mpr hs]

/-- At its request tick a slot has every slice told what it is to run, once (R337). -/
theorem slotRequest_of_next {e start : Nat} (hn : w.nextSlot = some (e, start)) (hlead : start ≤ w.now + ceLead e)
    (hr : w.dev.cycle.requested ≠ some start) :
    w.slotRequest = (w.each allSlices (fun w i => w.requestChange i (w.slotHusk e i) start (w.slotGrants e i))).upCycle
      (fun c => { c with requested := some start }) := by
  simp [slotRequest, hn, Nat.not_lt.mpr hlead, hr]

/-! Where no engine is lent, no filler stops (R342). -/

theorem fillerReturn_unlent {s u : Nat} (h : w.dev.cycle.lent.has (s * 16 + u) = false) : w.fillerReturn s u = w := by
  have unlent : w.dev.cycle.lent.get? (s * 16 + u) = none := by simpa [AMap.has] using h
  simp only [fillerReturn, unlent]

theorem fillersBarred_unlent (h : ∀ k, w.dev.cycle.lent.has k = false) : w.fillersBarred = w := by
  unfold fillersBarred
  refine each_keeps (P := fun v => v = w) rfl fun v s _ hv => ?_
  subst hv
  split
  · unfold fillersReturn
    refine each_keeps (P := fun u => u = v) rfl fun u unit _ hu => ?_
    subst hu
    exact fillerReturn_unlent (h _)
  · rfl

end

end World

section
variable {s : State} {p : Path}

/-- A valid table waits for its place, 1 ms at least; another is refused (R336). -/
theorem cycleCommit_completes (ht : odTakes s.world p 0x2080 4 1 = true) (hv : s.world.tableValid s.world.nextTable = true) :
    Completes (.cycleCommit p 1) s (fun t => t.reply p = 0 ∧ t.dev.od = s.dev.od
      ∧ t.dev.cycle = { s.dev.cycle with next := some (s.world.nextTable, s.dev.time.tick + 100000) } ∧ SameMemory s t) := by
  have answered := odCommand_completes (effect := World.onOne World.cycleCommit) (reason := 0)
    (w1 := s.world.upCycle (fun c => { c with next := some (s.world.nextTable, s.world.now + 100000) })) (c := .cycleCommit p 1) rfl ht
    cycleObjects_unsaved.2 (fun ws => World.cycleCommit_valid (w := withWindows s.world ws) hv) (by decide) rfl rfl
  refine answered.mono fun t ⟨hreply, hmem, ws, rs, hdev⟩ => ?_
  rw [hdev]
  exact ⟨hreply, rfl, rfl, hmem⟩

theorem cycleCommit_refused (ht : odTakes s.world p 0x2080 4 1 = true) (hv : s.world.tableValid s.world.nextTable = false) :
    Completes (.cycleCommit p 1) s (fun t => t.reply p = 0x0A04 ∧ t.dev.od = s.dev.od ∧ t.dev.cycle = s.dev.cycle ∧ SameMemory s t) := by
  have answered := odCommand_completes (effect := World.onOne World.cycleCommit) (reason := 0x0A04) (w1 := s.world)
    (c := .cycleCommit p 1) rfl ht cycleObjects_unsaved.2
    (fun ws => World.cycleCommit_invalid (w := withWindows s.world ws) hv) (by decide) rfl rfl
  refine answered.mono fun t ⟨hreply, hmem, ws, rs, hdev⟩ => ?_
  rw [hdev]
  exact ⟨hreply, rfl, rfl, hmem⟩

/-- The committed table takes its place at the end of the table in force, R336. -/
theorem cycleTableEffect_installs {t0 : List Nat} (ht : s.world.tableDue = some t0) (hend : s.world.slotEnd ≤ s.dev.time.tick)
    (hs : s.dev.cycle.stopping = false) (hl : ∀ k, s.dev.cycle.lent.has k = false) :
    Completes .cycleTableEffect s (fun t => t.val oCycleCurrentSlot = 0
      ∧ t.dev.cycle = { s.dev.cycle with table := t0, next := none, slotStart := s.world.slotEnd }
      ∧ t.val oCycleGeneration = fit 32 (s.val oCycleGeneration + 1) ∧ SameMemory s t
      ∧ SameObjectsBut [oCyclePeriod, oCycleGeneration, oCycleCurrentSlot] s t) := by
  have installs : s.world.tableEffect = s.world.tableInstalled t0 :=
    (World.tableEffect_of_due (w := s.world) ht hend hs).trans (World.fillersBarred_unlent hl)
  refine completes_of_effect (f := World.tableEffect) rfl installs rfl fun t ht hmem => ⟨?_, by rw [ht]; rfl, ?_, hmem, fun k hk => ?_⟩
  · rw [val_of_dev ht, World.tableInstalled, World.rd_wr_same, Nat.zero_mod]
  · rw [val_of_dev ht, World.tableInstalled, World.rd_wr_other _ (by decide), World.installTable, World.rd_wr_same,
      Nat.mod_eq_of_lt (Nat.lt_trans (fit_lt 32 _) (by decide))]
    rfl
  · simp only [List.map_cons, List.map_nil, List.mem_cons, List.not_mem_nil, or_false, not_or] at hk
    obtain ⟨hperiod, hgeneration, hslot⟩ := hk
    rw [val_of_dev ht, World.tableInstalled, World.rd_wr_other _ hslot, World.installTable, World.rd_wr_other _ hgeneration,
      World.rd_wr_other _ hperiod]
    rfl

/-- A table that runs is stopped at the end of its slot, R336. -/
theorem cycleEnableWrite_stops (ht : odTakes s.world p 0x2080 1 0 = true) (he : s.val oCycleEnable ≠ 0) (ha : s.dev.cycle.armed = false) :
    Completes (.cycleEnableWrite p 0) s (fun t => t.reply p = 0 ∧ t.val oCycleEnable = s.val oCycleEnable
      ∧ t.dev.cycle = { s.dev.cycle with stopping := true } ∧ SameMemory s t) := by
  have answered := odCommand_completes (effect := World.cycleEnable) (reason := 0)
    (w1 := s.world.upCycle (fun c => { c with stopping := true })) (c := .cycleEnableWrite p 0) rfl ht cycleObjects_unsaved.1
    (fun ws => World.cycleEnable_stopping (w := withWindows s.world ws) he ha) (by decide) rfl rfl
  refine answered.mono fun t ⟨hreply, hmem, ws, rs, hdev⟩ => ⟨hreply, val_of_od (by rw [hdev]; rfl) _, by rw [hdev]; rfl, hmem⟩

theorem cycleEnableWrite_disarms (ht : odTakes s.world p 0x2080 1 0 = true) (he : s.val oCycleEnable ≠ 0) (ha : s.dev.cycle.armed = true) :
    Performs (.cycleEnableWrite p 0) s (fun w =>
      (((odAsked w p 0x2080 1 0).wr oCycleEnable 0).upCycle (fun c => { c with armed := false, requested := none })).ownersReturn.odFinish
        p 0 0 [] false) :=
  odCommand_performs (effect := World.cycleEnable)
    (f := fun w => ((w.wr oCycleEnable 0).upCycle (fun c => { c with armed := false, requested := none })).ownersReturn)
    rfl ht cycleObjects_unsaved.1 fun ws => World.cycleEnable_disarmed (w := withWindows s.world ws) he ha

/-- The table in force starts at CycleStartTick, R336. -/
theorem cycleEnableWrite_arms (ht : odTakes s.world p 0x2080 1 1 = true) (he : s.val oCycleEnable = 0) (hn : s.dev.cycle.next = none)
    (htable : s.dev.cycle.table ≠ []) (hs : s.dev.time.tick + 100000 ≤ s.val oCycleStartTick) :
    Completes (.cycleEnableWrite p 1) s (fun t => t.reply p = 0 ∧ t.val oCycleEnable = 1
      ∧ t.dev.cycle = { s.dev.cycle with slotStart := s.val oCycleStartTick, armed := true, stopping := false } ∧ SameMemory s t) := by
  have answered := odCommand_completes (effect := World.cycleEnable) (reason := 0)
    (w1 := ((s.world.upCycle (fun c => { c with slotStart := s.val oCycleStartTick })).wr oCycleEnable 1).upCycle
      (fun c => { c with armed := true, stopping := false })) (c := .cycleEnableWrite p 1) rfl ht cycleObjects_unsaved.1
    (fun ws => World.cycleEnable_arms (w := withWindows s.world ws) he hn htable hs) (by decide) rfl
    (World.rd_wr_other _ (by decide) _)
  refine answered.mono fun t ⟨hreply, hmem, ws, rs, hdev⟩ => ⟨hreply, ?_, by rw [hdev]; rfl, hmem⟩
  exact (World.rd_congr (w := s.world.wr oCycleEnable 1) (by rw [State.world_dev, hdev]; rfl) _).trans (World.rd_wr_same _ _ _)

end
end Sys2Proof.Machine

/-! ### A slice's change to another husk -/
namespace Sys2Proof.Machine

namespace World

/-- The world after a release at its slot's start, `v`, with a late release of a grant counted once for each start (R337). -/
def lateCounted (w v : World) (ch : SlotChange) : World :=
  if ch.grant = true ∧ ch.slotStart + 200 < w.now ∧ w.dev.cycle.late ≠ ch.slotStart then
    (v.inc oCycleSlotsLate 1).upCycle (fun c => { c with late := ch.slotStart })
  else v

/-- The world in which a slice runs the husk that came in, and its change is over (R337). -/
def slotRuns (w : World) (s : Nat) (ch : SlotChange) : World :=
  (w.wr (oSliceRunning s) ch.incoming).upCycle (fun c => { c with changes := c.changes.del s })

/-- The released units of a slice go on (R337, R78). -/
def unitsRelease (w : World) (sl : Fin 16) (h : Nat) : World :=
  ((w.each (enginesOf sl.val h) (fun w r => if (w.ring r).state = 5 then w.setRing r { w.ring r with state := 0 } else w)).each
    (List.range 8) (fun w e => w.chainWake (masterId 0x1 (sl.val * 8 + e)))).updateResume sl

/-- A stop by force of one unit is an event of that unit, and of the husk's pre-emption the first counts (R340). -/
def stopTold (w : World) (s : Nat) (ch : SlotChange) (m : Nat) : World :=
  let w1 := (w.corrected (unitSource m) m 0 0x0A05 0).upCycle (fun c => { c with changes := c.changes.put s { ch with forced := true } })
  if ch.forced then w1 else w1.inc (oHuskPreemptForced ch.out) 1

/-- The stop by force, R340: the pips that run, or else the vector engine's command. -/
def unitsStopped (w : World) (sl : Fin 16) (ch : SlotChange) : World :=
  let r : RingRef := .slice sl 8 (Fin.ofNat 16 ch.out)
  let ps := (w.pipsOf sl.val).filter (fun p => (w.pip p).waiting == 0)
  match ps with
  | p :: _ => (w.each ps (fun w p => w.savePip p allRegs.1 allRegs.2)).stopTold sl.val ch (masterId 0x2 p)
  | [] => if (w.ring r).taken.isEmpty then w else (w.setRing r { w.ring r with
      taken := (w.ring r).taken.map (fun t => { t with wait := .done, status := 3, reason := 0x0A05 }) }).stopTold sl.val ch (masterId 0x4 sl.val)

theorem cycle_wr (w : World) (k : OKey) (v : Nat) : (w.wr k v).dev.cycle = w.dev.cycle := rfl
theorem cycle_inc (w : World) (k : OKey) (n : Nat) : (w.inc k n).dev.cycle = w.dev.cycle := rfl

/-- The queues of a husk that is saved show it (R338); nothing else of the cycle changes with them. -/
theorem cycle_ringsSaved (w : World) (l : List RingRef) : (l.foldl (fun w r =>
    if (w.ring r).enable || !(w.ring r).taken.isEmpty then w.setRing r { w.ring r with state := 5 } else w) w).dev.cycle = w.dev.cycle :=
  each_keeps (P := fun v => v.dev.cycle = w.dev.cycle) rfl fun v r _ hv => by
    split <;> exact hv

/-- A late release changes a count and the cycle's memory of it. -/
theorem lateCounted_eq (w v : World) (ch : SlotChange) : ∃ od late, w.lateCounted v ch =
    { v with dev := { v.dev with od := od, cycle := { v.dev.cycle with late := late } } }
    ∧ ∀ k : OKey, k.key ≠ oCycleSlotsLate.key → (w.lateCounted v ch).rd k = v.rd k := by
  unfold lateCounted
  split
  · exact ⟨_, _, rfl, fun k hk => rd_inc_other v hk 1⟩
  · exact ⟨_, _, rfl, fun _ _ => rfl⟩

section
variable {w : World} {sl : Fin 16} {ch : SlotChange} (hx : w.dev.cycle.changes.get? sl.val = some ch)
include hx

/-- With every pip stopped or waiting the pre-emption ends: the slice runs no husk, and its change is saved (R338). -/
theorem preemptSaved_of_stopped (hs : ch.saved = false) (hp : w.pipsStopped sl.val = true) :
    ∃ v : World, w.preemptSaved sl.val = v.wr (oSliceRunning sl.val) 0xFF
      ∧ v.dev.cycle.changes.get? sl.val = some { ch with saved := true } := by
  rw [preemptSaved, hx]
  refine ⟨_, (if_neg (by simp [hs, hp])).trans rfl, ?_⟩
  rw [cycle_wr, cycle_inc, cycle_ringsSaved, upCycle_dev]
  exact AMap.get?_put_same _ _ _

/-- With its save area readable the husk's state comes back (R339). -/
theorem restored_of_good (hs : ch.saved = true) (hr : ch.restored = false) (hi : ch.incoming < 16)
    (hg : w.restoreGood sl.val ch.incoming = true) :
    (w.restored sl.val).dev.cycle.changes.get? sl.val = some { ch with restored := true } := by
  simp only [restored, hx, hs, hr, hg, Nat.not_le.mpr hi, decide_false, Bool.not_true, Bool.or_self, Bool.false_eq_true, if_false]
  exact AMap.get?_put_same _ _ _

section
variable (hs : ch.saved = true) (hr : ch.restored = true) (hd : ch.slotStart ≤ w.now)
include hs hr hd

theorem slotReleased_none (hi : 16 ≤ ch.incoming) : w.slotReleased sl.val = w.lateCounted (w.slotRuns sl.val ch) ch := by
  simp only [slotReleased, hx, hs, hr, Nat.not_lt.mpr hd, decide_false, Bool.not_true, Bool.or_self, Bool.false_eq_true, if_false,
    Nat.not_lt.mpr hi]
  rfl

theorem slotReleased_husk (hi : ch.incoming < 16) :
    w.slotReleased sl.val = w.lateCounted ((w.slotRuns sl.val ch).unitsRelease sl ch.incoming) ch := by
  simp only [slotReleased, hx, hs, hr, Nat.not_lt.mpr hd, decide_false, Bool.not_true, Bool.or_self, Bool.false_eq_true, if_false,
    hi, if_true, Fin.ofNat_val_eq_self]
  rfl

end

/-- A stop in the 4,000th tick itself still counts (R340). -/
theorem forcedStop_atLimit (hd : ch.requestTick + 4000 = w.now) : w.forcedStop sl.val = w.dueLater (.forcedStop sl.val) := by
  simp only [forcedStop, hx, hd, if_true]

section
variable (hs : ch.saved = false)
include hs

theorem forcedStopNow_of_due (hd : ch.requestTick + 4000 ≤ w.now) : w.forcedStopNow sl.val = w.unitsStopped sl ch := by
  simp only [forcedStopNow, hx, Fin.ofNat_val_eq_self]
  rw [if_neg (by simp [hs, hd])]
  rfl

theorem forcedStop_afterLimit (hd : ch.requestTick + 4000 < w.now) : w.forcedStop sl.val = w.unitsStopped sl ch := by
  rw [← forcedStopNow_of_due hx hs (Nat.le_of_lt hd)]
  simp only [forcedStop, hx, Nat.ne_of_gt hd, if_false]

end
end

/-! Filler, R342. -/

section
variable {w : World} {sl : Fin 16} {u : Fin 9}

/-- An engine goes back when a command of its owner waits. -/
theorem fillerEvict_of_waiting (he : (w.ring (.slice sl (Fin.ofNat 16 u.val) (Fin.ofNat 16 (w.running sl.val)))).enable = true)
    (hw : (w.ring (.slice sl (Fin.ofNat 16 u.val) (Fin.ofNat 16 (w.running sl.val)))).head ≠
      (w.ring (.slice sl (Fin.ofNat 16 u.val) (Fin.ofNat 16 (w.running sl.val)))).tail) :
    w.fillerEvict sl.val u.val = w.fillerReturn sl.val u.val := by
  simp only [fillerEvict, Fin.ofNat_val_eq_self]
  rw [he, Bool.true_and, if_pos (bne_iff_ne.mpr hw)]

/-- The world in which an idle engine is lent: the guest window is the filler husk's, the owner's banks are saved. -/
def engineLent (w : World) (s u f o : Nat) : World :=
  let w1 := w.windowLoad s f
  let w2 := if u < 8 then (w1.saveBank s o (2 * u)).saveBank s o (2 * u + 1) else w1
  w2.upCycle (fun c => { c with lent := c.lent.put (s * 16 + u) (w.engine (masterId 0x1 (s * 8 + u))) })

/-- Husk f may take over an engine that its owner o leaves idle: f is a guest of the slice, o runs there, its queue has been empty
for long enough, and a filler command waits. -/
structure FillerMayTake (w : World) (sl : Fin 16) (u : Fin 9) (f o : Fin 16) : Prop where
  filler : w.rd (oSliceFillerHusk sl.val) = f.val
  running : w.running sl.val = o.val
  fillerActive : w.active f.val = true
  ownerActive : w.active o.val = true
  guests : w.rd (oSliceGuestEnable sl.val) = 1
  guest : bitAt (w.rd (oHuskGuestSlices f.val)) sl.val = true
  powered : w.powered sl.val = true
  owner : w.ownerOf sl.val = some o.val
  unchanging : w.dev.cycle.changes.has sl.val = false
  allowed : w.noFill sl.val = false
  empty : (w.ring (.slice sl (Fin.ofNat 16 u.val) o)).head = (w.ring (.slice sl (Fin.ofNat 16 u.val) o)).tail
  finished : (w.ring (.slice sl (Fin.ofNat 16 u.val) o)).taken = []
  idle : w.dev.cycle.idleSince.getD (sl.val * 16 + u.val) 0 + w.rd oFillerIdleTicks ≤ w.now
  unlent : w.dev.cycle.lent.has (sl.val * 16 + u.val) = false
  enabled : (w.ring (.filler sl u)).enable = true
  waits : (w.ring (.filler sl u)).head ≠ (w.ring (.filler sl u)).tail
  room : (w.ring (.filler sl u)).cqFree = true
  free : (w.ring (.filler sl u)).taken = []

namespace FillerMayTake
variable {f o : Fin 16} (h : w.FillerMayTake sl u f o)
include h

theorem fillerFree : w.fillerFree sl.val u.val = true := by
  simp only [World.fillerFree, h.running, Fin.ofNat_val_eq_self, h.allowed, h.empty, h.finished, beq_self_eq_true, List.isEmpty_nil,
    Bool.not_false, Bool.and_self]

theorem fillerTake_lends : w.fillerTake sl.val u.val = w.engineLent sl.val u.val f.val o.val := by
  have waits : ((w.ring (.filler sl u)).head != (w.ring (.filler sl u)).tail) = true := bne_iff_ne.mpr h.waits
  simp only [fillerTake, Fin.ofNat_val_eq_self, h.filler, h.running, h.fillerActive, h.ownerActive, h.guests, h.guest, h.powered, h.owner,
    h.unchanging, h.fillerFree, h.idle, h.unlent, h.enabled, waits, h.room, h.free, f.isLt, beq_self_eq_true, decide_true,
    List.isEmpty_nil, Bool.not_false, Bool.and_self, Bool.not_true, Bool.false_eq_true, if_false]
  rfl

end FillerMayTake

end

end World

section
variable {s : State} {sl : Fin 16} {ch : SlotChange} (hx : s.dev.cycle.changes.get? sl.val = some ch)
include hx

theorem preemptSaveDone_completes (hs : ch.saved = false) (hp : s.world.pipsStopped sl.val = true) :
    Completes (.preemptSaveDone sl) s (fun t => t.val (oSliceRunning sl.val) = 0xFF
      ∧ t.dev.cycle.changes.get? sl.val = some { ch with saved := true }) := by
  obtain ⟨v, hrun, hch⟩ := World.preemptSaved_of_stopped (w := s.world) hx hs hp
  have hdev : (s.run (fun w => w.preemptSaved sl.val)).dev = (v.wr (oSliceRunning sl.val) 0xFF).dev := by rw [State.run_dev, hrun]
  refine completes_of_done rfl ⟨?_, ?_⟩
  · exact (val_of_dev hdev _).trans (World.rd_wr_same _ _ _)
  · rw [hdev]
    exact hch

/-- A slice whose slot gives it to no husk comes free at the slot's start, R337. -/
theorem slotRelease_idle (hs : ch.saved = true) (hr : ch.restored = true) (hd : ch.slotStart ≤ s.dev.time.tick) (hi : 16 ≤ ch.incoming) :
    Completes (.slotRelease sl) s (fun t => t.val (oSliceRunning sl.val) = ch.incoming % 2 ^ 64
      ∧ t.dev.cycle.changes.get? sl.val = none ∧ t.dev.rings = s.dev.rings ∧ SameMemory s t) := by
  obtain ⟨od, late, hlate, hrd⟩ := World.lateCounted_eq s.world (s.world.slotRuns sl.val ch) ch
  have other : (oSliceRunning sl.val).key ≠ oCycleSlotsLate.key := by
    simp only [oSliceRunning, oCycleSlotsLate]
    omega
  refine completes_of_effect (f := fun w => w.slotReleased sl.val) rfl (World.slotReleased_none (w := s.world) hx hs hr hd hi)
    (by rw [hlate]; rfl) fun t ht hmem => ⟨?_, ?_, ?_, hmem⟩
  · rw [val_of_dev ht, hrd _ other]
    exact World.rd_wr_same _ _ _
  · rw [ht, hlate]
    exact AMap.get?_del_same _ _
  · rw [ht, hlate]
    rfl

end

/-- Settles O54: each command by the law of its operation; a request goes through `odCommand_completes` or `odCommand_performs`. -/
theorem cycleCommands : Obligations.CycleCommands := by
  intro s
  refine ⟨fun p ht => ⟨cycleCommit_completes ht, cycleCommit_refused ht⟩, fun t0 ht hend hs => ⟨?_, cycleTableEffect_installs ht hend hs⟩,
    fun p ht he ha => cycleEnableWrite_stops ht he ha, fun p ht he ha => cycleEnableWrite_disarms ht he ha,
    fun p ht he hn htable hs => cycleEnableWrite_arms ht he hn htable hs, fun e start hn hlead hr => ?_, fun sl ch hx => ?_,
    ?_, ?_⟩
  · exact performs_of_eq rfl (World.tableEffect_of_due (w := s.world) ht hend hs)
  · exact performs_of_eq rfl (World.slotRequest_of_next (w := s.world) hn hlead hr)
  · have change : s.world.dev.cycle.changes.get? sl.val = some ch := hx
    refine ⟨preemptSaveDone_completes hx, fun hs hr hi hg =>
        completes_of_done (f := fun w => w.restored sl.val) rfl (World.restored_of_good change hs hr hi hg),
      fun hs hr hd => ⟨slotRelease_idle hx hs hr hd, fun hi => performs_of_eq rfl (World.slotReleased_husk change hs hr hd hi)⟩,
      fun _ hd => ?_, fun hs hd => ⟨?_, fun hd => ?_⟩⟩
    · refine completes_of_effect (f := fun w => w.forcedStop sl.val) rfl
        ((World.forcedStop_atLimit change hd).trans (World.dueLater_eq _ _)) rfl fun t ht hmem => ?_
      rw [ht]
      exact ⟨rfl, rfl, rfl, rfl, hmem⟩
    · exact congrArg s.commit (World.forcedStopNow_of_due change hs hd)
    · exact performs_of_eq rfl (World.forcedStop_afterLimit change hs hd)
  · intro sl u x he hw
    exact performs_of_eq rfl (World.fillerEvict_of_waiting (w := s.world) he hw)
  · intro sl u f o x y filler running fillerActive ownerActive guests guest powered owner unchanging allowed empty finished idle unlent
      enabled waits room free
    exact performs_of_eq rfl (World.FillerMayTake.fillerTake_lends (w := s.world) ⟨filler, running, fillerActive, ownerActive, guests, guest,
      powered, owner, unchanging, allowed, empty, finished, idle, unlent, enabled, waits, room, free⟩)

end Sys2Proof.Machine

/-! ### Another husk's queue registers -/
namespace Sys2Proof.Machine

/-- A virtual function reaches no image of another husk, R333. -/
theorem ringPath_foreign {k h : Fin 16} (hk : k ≠ h) (port : Fin 2) (sl q : Fin 16) : World.ringPath (.vf k port) (.slice sl q h) = false :=
  beq_false_of_ne hk

/-- Settles O28: each of the four writes asks first whether the path reaches the image (`ringPath_foreign`). -/
theorem foreignFunctionCannotWriteQueues : Obligations.ForeignFunctionCannotWriteQueues := by
  intro s k h port sl q v c hk p r hc
  have path : World.ringPath p r = false := ringPath_foreign hk port sl q
  have reach : s.world.ringPathOk p r = false := by rw [World.ringPathOk, path, Bool.false_and]
  have doorbell : s.world.tailPathOk p r = false := Bool.or_eq_false_iff.mpr ⟨reach, rfl⟩
  rcases hc with rfl | rfl | rfl | rfl
  · exact exec_eq_next_of_eq rfl (if_neg (by simp [reach]))
  · exact exec_eq_next_of_eq rfl (if_neg (by simp [reach]))
  · exact exec_eq_next_of_eq rfl (if_neg (by simp [reach]))
  · exact exec_eq_next_of_eq rfl (if_neg (by simp [doorbell]))

end Sys2Proof.Machine

/-! ### Husks are enabled and disabled -/
namespace Sys2Proof.Machine

theorem huskControl_unsaved (h : Fin 16) : odSaved (0x3000 + h.val * 256) 2 = false := by
  revert h
  decide +kernel

/-- Cached leaves of the husks that stay are found as before, the others no more (R45). -/
theorem AMap.get?_delIf_keys {α : Type} (m : AMap α) (gone : Nat → Bool) (k : Nat) :
    (m.delIf (fun i _ => gone i)).get? k = if gone k then none else m.get? k := by
  simp only [AMap.get?, AMap.delIf, AMap.find_filter_keys (fun i => !(gone i))]
  cases gone k <;> rfl

theorem AMap.get?_del_eq {α : Type} (m : AMap α) (j k : Nat) : (m.del k).get? j = if k = j then none else m.get? j := by
  simp only [AMap.get?, AMap.del, AMap.find_filter_keys (fun i => !(i == k))]
  by_cases h : k = j
  · simp [h]
  · simp [h, Ne.symm h]

namespace World

/-- The world in which an enable of husk h has drawn its keys, zeroed its scratch and emptied its queues (R326, R330). -/
def huskEnabled (w : World) (h : Nat) : World :=
  let w1 := (w.wr (oHuskState h) hsEnabling).drawKey h
  let w2 := w1.each (w1.slicesOf h) (fun u i => (u.zeroRange (i * 0x4000000) 0x2000000).wr (oSliceOwner i) h)
  w2.selectSoon.ringsOff ((sliceRingsOf h).filter (fun r => (w.slicesOf h).elem (ringSlice r)))

section
variable {w : World} {h : Nat}

theorem huskEnable_valid (hs : w.huskState h = hsDisabled) (hc : w.huskConfigOk h = true) : w.huskEnable h = (0, w.huskEnabled h) := by
  rw [huskEnable, if_neg (by simp [hs]), if_neg (by simp [hc])]
  rfl

theorem huskEnable_invalid (hs : w.huskState h = hsDisabled) (hc : w.huskConfigOk h = false) : w.huskEnable h = (0x0A01, w) := by
  rw [huskEnable, if_neg (by simp [hs]), if_pos (by simp [hc])]

theorem huskEnable_busy (hs : w.huskState h ≠ hsDisabled) : w.huskEnable h = (0x0A02, w) := if_pos hs

theorem huskDisable_active (m : Nat) (hs : w.huskState h = hsActive) : w.huskDisable h m = (0, w.disableStart h m) := if_pos hs

/-- A disable of a husk that is ENABLING or RESETTING waits for it to become ACTIVE, R344. -/
theorem huskDisable_held (m : Nat) (hs : w.huskState h = hsEnabling ∨ w.huskState h = hsResetting) :
    w.huskDisable h m = (0, w.upResets (fun r => { r with disableHeld := r.disableHeld.put h m })) := by
  have inactive : w.huskState h ≠ hsActive := by
    rcases hs with hs | hs <;> rw [hs] <;> decide
  rw [huskDisable, if_neg inactive, if_pos hs]

theorem huskDisable_refused (m : Nat) (hs : w.huskState h = hsDisabled ∨ w.huskState h = hsDisabling) :
    w.huskDisable h m = (if w.huskState h = hsDisabled then 0x0A03 else 0x0A02, w) := by
  rcases hs with hs | hs <;> simp [huskDisable, hs, hsDisabled, hsDisabling, hsActive, hsEnabling, hsResetting]

/-- Where no disable is held, the end of an enable makes the husk ACTIVE, and beyond that chooses which husk runs on slices (R326). -/
theorem becomeActive_writes (hd : w.dev.resets.disableHeld.get? h = none) :
    Writes (fun key => ∃ i, key = (oSliceRunning i).key) (w.selectSoon.wr (oHuskState h) hsActive) (w.becomeActive h) := by
  rw [becomeActive, hd]
  refine Writes.each _ fun v i _ => ?_
  split
  · exact .wr v ⟨i, rfl⟩ h
  · exact .refl v

end

end World

section
variable {s : State} {p : Path} {h : Fin 16}

section
variable (ht : odTakes s.world p (0x3000 + h.val * 256) 2 1 = true)
include ht

theorem huskEnable_performs (hs : s.world.huskState h.val = hsDisabled) (hc : s.world.huskConfigOk h.val = true) :
    Performs (.huskEnable p h) s (fun w => ((odAsked w p (0x3000 + h.val * 256) 2 1).huskEnabled h.val).odFinish p 0 0 [] false) :=
  odCommand_performs (effect := fun w n => w.huskControl h.val (pathMaster p) n) (f := fun w => w.huskEnabled h.val) rfl ht
    (huskControl_unsaved h) fun ws => World.huskEnable_valid (w := withWindows s.world ws) hs hc

/-- An enable that is refused leaves the husk and its keys, R326. -/
theorem huskEnable_refused {reason : Nat} (hr : reason ≠ World.odPending)
    (he : ∀ ws, (withWindows s.world ws).huskEnable h.val = (reason, withWindows s.world ws)) :
    Completes (.huskEnable p h) s (fun t =>
      t.reply p = BitVec.ofNat 16 reason ∧ t.dev.od = s.dev.od ∧ t.dev.keys = s.dev.keys ∧ SameMemory s t) := by
  have answered := odCommand_completes (effect := fun w n => w.huskControl h.val (pathMaster p) n) (w1 := s.world) (c := .huskEnable p h)
    rfl ht (huskControl_unsaved h) he hr rfl rfl
  refine answered.mono fun t ⟨hreply, hmem, ws, rs, hdev⟩ => ?_
  rw [hdev]
  exact ⟨hreply, rfl, rfl, hmem⟩

end

/-- An enable ends with the husk ACTIVE, its keys and its queues as they were drawn and emptied (R326). -/
theorem huskEnableDone_completes (hs : s.world.huskState h.val = hsEnabling) (hd : s.dev.resets.disableHeld.get? h.val = none) :
    Completes (.huskEnableDone h) s (fun t =>
      t.val (oHuskState h.val) = hsActive ∧ t.dev.keys = s.dev.keys ∧ t.dev.rings = s.dev.rings ∧ SameMemory s t) := by
  obtain ⟨⟨od, hactive⟩, hrd⟩ := World.becomeActive_writes (w := s.world) hd
  have other : ¬ ∃ i, (oHuskState h.val).key = (oSliceRunning i).key := by
    rintro ⟨i, hi⟩
    simp only [oHuskState, oSliceRunning] at hi
    omega
  refine completes_of_effect rfl (if_pos hs) (by rw [hactive]; rfl) fun t ht hmem => ⟨?_, ?_, ?_, hmem⟩
  · rw [val_of_dev ht, hrd _ other]
    exact World.rd_wr_same _ _ _
  · rw [ht, hactive]
    rfl
  · rw [ht, hactive]
    rfl

section
variable (ht : odTakes s.world p (0x3000 + h.val * 256) 2 2 = true)
include ht

/-- A disable of an ACTIVE husk begins its teardown, R344. -/
theorem huskDisable_performs (hs : s.world.huskState h.val = hsActive) :
    Performs (.huskDisable p h) s (fun w =>
      ((odAsked w p (0x3000 + h.val * 256) 2 2).disableStart h.val (pathMaster p)).odFinish p 0 0 [] false) :=
  odCommand_performs (effect := fun w n => w.huskControl h.val (pathMaster p) n) (f := fun w => w.disableStart h.val (pathMaster p)) rfl ht
    (huskControl_unsaved h) fun ws => World.huskDisable_active (w := withWindows s.world ws) _ hs

theorem huskDisable_holds (hs : s.world.huskState h.val = hsEnabling ∨ s.world.huskState h.val = hsResetting) :
    Completes (.huskDisable p h) s (fun t => t.reply p = 0 ∧ t.dev.od = s.dev.od
      ∧ t.dev.resets.disableHeld.get? h.val = some (pathMaster p) ∧ SameMemory s t) := by
  have answered := odCommand_completes (effect := fun w n => w.huskControl h.val (pathMaster p) n) (reason := 0)
    (w1 := s.world.upResets (fun r => { r with disableHeld := r.disableHeld.put h.val (pathMaster p) })) (c := .huskDisable p h)
    rfl ht (huskControl_unsaved h) (fun ws => World.huskDisable_held (w := withWindows s.world ws) _ hs) (by decide) rfl rfl
  refine answered.mono fun t ⟨hreply, hmem, ws, rs, hdev⟩ => ?_
  rw [hdev]
  exact ⟨hreply, rfl, AMap.get?_put_same _ _ _, hmem⟩

theorem huskDisable_refuses (hs : s.world.huskState h.val = hsDisabled ∨ s.world.huskState h.val = hsDisabling) :
    Completes (.huskDisable p h) s (fun t =>
      t.reply p = (if s.world.huskState h.val = hsDisabled then 0x0A03 else 0x0A02) ∧ t.dev.od = s.dev.od ∧ SameMemory s t) := by
  have answered := odCommand_completes (effect := fun w n => w.huskControl h.val (pathMaster p) n)
    (reason := if s.world.huskState h.val = hsDisabled then 0x0A03 else 0x0A02) (w1 := s.world) (c := .huskDisable p h)
    rfl ht (huskControl_unsaved h) (fun ws => World.huskDisable_refused (w := withWindows s.world ws) _ hs) (by split <;> decide) rfl rfl
  refine answered.mono fun t ⟨hreply, hmem, ws, rs, hdev⟩ => ?_
  rw [hdev]
  exact ⟨hreply.trans (apply_ite _ _ _ _), rfl, hmem⟩

end

/-- An invalidation takes the husk's cached leaves and no other's, R45. -/
theorem translationInvalidation_completes (s : State) (h : Fin 16) :
    Completes (.translationInvalidation h) s (fun t => (∀ k, k / 2 ^ 32 = h.val → t.dev.tlb.get? k = none)
      ∧ (∀ k, k / 2 ^ 32 ≠ h.val → t.dev.tlb.get? k = s.dev.tlb.get? k) ∧ t.dev.od = s.dev.od ∧ t.dev.rings = s.dev.rings
      ∧ SameMemory s t) := by
  have found := AMap.get?_delIf_keys s.dev.tlb (fun k => k / 2 ^ 32 == h.val)
  refine completes_of_effect (f := fun w => { w with dev := { w.dev with tlb := w.dev.tlb.delIf (fun k _ => k / 2 ^ 32 == h.val) } })
    rfl rfl rfl fun t ht hmem => ?_
  rw [ht]
  exact ⟨fun k hk => (found k).trans (if_pos (beq_iff_eq.mpr hk)),
    fun k hk => (found k).trans (if_neg (by simpa using hk)), rfl, rfl, hmem⟩

end
end Sys2Proof.Machine

/-! ### Frames -/
namespace Sys2Proof.Machine

/-- The catalogue's row of HbmFrameOwner. -/
def frameOwnerRow : OdRow := ⟨"HbmFrameOwner", 0x2043, 1, 1, 0x0, 0x0, .dom, .rw, 0, 0, 0, 1, .any, false⟩

theorem odLookup_frameOwner : odLookup 0x2043 0 = some frameOwnerRow := by decide +kernel

/-- The request that a write of HbmFrameOwner is. -/
def frameRequest (p : Path) (req : OdReq) (d : List Byte) : OdHeld := ⟨1, p, { req with index := 0x2043, sub := 0 }, 0, d, none, true⟩

/-- Every byte of HbmFrameOwner that the state holds names a husk, as R327 has it. -/
def World.FramesNamed (w : World) : Prop := ∀ f b, w.dev.frames.get? f = some b → b ≤ 16

namespace World

/-- The world in which frames have been given, and the quotas follow (R327). -/
def framesGiven (w : World) (l : List (Nat × Nat)) : World :=
  let w1 := w.each l (fun u x => { u with dev := { u.dev with
    frames := if x.2 = 0 then u.dev.frames.del x.1 else u.dev.frames.put x.1 x.2 } })
  w1.each allHusks (fun u k => u.wr (oHuskHbmQuota k) (0x200000 * (w1.dev.frames.vals.filter (fun b => b == k + 1)).length))

/-- What a segment writes to frames are bytes of it. -/
theorem mem_frameWrites {w : World} {first : Nat} {d : List Byte} {x : Nat × Nat} (hx : x ∈ w.frameWrites first d) :
    ∃ b ∈ d, x.2 = b.toNat := by
  obtain ⟨⟨i, b⟩, hmem, hsome⟩ := List.mem_filterMap.mp hx
  refine ⟨b, (List.of_mem_zip hmem).2, ?_⟩
  dsimp only at hsome
  split at hsome
  · cases hsome
  · cases hsome
    rfl

/-- A segment that names husks takes frames only from husks that are DISABLED: it is applied whole (R327). -/
theorem frameWrite_applied {w : World} (first : Nat) {d : List Byte} (hn : w.FramesNamed) (hb : ∀ b ∈ d, b.toNat ≤ 0x10)
    (hd : ∀ k < 16, w.huskState k = hsDisabled) : w.frameWrite first d = (0, w.framesGiven (w.frameWrites first d)) := by
  have inRange : (w.frameWrites first d).any (fun x => decide (0x11 ≤ x.2)) = false := by
    refine List.any_eq_false.mpr fun x hx => ?_
    obtain ⟨b, hmem, hval⟩ := mem_frameWrites hx
    have := hb b hmem
    simp only [decide_eq_true_eq]
    omega
  have idle : (w.frameWrites first d).any (fun x => let old := w.dev.frames.getD x.1 0
      old != 0 && old != x.2 && w.huskState (old - 1) != hsDisabled) = false := by
    refine List.any_eq_false.mpr fun x _ => ?_
    cases hold : w.dev.frames.get? x.1 with
    | none => simp [AMap.getD, hold]
    | some old =>
      by_cases h0 : old = 0
      · simp [AMap.getD, hold, h0]
      · have disabled : w.huskState (old - 1) = hsDisabled := hd _ (by have := hn _ _ hold; omega)
        simp [AMap.getD, hold, disabled]
  rw [frameWrite]
  simp only [inRange, idle, Bool.false_eq_true, if_false]
  rfl

/-- Frames that a segment gives name husks when its bytes do. -/
theorem framesNamed_framesGiven {w : World} {l : List (Nat × Nat)} (hn : w.FramesNamed) (hl : ∀ x ∈ l, x.2 ≤ 16) :
    (w.framesGiven l).FramesNamed := by
  unfold framesGiven
  refine each_keeps (each_keeps hn fun v x hx hv f b hf => ?_) fun v k _ hv => hv
  dsimp only at hf
  split at hf
  · rw [AMap.get?_del_eq] at hf
    split at hf
    · cases hf
    · exact hv f b hf
  · by_cases hfx : f = x.1
    · rw [hfx, AMap.get?_put_same] at hf
      cases hf
      exact hl x hx
    · rw [AMap.get?_put_other _ hfx] at hf
      exact hv f b hf

/-- A segment write keeps R327: a byte that names no husk is never given. -/
theorem framesNamed_frameWrite {w : World} (first : Nat) (d : List Byte) (hn : w.FramesNamed) : (w.frameWrite first d).2.FramesNamed := by
  rw [frameWrite]
  dsimp only
  split
  · exact hn
  · rename_i inRange
    split
    · exact hn
    · exact framesNamed_framesGiven hn fun x hx => by
        have := List.any_eq_false.mp (Bool.eq_false_iff.mpr inRange) x hx
        simp only [decide_eq_true_eq] at this
        omega

/-- A write of HbmFrameOwner that is not refused does what `frameWrite` does, R415. -/
theorem odExecute_frameWrite {w w1 : World} {p : Path} {req : OdReq} {d : List Byte} {reason : Nat}
    (hw : w.odWriteRefusal p 0x2043 0 frameOwnerRow = none) (hl : d.length = reqLength { req with index := 0x2043, sub := 0 })
    (hf : 4096 * req.segment.toNat + d.length ≤ 196608) (he : w.frameWrite (4096 * req.segment.toNat) d = (reason, w1)) :
    odExecute (frameRequest p req d) w = w1.odFinish p reason 0 [] false := by
  have whole : w.blobWrite 0x2043 0 { req with index := 0x2043, sub := 0 } d = (reason, w1) := by
    rw [blobWrite, if_neg (by simp [hl]), if_pos rfl, if_neg (by rw [← hl]; exact Nat.not_lt.mpr hf)]
    exact he
  have done : odExecute (frameRequest p req d) w = w.odBlob p 0x2043 0 frameOwnerRow { req with index := 0x2043, sub := 0 } d true := by
    have go : odExecute (frameRequest p req d) w = w.odWriteGo p { req with index := 0x2043, sub := 0 } 0 d true := by
      cases p <;> rfl
    have blob : odIsBlob frameOwnerRow.ty = true := rfl
    have index : (0x2043 : BitVec 16).toNat = 0x2043 := rfl
    have sub : (0 : BitVec 8).toNat = 0 := rfl
    rw [go, odWriteGo]
    simp only [index, sub, odLookup_frameOwner, blob, if_true]
  rw [done, odBlob, hw]
  simp only [whole]
  exact if_neg (by simp [frameOwnerRow])

end World

/-- Where every byte names a husk, frames are given byte by byte as O53 has it (R327). -/
theorem hbmFrameOwnerWrite_performs {s : State} {p : Path} {req : OdReq} {d : List Byte} {row : OdRow} (hnamed : s.world.FramesNamed)
    (ho : odOpen s.world p = true) (hrow : odLookup 0x2043 0 = some row) (hw : s.world.odWriteRefusal p 0x2043 0 row = none)
    (hl : d.length = reqLength { req with index := 0x2043, sub := 0 }) (hf : 4096 * req.segment.toNat + d.length ≤ 196608)
    (hb : ∀ b ∈ d, b.toNat ≤ 0x10) (hd : ∀ k < 16, s.world.huskState k = hsDisabled) :
    Performs (.hbmFrameOwnerWrite p req d) s (fun w =>
      ((odServed w (frameRequest p req d)).framesGiven ((odServed w (frameRequest p req d)).frameWrites (4096 * req.segment.toNat) d)).odFinish
        p 0 0 [] false) := by
  obtain rfl : frameOwnerRow = row := Option.some.inj (odLookup_frameOwner.symm.trans hrow)
  simp only [odOpen, Bool.and_eq_true, Bool.not_eq_true'] at ho
  obtain ⟨⟨hbusy, hrestart⟩, -⟩ := ho
  have served : odServed s.world (frameRequest p req d) = withWindows s.world _ :=
    odGate_executes s.world (frameRequest p req d) id hbusy hrestart
  refine performs_of_eq rfl ((odGate_executes s.world (frameRequest p req d) _ hbusy hrestart).trans ?_)
  rw [served]
  exact World.odExecute_frameWrite hw hl hf (World.frameWrite_applied _ hnamed hb hd)

/-- What O53 states of frames. -/
def FrameWritesApplied (s : State) : Prop :=
  ∀ (p : Path) (req : OdReq) (d : List Byte) (row : OdRow), odOpen s.world p = true → odLookup 0x2043 0 = some row →
    s.world.odWriteRefusal p 0x2043 0 row = none → d.length = reqLength { req with index := 0x2043, sub := 0 } →
    4096 * req.segment.toNat + d.length ≤ 196608 → (∀ b ∈ d, b.toNat ≤ 0x10) → (∀ k < 16, s.world.huskState k = hsDisabled) →
    Performs (.hbmFrameOwnerWrite p req d) s (fun w =>
      ((odServed w (frameRequest p req d)).framesGiven ((odServed w (frameRequest p req d)).frameWrites (4096 * req.segment.toNat) d)).odFinish
        p 0 0 [] false)

theorem frameWritesApplied_of_framesNamed {s : State} (hn : s.world.FramesNamed) : FrameWritesApplied s :=
  fun _ _ _ _ ho hrow hw hl hf hb hd => hbmFrameOwnerWrite_performs hn ho hrow hw hl hf hb hd

/-- The other commands do what O53 states of them. -/
theorem huskCommands_iff : Obligations.HuskCommands ↔ ∀ s, FrameWritesApplied s := by
  refine ⟨fun h s => ?_, fun h s k => ⟨fun p ht => ⟨huskEnable_performs ht, fun hs hc => ?_, fun hs => ?_⟩, huskEnableDone_completes,
    fun p ht => ⟨huskDisable_performs ht, huskDisable_holds ht, huskDisable_refuses ht⟩, translationInvalidation_completes s k, h s⟩⟩
  · obtain ⟨-, -, -, -, frames⟩ := h s 0
    exact frames
  · exact huskEnable_refused ht (by decide) fun ws => World.huskEnable_invalid (w := withWindows s.world ws) hs hc
  · exact huskEnable_refused ht (by decide) fun ws => World.huskEnable_busy (w := withWindows s.world ws) hs

/-! A byte 0x11 of HbmFrameOwner names no husk (R327): where HuskState of husk 16 would stand, the dictionary has SliceGuestEnable of slice 0. -/
namespace UnnamedFrame

/-- Frame 0 holds such a byte, and slice 0 takes guests; every husk is DISABLED. -/
def state : State :=
  { State.reset with dev := { State.reset.dev with
    od := State.reset.dev.od.put (oSliceGuestEnable 0).key 1, frames := AMap.empty.put 0 0x11 } }

/-- The host gives frame 0 to husk 0. -/
def request : OdReq := ⟨0x2043, 0, 0, 1⟩

theorem disabled : ∀ k < 16, state.world.huskState k = hsDisabled := by decide +kernel

/-- The model refuses it: the frame stays. -/
theorem frame_kept : (state.world.odGate (frameRequest (.pf 0) request [1])
    (World.odExecute (frameRequest (.pf 0) request [1]))).dev.frames.get? 0 = some 0x11 := by decide +kernel

/-- O53 has it given. -/
theorem frame_given : ((odServed state.world (frameRequest (.pf 0) request [1])).framesGiven
    ((odServed state.world (frameRequest (.pf 0) request [1])).frameWrites (4096 * request.segment.toNat) [1])).dev.frames.get? 0 = some 1 := by
  decide +kernel

end UnnamedFrame

/-- Refutes O53: of a frame whose byte names no husk (0x11; by `World.framesNamed_frameWrite` no write of HbmFrameOwner gives one) the model
asks whether "husk 16" is DISABLED and reads another object there, so the segment is refused where O53 has it applied. The rest of O53 holds
(`huskCommands_iff`), and so does this where every byte names a husk (`frameWritesApplied_of_framesNamed`). -/
theorem not_huskCommands : ¬ Obligations.HuskCommands := by
  open UnnamedFrame in
  intro h
  have stated := huskCommands_iff.mp h state (.pf 0) request [1] frameOwnerRow (by decide +kernel) odLookup_frameOwner (by decide +kernel)
    (by decide) (by decide) (by decide) disabled
  have runs := performs_of_eq (c := .hbmFrameOwnerWrite (.pf 0) request [1]) (s := state)
    (f := fun w => w.odGate (frameRequest (.pf 0) request [1]) (World.odExecute (frameRequest (.pf 0) request [1]))) rfl rfl
  have same := congrArg (fun d => d.frames.get? 0) (runs.dev_unique stated)
  obtain ⟨ws, rs, ended⟩ := World.odFinish_dev ((odServed state.world (frameRequest (.pf 0) request [1])).framesGiven
    ((odServed state.world (frameRequest (.pf 0) request [1])).frameWrites (4096 * request.segment.toNat) [1])) (.pf 0) 0 0 [] false
  simp only [frame_kept, ended, frame_given] at same
  cases same

end Sys2Proof.Machine
end

section
/-! PROOFS. The statements of the fabric (O22, O23, O24), after the laws that they rest on. -/

/-! ### Link ends and their ledger -/
namespace Sys2Proof.Machine

/-- A link end whose pending retry dates from `since`, when there is one (R350). -/
def LinkSt.retrying (l : LinkSt) (since : Option Nat) : LinkSt := { l with retrySince := since }

/-- A link end that one credit of a queue has come back to (R351). -/
def LinkSt.creditBack (l : LinkSt) (q : Nat) : LinkSt :=
  if l.gAvail q < 8 then { l with g := l.g.put q (l.gAvail q + 1), out := l.out.put q (l.out.getD q 0 - 1) }
  else { l with shared := l.shared + 1, out := l.out.put q (l.out.getD q 0 - 1) }

theorem LinkSt.creditBack_retrying (l : LinkSt) (since : Option Nat) (q : Nat) :
    (l.retrying since).creditBack q = (l.creditBack q).retrying since := by
  by_cases hg : l.gAvail q < 8
  · rw [creditBack, creditBack, if_pos hg]
    exact if_pos hg
  · rw [creditBack, creditBack, if_neg hg]
    exact if_neg hg

/-- Credits come back whatever retry is pending (R350, R351). -/
theorem LinkSt.giveCredit_retrying (l : LinkSt) (since : Option Nat) (q n : Nat) :
    (l.retrying since).giveCredit q n = (l.giveCredit q n).retrying since := by
  induction n generalizing l with
  | zero => rfl
  | succ n ih =>
    by_cases h0 : l.out.getD q 0 = 0
    · calc (l.retrying since).giveCredit q (n + 1)
        _ = l.retrying since := if_pos h0
        _ = (l.giveCredit q (n + 1)).retrying since := congrArg (retrying · since) (if_pos h0).symm
    · calc (l.retrying since).giveCredit q (n + 1)
        _ = ((l.retrying since).creditBack q).giveCredit q n := if_neg h0
        _ = ((l.creditBack q).giveCredit q n).retrying since := by rw [creditBack_retrying, ih]
        _ = (l.giveCredit q (n + 1)).retrying since := congrArg (retrying · since) (if_neg h0).symm

/-- A state's link ends are those of its device. -/
theorem link_of_dev {t : State} {w : World} (h : t.dev = w.dev) (k : Nat) : t.world.link k = w.link k := by
  rw [World.link, State.world_dev, h, World.link]

namespace World

@[simp] theorem link_setLink_same (w : World) (k : Nat) (l : LinkSt) : (w.setLink k l).link k = l :=
  AMap.getD_put_same _ _ _ _

/-- A link end shows in its own rows of the credit ledger alone (R399). -/
theorem rd_setLink_other (w : World) {j : OKey} {k : Nat} (l : LinkSt) (h : ∀ i ∈ [1, 3, 4, 7, 8], j.key ≠ (oLedgerLink k i).key) :
    (w.setLink k l).rd j = w.rd j := by
  simp only [List.forall_mem_cons] at h
  obtain ⟨h1, h3, h4, h7, h8, -⟩ := h
  rw [setLink, rd_wr_other _ h8, rd_wr_other _ h7, rd_wr_other _ h4, rd_wr_other _ h3, rd_wr_other _ h1, rd_upFabric]

/-- A link end does not move the module (R353, R399). -/
theorem self_setLink (w : World) (k : Nat) (l : LinkSt) : (w.setLink k l).self = w.self :=
  rd_setLink_other w l fun i _ => by
    simp only [oFabricNodeAddress, oLedgerLink]
    omega

/-- A 64-bit counter reads what it counted, as its field holds it. -/
theorem rd_inc (w : World) (k : OKey) (n : Nat) : (w.inc k n).rd k = fit 64 (w.rd k + n) := by
  rw [rd_inc_same, Nat.mod_eq_of_lt (fit_lt 64 _)]

end World

end Sys2Proof.Machine

/-! ### Frames -/
namespace Sys2Proof.Machine

namespace World

/-- The world in which the flit of a frame taken on link k passes on or stays in the buffer (R132), where `l` is the link end once the
frame's credits are back and what it acknowledges is retired; a flit for this module frees its slot at once (log entry 88). -/
def flitTaken (w : World) (k h : Nat) (d : List Byte) (l : LinkSt) : World :=
  let x := frameFlit { l with rx := (l.rx + 1) % 4096, retrySince := none } h d
  let w2 := w.setLink k x.2
  if x.1.dest = w.self ∧ !w2.chunkStays x.2.held x.1 then ((w2.localFlit x.1).leaveBuffer k x.1).pump
  else (w2.setLink k { x.2 with held := x.2.held ++ [x.1] }).pump

/-- Whatever retry was pending, none is once the frame is taken. -/
theorem flitTaken_retrying (w : World) (k h : Nat) (d : List Byte) (l : LinkSt) (since : Option Nat) :
    w.flitTaken k h d (l.retrying since) = w.flitTaken k h d l := rfl

/-- Whether the flit is for this module may be asked once the link end is set. -/
theorem flitTaken_eq (w : World) (k h : Nat) (d : List Byte) (l : LinkSt) :
    w.flitTaken k h d l =
      (let x := frameFlit { l with rx := (l.rx + 1) % 4096, retrySince := none } h d
       let w2 := w.setLink k x.2
       if x.1.dest = w2.self ∧ !w2.chunkStays x.2.held x.1 then ((w2.localFlit x.1).leaveBuffer k x.1).pump
       else (w2.setLink k { x.2 with held := x.2.held ++ [x.1] }).pump) := by
  simp only [flitTaken, self_setLink]

section
variable {w : World} {k : Nat} {fr : Frame}

theorem frameReceive_inOrder (ho : w.rd (oLinkState k) = 3 ∨ w.rd (oLinkState k) = 6) (hp : fr.parity = .clean)
    (hg : fhGood fr.header.toNat = true) (hs : fhSeq fr.header.toNat = (w.link k).rx)
    (h1 : 1 ≤ fhType fr.header.toNat) (h5 : fhType fr.header.toNat ≤ 5) :
    w.frameReceive k fr = w.flitTaken k fr.header.toNat fr.flit (LinkSt.giveCredit
      { w.link k with retry := retire (fhAck fr.header.toNat) (w.link k).retry } (fhCredQ fr.header.toNat) (fhCred fr.header.toNat)) := by
  obtain ⟨header, flit, parity⟩ := fr
  cases hp
  have carries : ¬ (w.rd (oLinkState k) ≠ 3 ∧ w.rd (oLinkState k) ≠ 6) := by omega
  have sound : ¬ (Parity.clean = .failed ∨ (!fhGood header.toNat) = true
      ∨ fhType header.toNat ≠ 0 ∧ fhType header.toNat ≠ 7 ∧ fhSeq header.toNat ≠ (w.link k).rx) := by simp [hg, hs]
  have data : fhType header.toNat ≠ 7 ∧ fhType header.toNat ≠ 0 ∧ fhType header.toNat ≠ 6 := by dsimp only at h1 h5; omega
  obtain ⟨ty7, ty0, ty6⟩ := data
  let since := if (retire (fhAck header.toNat) (w.link k).retry).length < (w.link k).retry.length then none else (w.link k).retrySince
  have taken : w.frameReceive k ⟨header, flit, .clean⟩ = w.flitTaken k header.toNat flit (LinkSt.giveCredit
      (LinkSt.retrying { w.link k with retry := retire (fhAck header.toNat) (w.link k).retry } since)
      (fhCredQ header.toNat) (fhCred header.toNat)) :=
    (if_neg carries).trans ((if_neg sound).trans ((if_neg ty7).trans ((if_neg ty0).trans (if_neg ty6))))
  rw [taken, LinkSt.giveCredit_retrying, flitTaken_retrying]

/-- A frame that cannot be taken has a retry asked for, R350. -/
theorem frameReceive_asksRetry (ho : w.rd (oLinkState k) = 3 ∨ w.rd (oLinkState k) = 6)
    (hbad : fr.parity = .failed ∨ fr.parity = .clean ∧ (fhGood fr.header.toNat = false
      ∨ fhType fr.header.toNat ≠ 0 ∧ fhSeq fr.header.toNat ≠ (w.link k).rx)) (h7 : fhType fr.header.toNat ≠ 7) :
    w.frameReceive k fr = w.askRetry k := by
  have carries : ¬ (w.rd (oLinkState k) ≠ 3 ∧ w.rd (oLinkState k) ≠ 6) := by omega
  rcases hbad with hp | ⟨hp, hg | ⟨h0, hs⟩⟩
  · simp [frameReceive, if_neg carries, hp]
  · simp [frameReceive, if_neg carries, hp, hg]
  · simp [frameReceive, if_neg carries, hp, h0, h7, hs]

end

end World

/-- The retry that a frame asks for names the SEQ expected, and nothing of the frame is taken. -/
theorem linkFrameReceive_asksRetry {s : State} {k : Fin 24} {f : Frame}
    (ho : s.val (oLinkState k.val) = 3 ∨ s.val (oLinkState k.val) = 6) (h7 : fhType f.header.toNat ≠ 7)
    (hbad : f.parity = .failed ∨ f.parity = .clean ∧ (fhGood f.header.toNat = false
      ∨ fhType f.header.toNat ≠ 0 ∧ fhSeq f.header.toNat ≠ (s.world.link k.val).rx)) :
    Completes (.linkFrameReceive k f) s (fun t =>
      (t.world.link k.val).ctl = .retryReq (s.world.link k.val).rx :: (s.world.link k.val).ctl
      ∧ (t.world.link k.val).rx = (s.world.link k.val).rx ∧ (t.world.link k.val).retry = (s.world.link k.val).retry
      ∧ t.dev.fabric.inbox = s.dev.fabric.inbox ∧ SameMemory s t) := by
  refine completes_of_effect rfl (World.frameReceive_asksRetry ho hbad h7) rfl fun t ht hmem => ?_
  rw [link_of_dev ht, World.askRetry, World.link_setLink_same, ht]
  exact ⟨rfl, rfl, rfl, rfl, hmem⟩

/-- Settles O22: a frame is taken in order (`World.frameReceive_inOrder`) or has a retry asked for (`World.frameReceive_asksRetry`). -/
theorem framesAreTakenInOrder : Obligations.FramesAreTakenInOrder := by
  intro s k f ho h
  refine ⟨fun hp hg hs h1 h5 => ?_, fun h7 hbad => linkFrameReceive_asksRetry ho h7 hbad⟩
  exact performs_of_eq rfl ((World.frameReceive_inOrder ho hp hg hs h1 h5).trans (World.flitTaken_eq ..))

end Sys2Proof.Machine

/-! ### Links go down and come up -/
namespace Sys2Proof.Machine

/-- A link end whose credits have been reclaimed, R364. -/
def LinkSt.reclaimed (l : LinkSt) : LinkSt := { l with up := false, out := .empty, g := .empty, shared := 0, downAt := none }

namespace World

/-- The world in which a link's credits are counted as reclaimed and retired, R364 and R399. -/
def creditsCounted (w : World) (k tx out : Nat) : World :=
  (((w.inc (oLinkCreditsReclaimed k) out).inc (oLedgerLink k 5) tx).inc (oLedgerLink k 6) out).inc (oLedgerLink k 2) (tx + out)

theorem rd_creditsCounted_reclaimed (w : World) {k : Nat} (hk : k < 24) (tx out : Nat) :
    (w.creditsCounted k tx out).rd (oLinkCreditsReclaimed k) = fit 64 (w.rd (oLinkCreditsReclaimed k) + out) := by
  have other : ∀ j, (oLinkCreditsReclaimed k).key ≠ (oLedgerLink k j).key := fun j => by
    simp only [oLinkCreditsReclaimed, oLedgerLink]
    omega
  rw [creditsCounted, rd_inc_other _ (other 2), rd_inc_other _ (other 6), rd_inc_other _ (other 5), rd_inc]

/-- Rows of a link's ledger are objects of their own. -/
theorem oLedgerLink_key_ne (k : Nat) {i j : Nat} (h : i ≠ j) : (oLedgerLink k i).key ≠ (oLedgerLink k j).key := by
  simp only [oLedgerLink]
  omega

theorem rd_creditsCounted_retired (w : World) {k : Nat} (hk : k < 24) (tx out : Nat) :
    (w.creditsCounted k tx out).rd (oLedgerLink k 2) = fit 64 (w.rd (oLedgerLink k 2) + (tx + out)) := by
  have other : (oLedgerLink k 2).key ≠ (oLinkCreditsReclaimed k).key := by
    simp only [oLinkCreditsReclaimed, oLedgerLink]
    omega
  rw [creditsCounted, rd_inc, rd_inc_other _ (oLedgerLink_key_ne k (by decide)), rd_inc_other _ (oLedgerLink_key_ne k (by decide)),
    rd_inc_other _ other]

section
variable {w : World} {k t0 : Nat}

theorem retryExhausted_due (hr : (w.link k).retrySince = some t0) (hd : t0 + w.rd oLinkRetryLimit ≤ w.now) :
    w.retryExhausted k = w.goDown k 0x0304 := by
  simp only [retryExhausted, hr, if_pos hd]

theorem creditTimeout_due (hdown : (w.link k).downAt = some t0) (hup : (w.link k).up = true) (hst : w.rd (oLinkState k) ≠ 3)
    (hd : t0 + w.rd oLinkCreditTimeout ≤ w.now) :
    w.creditTimeout k = (w.creditsCounted k (w.link k).txAvail (w.link k).txOut).setLink k (w.link k).reclaimed := by
  have due : (!(w.link k).up || w.rd (oLinkState k) == 3 || decide (w.now < t0 + w.rd oLinkCreditTimeout)) = false := by
    simp [hup, hst, hd]
  simp only [creditTimeout, hdown, due]
  rfl

theorem drainEnd_due (hs : w.dev.fabric.drainSince = some t0) (hd : w.portsHold = false ∨ t0 + 10000 ≤ w.now) :
    w.drainEnd = (w.upFabric (fun f => { f with waiting := [], drainSince := none })).each (List.range 24) endLink := by
  have ended : (w.portsHold && decide (w.now < t0 + 10000)) = false := by
    rcases hd with hd | hd <;> simp [hd]
  simp only [drainEnd, hs, ended]
  rfl

/-- A link that its port ends goes DOWN if it carries frames, and its buffer is empty, R370. -/
theorem endLink_eq (w : World) (k : Nat) :
    w.endLink k =
      (let w1 := w.setLink k { w.link k with held := [] }
       if w1.rd (oLinkState k) = 3 ∨ w1.rd (oLinkState k) = 6 then
        (w1.setLink k { w1.link k with ctl := .goingDown :: (w1.link k).ctl }).goDown k 0x0301
       else w1) := by
  simp only [endLink, linkOpen, Bool.or_eq_true, beq_iff_eq]

end

/-- The link may train, and both ends agree on the installation (R353). -/
structure TrainsIn (w : World) (k far dims : Nat) : Prop where
  state : w.rd (oLinkState k) = 1 ∨ w.rd (oLinkState k) = 2
  powered : w.powered (24 + k / 4) = true
  supplied : w.dev.fabric.overload.elem (k / 4) = false
  self : nodeValid w.dims w.self = true
  far : nodeValid w.dims far = true
  dims : dims = w.dims

section
variable {w : World} {k far dims : Nat} (h : w.TrainsIn k far dims)
include h

theorem trained_miswired (hn : neighbour w.dims w.self (k / 4) ≠ some far) :
    w.trained k far dims = (w.wr (oLinkState k) 4).wr (oLinkReason k) 0x0306 := by
  obtain ⟨hst, hpow, hsup, hself, hfar, rfl⟩ := h
  have supply : k / 4 ∉ w.dev.fabric.overload := by simpa using hsup
  have trains : ¬ (w.rd (oLinkState k) ≠ 1 ∧ w.rd (oLinkState k) ≠ 2) := by omega
  simp [trained, trains, hpow, supply, hself, hfar, hn]

/-- A link that comes up with no credits left of its last time starts with fresh ones, R351 and R353. -/
theorem trained_active (hn : neighbour w.dims w.self (k / 4) = some far) (hup : (w.link k).up = false) :
    w.trained k far dims = (((w.wr (oLinkState k) 3).inc (oLedgerLink k 0) 1024).setLink k
      { LinkSt.init with up := true, shared := 768, held := (w.link k).held }).pump.sendLinkStatus := by
  obtain ⟨hst, hpow, hsup, hself, hfar, rfl⟩ := h
  have supply : k / 4 ∉ w.dev.fabric.overload := by simpa using hsup
  have trains : ¬ (w.rd (oLinkState k) ≠ 1 ∧ w.rd (oLinkState k) ≠ 2) := by omega
  simp [trained, trains, hpow, supply, hself, hfar, hn, hup]

end

end World

section
variable {s : State} {k : Fin 24}

theorem linkCreditTimeout_completes {t0 : Nat} (hdown : (s.world.link k.val).downAt = some t0) (hup : (s.world.link k.val).up = true)
    (hst : s.val (oLinkState k.val) ≠ 3) (hd : t0 + s.val oLinkCreditTimeout ≤ s.dev.time.tick) :
    Completes (.linkCreditTimeout k) s (fun t =>
      t.val (oLinkCreditsReclaimed k.val) = fit 64 (s.val (oLinkCreditsReclaimed k.val) + (s.world.link k.val).txOut)
      ∧ t.val (oLedgerLink k.val 2) = fit 64 (s.val (oLedgerLink k.val 2) + ((s.world.link k.val).txAvail + (s.world.link k.val).txOut))
      ∧ (t.world.link k.val).up = false ∧ (t.world.link k.val).downAt = none ∧ (t.world.link k.val).txOut = 0
      ∧ (t.world.link k.val).retry = (s.world.link k.val).retry ∧ SameMemory s t) := by
  refine completes_of_effect rfl (World.creditTimeout_due hdown hup hst hd) rfl fun t ht hmem => ?_
  rw [link_of_dev ht, World.link_setLink_same]
  refine ⟨?_, ?_, rfl, rfl, rfl, rfl, hmem⟩
  · rw [val_of_dev ht, World.rd_setLink_other _ _ fun i _ => ?_, World.rd_creditsCounted_reclaimed _ k.isLt]
    · rfl
    · simp only [oLinkCreditsReclaimed, oLedgerLink]
      omega
  · have row : ∀ i ∈ [1, 3, 4, 7, 8], (oLedgerLink k.val 2).key ≠ (oLedgerLink k.val i).key := fun i hi =>
      World.oLedgerLink_key_ne k.val (by rintro rfl; exact absurd hi (by decide))
    rw [val_of_dev ht, World.rd_setLink_other _ _ row, World.rd_creditsCounted_retired _ k.isLt]
    rfl

theorem linkUp_miswired {far : BitVec 16} {dims : BitVec 32} (h : s.world.TrainsIn k.val far.toNat dims.toNat)
    (hn : neighbour s.world.dims s.world.self (k.val / 4) ≠ some far.toNat) :
    Completes (.linkUp k far dims) s (fun t => t.val (oLinkState k.val) = 4 ∧ t.val (oLinkReason k.val) = 0x0306
      ∧ t.dev.fabric = s.dev.fabric ∧ SameMemory s t ∧ SameObjectsBut [oLinkState k.val, oLinkReason k.val] s t) := by
  have keys : (oLinkState k.val).key ≠ (oLinkReason k.val).key := by
    simp only [oLinkState, oLinkReason]
    omega
  refine completes_of_effect rfl (World.trained_miswired h hn) rfl fun t ht hmem => ⟨?_, ?_, ?_, hmem, fun j hj => ?_⟩
  · rw [val_of_dev ht, World.rd_wr_other _ keys]
    exact World.rd_wr_same _ _ _
  · exact (val_of_dev ht _).trans (World.rd_wr_same _ _ _)
  · rw [ht]
    rfl
  · simp only [List.map_cons, List.map_nil, List.mem_cons, List.not_mem_nil, or_false, not_or] at hj
    obtain ⟨hstate, hreason⟩ := hj
    rw [val_of_dev ht, World.rd_wr_other _ hreason, World.rd_wr_other _ hstate]
    rfl

end

/-- Settles O23: a link's three ways down and a retry, its credits' reclaim, the two ends of its training, and the end of the ports' drain. -/
theorem linksGoDownAndComeUp : Obligations.LinksGoDownAndComeUp := by
  refine ⟨fun s k ho => ⟨rfl, rfl, fun t0 hr hd => ?_, fun seq => ?_⟩, fun s k t0 => linkCreditTimeout_completes,
    fun s k far dims hst hpow hsup hself hfar hdims => linkUp_miswired ⟨hst, hpow, hsup, hself, hfar, hdims⟩,
    fun s k far dims hst hpow hsup hself hfar hdims hn hup => ?_, fun s t0 hs hd => ?_⟩
  · exact performs_of_eq rfl (World.retryExhausted_due hr hd)
  · exact performs_of_eq (g := fun w => w.resend k.val) rfl (if_pos ho)
  · exact performs_of_eq rfl (World.trained_active ⟨hst, hpow, hsup, hself, hfar, hdims⟩ hn hup)
  · refine performs_of_eq rfl (congrArg World.downReady ((World.drainEnd_due hs hd).trans ?_))
    exact congrArg (World.each _ _) (funext fun w => funext fun k => w.endLink_eq k)

end Sys2Proof.Machine

/-! ### Directions, cables and incomplete messages -/
namespace Sys2Proof.Machine

/-- A write that is carried out leaves the fabric as its effect made it; the effect does not look at the windows. -/
theorem odCommand_fabric {s : State} {p : Path} {index sub : Nat} {v : Word} {effect : World → Nat → Nat × World} {reason : Nat}
    {w1 : World} (ht : odTakes s.world p index sub v = true)
    (he : ∀ ws, effect (withWindows s.world ws) v.toNat = (reason, withWindows w1 ws)) (hr : reason ≠ World.odPending) :
    (s.run (fun w => w.odCommand p index sub v true effect)).dev.fabric = w1.dev.fabric := by
  obtain ⟨ws, hrun⟩ := odCommand_takes ht effect
  have ended : ∀ (w : World) (rs : Nat), (w.odFinish p rs 0 [] false).dev.fabric = w.dev.fabric := fun w rs => by
    obtain ⟨_, _, hdev⟩ := w.odFinish_dev p rs 0 [] false
    rw [hdev]
  simp only [he, if_neg hr] at hrun
  rw [State.run_dev, hrun]
  split <;> exact ended _ _

namespace World

/-- Since when the directions asked to be OFF drain, once `v` is asked of direction d (R370). -/
def drainAsked (w : World) (d v : Nat) : AMap Nat :=
  if v = 3 ∧ w.rd (oFabricDirState d) ≠ 3 then w.dev.fabric.dirDrain.put d w.now else w.dev.fabric.dirDrain.del d

/-- A higher power state is asked of direction d: it starts the transition at once (R363). -/
def Rises (w : World) (d v : Nat) : Prop := v < w.rd (oFabricDirState d) ∧ w.rd (oFabricDirState d) ≠ 4

/-- The world in which the transition to a higher power state has started. -/
def riseAsked (w : World) (d v : Nat) : World :=
  ((w.wr (oFabricDirPowerReq d) v).dirRaise d v).upFabric (fun f => { f with dirDrain := w.drainAsked d v })

/-- The world in which any other state is asked of direction d; it is entered once both ends ask for it. -/
def otherAsked (w : World) (d v : Nat) : World :=
  (w.wr (oFabricDirPowerReq d) v).upFabric (fun f => { f with target := f.target.put d v, dirDrain := w.drainAsked d v })

section
variable {w : World} {d v : Nat}

theorem dirPowerReq_rises (h : w.Rises d v) : w.dirPowerReq d v = (0, w.riseAsked d v) := by
  simp only [dirPowerReq, if_pos (show v < w.rd (oFabricDirState d) ∧ w.rd (oFabricDirState d) ≠ 4 from h)]
  rfl

theorem dirPowerReq_other (h : ¬ w.Rises d v) : w.dirPowerReq d v = (0, w.otherAsked d v) := by
  simp only [dirPowerReq, if_neg (show ¬ (v < w.rd (oFabricDirState d) ∧ w.rd (oFabricDirState d) ≠ 4) from h)]
  rfl

end

/-- What is asked of a direction is another object than a direction's state. -/
theorem dirRequest_key_ne_dirState {d e : Nat} (hd : d < 6) : (oFabricDirPowerReq d).key ≠ (oFabricDirState e).key := by
  simp only [oFabricDirPowerReq, oFabricDirState]
  omega

theorem rd_otherAsked (w : World) {d : Nat} (v : Nat) (k : OKey) (hk : k.key ≠ (oFabricDirPowerReq d).key) :
    (w.otherAsked d v).rd k = w.rd k := rd_wr_other w hk v

theorem rd_riseAsked (w : World) {d : Nat} (v : Nat) (k : OKey) (hreq : k.key ≠ (oFabricDirPowerReq d).key)
    (hstate : k.key ≠ (oFabricDirState d).key) : (w.riseAsked d v).rd k = w.rd k :=
  (rd_wr_other _ hstate 4).trans (rd_wr_other w hreq v)

section
variable {w : World} {d t0 : Nat}

/-- A direction that is powered ends its transition to L0 or L0h in that state, R362 (log entry 99). -/
theorem dirDone_powered (hne : w.dev.fabric.target.getD d (w.rd (oFabricDirPowerReq d)) ≠ w.rd (oFabricDirState d))
    (hlt : w.dev.fabric.target.getD d (w.rd (oFabricDirPowerReq d)) < 2) (hp : w.powered (24 + d) = true) :
    w.dirDone d = ((w.wr (oFabricDirState d) (w.dev.fabric.target.getD d (w.rd (oFabricDirPowerReq d)))).upFabric (fun f =>
      { f with leaving := f.leaving.del d, dirDrain := f.dirDrain.del d })).readCable d := by
  simp [dirDone, hne, Nat.not_le.mpr hlt, hp, show w.dev.fabric.target.getD d (w.rd (oFabricDirPowerReq d)) ≠ 3 by omega]

/-- A cable waits to be read while its direction is off, R347. -/
theorem cableIn_unpowered (c : Cable) (hp : w.powered (24 + d) = false) :
    w.cableIn d c = w.upFabric (fun f => { f with
      cables := f.cables.put d (if c = .other then 2 else 1), overload := setErase d f.overload }) :=
  if_pos (.inl (by simp [hp]))

theorem cableIn_powered (c : Cable) (hp : w.powered (24 + d) = true) (hst : w.rd (oFabricDirState d) < 3) :
    w.cableIn d c = (w.upFabric (fun f => { f with
      cables := f.cables.put d (if c = .other then 2 else 1), overload := setErase d f.overload })).readCable d :=
  if_neg (by simp [hp, hst])

theorem supplyOverload_powered (hp : w.powered (24 + d) = true) :
    w.supplyOverload d = ((w.upFabric (fun f => { f with overload := setInsert d f.overload })).dirDown d 0x0301).each [0, 1, 2, 3] (fun w l =>
      if w.rd (oLinkState (d * 4 + l)) = 2 then
        (w.wr (oLinkState (d * 4 + l)) 1).wr (oLinkReason (d * 4 + l)) 0x0301
      else w) := if_neg (by simp [hp])

section
variable {id : Nat} {r : RxMsg} (hr : w.dev.fabric.assembling.get? id = some r) (hd : r.last + w.rd oFabricContTimeout ≤ w.now)
include hr hd

/-- An incomplete NACK is dropped without an answer, R361 (log entry 87). -/
theorem contTimeout_nack (hk : fld r.hdr 48 8 = 0x41) :
    w.contTimeout id = w.upFabric (fun f => { f with assembling := f.assembling.del id }) := by
  simp only [contTimeout, hr, if_neg (Nat.not_lt.mpr hd)]
  exact if_pos hk

theorem contTimeout_answered (hk : fld r.hdr 48 8 ≠ 0x41) :
    w.contTimeout id = ((w.upFabric (fun f => { f with assembling := f.assembling.del id })).postNack (msgOf w.self r.vc r.hdr []) 0x0308).pump := by
  simp only [contTimeout, hr, if_neg (Nat.not_lt.mpr hd)]
  exact if_neg hk

end
end
end World

section
variable {s : State} {p : Path} {d : Fin 6} {v : Word} (ht : odTakes s.world p 0x5001 (1 + d.val) v = true)
include ht

/-- What every power request leaves, whatever it asks: the request itself is the only object that changes beside the direction's state. -/
theorem fabricDirPowerReq_ends {w1 : World} (he : ∀ ws, (withWindows s.world ws).dirPowerReq d.val v.toNat = (0, withWindows w1 ws))
    (hlog : w1.log = []) (hreq : w1.rd (oFabricDirPowerReq d.val) = v.toNat)
    (hrd : ∀ k : OKey, k.key ≠ (oFabricDirPowerReq d.val).key → k.key ≠ (oFabricDirState d.val).key → w1.rd k = s.val k) :
    Completes (.fabricDirPowerReq p d v) s (fun t => t.reply p = 0 ∧ t.val (oFabricDirPowerReq d.val) = v.toNat
      ∧ t.val (oFabricDirState d.val) = w1.rd (oFabricDirState d.val) ∧ t.dev.fabric = w1.dev.fabric
      ∧ SameMemory s t ∧ SameObjectsBut [oFabricDirPowerReq d.val, oFabricDirState d.val, oNvConfigWrites] s t) := by
  obtain ⟨reqNv, stateNv, netReq, netState⟩ : (oFabricDirPowerReq d.val).key ≠ oNvConfigWrites.key
      ∧ (oFabricDirState d.val).key ≠ oNvConfigWrites.key ∧ oFieldNetState.key ≠ (oFabricDirPowerReq d.val).key
      ∧ oFieldNetState.key ≠ (oFabricDirState d.val).key := by
    simp only [oFabricDirPowerReq, oFabricDirState, oNvConfigWrites, oFieldNetState]
    omega
  have ended := odCommand_ends (effect := fun w n => w.dirPowerReq d.val n) ht he (by decide) hlog (hrd _ netReq netState)
  have fabric := odCommand_fabric (effect := fun w n => w.dirPowerReq d.val n) ht he (by decide)
  refine completes_of_done rfl ⟨ended.reply, (ended.val _ reqNv).trans hreq, ended.val _ stateNv, fabric, ended.memory, fun k hk => ?_⟩
  simp only [List.map_cons, List.map_nil, List.mem_cons, List.not_mem_nil, or_false, not_or] at hk
  obtain ⟨hkreq, hkstate, hknv⟩ := hk
  exact (ended.val k hknv).trans (hrd k hkreq hkstate)

theorem fabricDirPowerReq_completes :
    let st := s.val (oFabricDirState d.val)
    let drain := if v = 3 ∧ st ≠ 3 then s.dev.fabric.dirDrain.put d.val s.dev.time.tick else s.dev.fabric.dirDrain.del d.val
    Completes (.fabricDirPowerReq p d v) s (fun t => t.reply p = 0 ∧ t.val (oFabricDirPowerReq d.val) = v.toNat
      ∧ t.dev.fabric.target.get? d.val = some v.toNat ∧ t.dev.fabric.dirDrain = drain
      ∧ t.val (oFabricDirState d.val) = (if v.toNat < st ∧ st ≠ 4 then 4 else st)
      ∧ (¬ (v.toNat < st ∧ st ≠ 4) → t.dev.fabric = { s.dev.fabric with
          target := s.dev.fabric.target.put d.val v.toNat, dirDrain := drain })
      ∧ SameMemory s t ∧ SameObjectsBut [oFabricDirPowerReq d.val, oFabricDirState d.val, oNvConfigWrites] s t) := by
  intro st drain
  have hdrain : s.world.drainAsked d.val v.toNat = drain := by
    have off : v.toNat = 3 ↔ v = 3 := BitVec.toNat_inj (y := 3)
    simp only [World.drainAsked, off]
    rfl
  have keys := World.dirRequest_key_ne_dirState (e := d.val) d.isLt
  by_cases h : s.world.Rises d.val v.toNat
  · have ends := fabricDirPowerReq_ends ht (w1 := s.world.riseAsked d.val v.toNat)
      (fun ws => World.dirPowerReq_rises (w := withWindows s.world ws) h) rfl
      ((World.rd_wr_other _ keys 4).trans (World.rd_wr_word _ _ v)) fun k => World.rd_riseAsked _ _ k
    refine ends.mono fun t ⟨hreply, hreq, hstate, hfabric, hmem, hobj⟩ => ?_
    refine ⟨hreply, hreq, ?_, ?_, ?_, fun hn => absurd h hn, hmem, hobj⟩
    · rw [hfabric]
      exact AMap.get?_put_same _ _ _
    · rw [hfabric]
      exact hdrain
    · exact hstate.trans ((World.rd_wr_same _ _ _).trans (if_pos h).symm)
  · have ends := fabricDirPowerReq_ends ht (w1 := s.world.otherAsked d.val v.toNat)
      (fun ws => World.dirPowerReq_other (w := withWindows s.world ws) h) rfl (World.rd_wr_word _ _ v) fun k hk _ => World.rd_otherAsked _ _ k hk
    refine ends.mono fun t ⟨hreply, hreq, hstate, hfabric, hmem, hobj⟩ => ?_
    have hfab : t.dev.fabric = { s.dev.fabric with target := s.dev.fabric.target.put d.val v.toNat, dirDrain := drain } := by
      rw [hfabric, ← hdrain]
      rfl
    refine ⟨hreply, hreq, ?_, ?_, ?_, fun _ => hfab, hmem, hobj⟩
    · rw [hfab]
      exact AMap.get?_put_same _ _ _
    · rw [hfab]
    · exact hstate.trans ((World.rd_otherAsked _ _ _ keys.symm).trans (if_neg h).symm)

end

theorem cableInserted_unpowered {s : State} {d : Fin 6} (c : Cable) (hp : s.world.powered (24 + d.val) = false) :
    Completes (.cableInserted d c) s (fun t => t.dev.fabric = { s.dev.fabric with
        cables := s.dev.fabric.cables.put d.val (if c = .other then 2 else 1), overload := setErase d.val s.dev.fabric.overload }
      ∧ t.dev.od = s.dev.od ∧ SameMemory s t) := by
  refine completes_of_effect rfl (World.cableIn_unpowered c hp) rfl fun t ht hmem => ?_
  rw [ht]
  exact ⟨rfl, rfl, hmem⟩

theorem msgContTimeout_nack {s : State} {id : Nat} {r : RxMsg} (hr : s.dev.fabric.assembling.get? id = some r)
    (hd : r.last + s.val oFabricContTimeout ≤ s.dev.time.tick) (hk : fld r.hdr 48 8 = 0x41) :
    Completes (.msgContTimeout id) s (fun t => t.dev.fabric = { s.dev.fabric with assembling := s.dev.fabric.assembling.del id }
      ∧ t.dev.od = s.dev.od ∧ SameMemory s t) := by
  refine completes_of_effect rfl (World.contTimeout_nack hr hd hk) rfl fun t ht hmem => ?_
  rw [ht]
  exact ⟨rfl, rfl, hmem⟩

/-- Settles O24: a power request by whether it asks for a higher state (`World.Rises`), then the end of a transition, the cable's two cases,
the overload, the incomplete message and the link's status, each by the branch of its operation that the statement names. -/
theorem directionsAndCables : Obligations.DirectionsAndCables := by
  refine ⟨fun s p d v ht => fabricDirPowerReq_completes ht, fun s d hne hlt hp => ?_, fun s d c hp => cableInserted_unpowered c hp,
    fun s d c hp hst => ?_, fun s d hp => ?_, fun s id r hr hd => ⟨msgContTimeout_nack hr hd, fun hk => ?_⟩, fun s hd => ?_⟩
  · exact performs_of_eq rfl (World.dirDone_powered hne hlt hp)
  · exact performs_of_eq rfl (World.cableIn_powered c hp hst)
  · exact performs_of_eq rfl (World.supplyOverload_powered hp)
  · exact performs_of_eq rfl (World.contTimeout_answered hr hd hk)
  · exact performs_of_eq rfl (if_neg (Nat.not_lt.mpr hd))

end Sys2Proof.Machine
end
